-- ==== Sys2Proof/Word.lean ====
section
/-! DEFINITION. The word types of the device and their plainest arithmetic (00 R6, 02 R34). -/

namespace Sys2Proof

/-- A byte of memory. -/
abbrev Byte := BitVec 8
/-- A control-thread register, a generic pointer (09 R175, 12 R254). -/
abbrev Word := BitVec 64
/-- The 64 data bytes of a token, of an element register and of a cache line (02 R34, 05 R115). -/
abbrev Line := BitVec 512

/-- Field `[lo + len - 1 : lo]` of `w` (00 R6). -/
def fld {n : Nat} (w : BitVec n) (lo len : Nat) : BitVec len := w.extractLsb' lo len

/-- Field `[lo + len - 1 : lo]` of `w`, read unsigned. -/
def fldN {n : Nat} (w : BitVec n) (lo len : Nat) : Nat := (w.extractLsb' lo len).toNat

/-- Bit `k` of `w`. -/
def bitOf {n : Nat} (w : BitVec n) (k : Nat) : Bool := w.getLsbD k

end Sys2Proof
end

