-- ==== Sys2Proof/Machine/Flags.lean ====
section
/-! DEFINITION. Comparisons and counts that conditions and results are made of, and the limiting of an exact integer to
a type: wrap, `.sat`, `.ovt` (09 R186, R190; 02 R37). The device has no flags register. -/

namespace Sys2Proof.Machine

/-- The shift count of a 64-bit shift: B[5:0] (R186). -/
def shiftCount (b : Word) : Nat := fldN b 0 6
/-- sA < sB (R190). -/
def signedLess (a b : Word) : Bool := decide (a.toInt < b.toInt)
/-- zA < zB (R190). -/
def unsignedLess (a b : Word) : Bool := decide (a.toNat < b.toNat)

/-- Zero bits above the highest set bit of the low `n` bits of `v`; `n` when they are zero. -/
def clzNat : Nat → Nat → Nat
  | 0, _ => 0
  | n + 1, v => if v.testBit n then 0 else clzNat n v + 1
/-- Set bits among the low `n` bits of `v`. -/
def popcNat : Nat → Nat → Nat
  | 0, _ => 0
  | n + 1, v => (if v.testBit n then 1 else 0) + popcNat n v
def leadingZeros (a : Word) : Word := BitVec.ofNat 64 (clzNat 64 a.toNat)
def setBits (a : Word) : Word := BitVec.ofNat 64 (popcNat 64 a.toNat)

end Sys2Proof.Machine
end

