-- ==== Sys2Proof/Syntax.lean ====
section
/-! DEFINITION. The whole instruction set as syntax: one constructor for each row of spec/opcode_table.json.
Control words (04 Table 4-2), element words (04 Table 4-9), MTU records (04 Table 4-12), and the events of the
device and of its surroundings. Encoded operands are the encoding's own bit fields; events name units by number. -/

namespace Sys2Proof

/-- A column-core thread: fabric die 0-3, page 0-47, thread 0-7 (01 R18, R20). -/
structure ThreadId where
  die : Nat
  page : Nat
  tid : Nat
  deriving DecidableEq, Repr, Inhabited

/-- A fabric element: die, page, position 0-23 within the page (01 R19). -/
structure FeId where
  die : Nat
  page : Nat
  pos : Nat
  deriving DecidableEq, Repr, Inhabited

/-- A residency: die and residency-table index (08 R158). -/
structure ResId where
  die : Nat
  idx : Nat
  deriving DecidableEq, Repr, Inhabited

/-- The three engines of a column core (01 R21). -/
inductive Unit3 where
  | se | tf | ce
  deriving DecidableEq, Repr, Inhabited

/-- The side of a site, in the order of 05 R112. -/
inductive Side where
  | n | e | s | w
  deriving DecidableEq, Repr, Inhabited

/-- One track register of a switch box: the box that holds it, the side and track it leaves by, and whether it
is the plane-5 register (05 R113, 18 R375). -/
structure LatchKey where
  die : Nat
  row : Nat
  col : Nat
  side : Side
  track : Nat
  p5 : Bool
  deriving DecidableEq, Repr, Inhabited

/-- Where a token that hops stands: an output register, a track register, or a page-network queue (05 R113, R115). -/
inductive HopFrom where
  | outReg (f : FeId) (port : Nat)
  | latch (k : LatchKey)
  | net (r : ResId) (edge : Nat)
  deriving DecidableEq, Repr, Inhabited

/-- What an input binding does next: deliver what comes next, read its next token, or read ahead one element of a later token,
so many tokens on (13 R279). -/
inductive StreamTurn where
  | deliver
  | read
  | ahead (token elem : Nat)
  deriving DecidableEq, Repr, Inhabited

/-- An access that has been made and has yet to perform (17 R347). -/
inductive AccessRef where
  | storeBuffer (t : ThreadId)
  | fePort (f : FeId) (pos : Nat)
  | binding (r : ResId) (bind : Nat) (pos : Nat)
  | service (die : Nat) (pos : Nat)
  deriving DecidableEq, Repr, Inhabited

/-- Who makes a load-class access (15 R319, R324). -/
inductive Requester where
  | thread (t : ThreadId)
  | fePort (f : FeId) (op : Nat)
  | binding (r : ResId) (bind : Nat) (elem : Nat)
  | engine (t : ThreadId) (unit : Unit3) (seq : Nat)
  deriving DecidableEq, Repr, Inhabited

/-- The trap, fault and refusal codes of 18 Table 18-1. -/
inductive Code where
  | cfgImage | cfgShape | loadRange | cfgEncoding | cfgRoute | cfgFormat | cfgBank | cfgSpace | rotDepth
  | cfgBusy | bankBusy | gangPeerLost | launchBad
  | illegal | misaligned | badWindow | windowCross | page | access | poison | argRange | qwaitTimeout | user | brk
  | peerGone | sporeUntagged | sporeBusy | sporeSelf | sporeCycle | sporeTimeout | sporeFailed
  | arithOvf | badBlock | rotSlip | overrun | killed | uncorrected
  deriving DecidableEq, Repr, Inhabited

/-- How a host access reaches the device: by which link, and in which stream of it, if in one: stream 0 is link IDE, 1 to 4 the
selective streams (21 R404, R407). -/
structure Via where
  link : Nat := 0
  stream : Option Nat := none
  deriving DecidableEq, Repr, Inhabited

/-- The host's BAR0 registers that a plain write reaches (21 R405, R406, R415, Tables 18-4, 21-5). -/
inductive BarReg where
  | hcqBase | hcqSize | hcqProd | hwin
  | frqBase (die : Nat)
  /-- Is MSI-X enabled in a function (0, 1)? -/
  | msixEnable (fn : Nat)
  /-- A half of an entry of the MSI-X table: its low or its high 64 bits (21 R406). -/
  | msixEntry (vector : Nat) (high : Bool)
  /-- A register that answers in recovery (21 R415). -/
  | recovery (k : Nat)
  /-- Registers that are read only: a write is ignored (00 R7). -/
  | hcqCons | pwrstat | auditHead
  | frqProd (die : Nat)
  deriving DecidableEq, Repr, Inhabited

/-- What boot finds (21 R415, 20 R401): does each firmware image verify, its digests, and the units found bad. -/
structure BootReport where
  verified : Bool
  digests : List (BitVec 384)
  badDies : List Nat
  badPages : List (Nat × Nat)
  badBanks : List (Nat × Nat)
  badPorts : List Nat
  lanes : List Nat
  poolUnits : Nat
  /-- Bytes behind each CXL port, as enumerated (21 R408). -/
  capacity : List Nat
  /-- Of each image, its security version and the fused minimum (21 R415). -/
  versions : List (Nat × Nat)
  deriving DecidableEq, Repr, Inhabited

/-- The algorithms a host offers in SPDM negotiation: does the offer hold ECDSA P-384, SHA-384 and AES-256-GCM
(21 R417). -/
structure SpdmOffer where
  p384 : Bool
  sha384 : Bool
  aes256 : Bool
  deriving DecidableEq, Repr, Inhabited

/-- A virtual channel of a Zilost Link port (21 R411). -/
inductive LinkChan where
  | req | rsp | inv | ctl
  deriving DecidableEq, Repr, Inhabited

/-- What arrives on a Zilost Link port (21 R411): a read, write or AMO request, a response, an invalidation, a control
message, or returned send allowances. -/
inductive LinkMsg where
  | read (peer pa len : Nat)
  | write (peer pa : Nat) (len : Nat) (data : BitVec 512)
  /-- An AMO on `n` words of `w` bytes from an address on (13 R290, R295). -/
  | amo (peer pa : Nat) (op : BitVec 3) (w n : Nat) (signed : Bool) (b c : BitVec 512)
  /-- A completion pair's update: 1 added to the word at an address, a status written to the next, as one access (06 R133). -/
  | pair (peer pa status : Nat)
  | rsp (peer : Nat) (len : Nat) (data : BitVec 512)
  | inv (peer line : Nat)
  | ctl (peer : Nat)
  | allowance (ch : LinkChan) (n : Nat)
  deriving DecidableEq, Repr, Inhabited

/-- The fields of an MTU record beside OP (04 Table 4-11). -/
structure MtuFields where
  dst : BitVec 4
  sa : BitVec 4
  sb : BitVec 4
  sc : BitVec 4
  ka : BitVec 4
  kb : BitVec 4
  kc : BitVec 4
  ta : BitVec 4
  tb : BitVec 4
  tc : BitVec 4
  td : BitVec 4
  rm : BitVec 2
  sr : BitVec 1
  nsp : BitVec 3
  mw : BitVec 4
  bcol : BitVec 1
  cuse : BitVec 1
  deriving DecidableEq, Repr, Inhabited

/-- The instructions, records and events of the device, one constructor
for each row of spec/opcode_table.json. -/
inductive Instr where
  /-- ADD (R186). -/
  | add (d : BitVec 5) (a : BitVec 5) (b : BitVec 5)
  /-- SUB (R186). -/
  | sub (d : BitVec 5) (a : BitVec 5) (b : BitVec 5)
  /-- AND (R186). -/
  | and (d : BitVec 5) (a : BitVec 5) (b : BitVec 5)
  /-- OR (R186). -/
  | or (d : BitVec 5) (a : BitVec 5) (b : BitVec 5)
  /-- XOR (R186). -/
  | xor (d : BitVec 5) (a : BitVec 5) (b : BitVec 5)
  /-- ANDN (R186). -/
  | andn (d : BitVec 5) (a : BitVec 5) (b : BitVec 5)
  /-- SHL (R186). -/
  | shl (d : BitVec 5) (a : BitVec 5) (b : BitVec 5)
  /-- SHR (R186). -/
  | shr (d : BitVec 5) (a : BitVec 5) (b : BitVec 5)
  /-- SHRA (R186). -/
  | shra (d : BitVec 5) (a : BitVec 5) (b : BitVec 5)
  /-- MUL (R186). -/
  | mul (d : BitVec 5) (a : BitVec 5) (b : BitVec 5)
  /-- MULH (R186). -/
  | mulh (d : BitVec 5) (a : BitVec 5) (b : BitVec 5)
  /-- MULH.z (R186). -/
  | mulhZ (d : BitVec 5) (a : BitVec 5) (b : BitVec 5)
  /-- DIV (R186). -/
  | div (d : BitVec 5) (a : BitVec 5) (b : BitVec 5)
  /-- DIV.z (R186). -/
  | divZ (d : BitVec 5) (a : BitVec 5) (b : BitVec 5)
  /-- REM (R186). -/
  | rem (d : BitVec 5) (a : BitVec 5) (b : BitVec 5)
  /-- REM.z (R186). -/
  | remZ (d : BitVec 5) (a : BitVec 5) (b : BitVec 5)
  /-- MIN (R186). -/
  | min (d : BitVec 5) (a : BitVec 5) (b : BitVec 5)
  /-- MAX (R186). -/
  | max (d : BitVec 5) (a : BitVec 5) (b : BitVec 5)
  /-- MIN.z (R186). -/
  | minZ (d : BitVec 5) (a : BitVec 5) (b : BitVec 5)
  /-- MAX.z (R186). -/
  | maxZ (d : BitVec 5) (a : BitVec 5) (b : BitVec 5)
  /-- SLT (R186). -/
  | slt (d : BitVec 5) (a : BitVec 5) (b : BitVec 5)
  /-- SLT.z (R186). -/
  | sltZ (d : BitVec 5) (a : BitVec 5) (b : BitVec 5)
  /-- CLZ (R186). -/
  | clz (d : BitVec 5) (a : BitVec 5)
  /-- POPC (R186). -/
  | popc (d : BitVec 5) (a : BitVec 5)
  /-- LEA (R186). -/
  | lea (d : BitVec 5) (a : BitVec 5) (b : BitVec 5) (s : BitVec 2)
  /-- ADDI (R187). -/
  | addi (d : BitVec 5) (a : BitVec 5) (i : BitVec 16)
  /-- ANDI (R187). -/
  | andi (d : BitVec 5) (a : BitVec 5) (i : BitVec 16)
  /-- ORI (R187). -/
  | ori (d : BitVec 5) (a : BitVec 5) (i : BitVec 16)
  /-- XORI (R187). -/
  | xori (d : BitVec 5) (a : BitVec 5) (i : BitVec 16)
  /-- SHI.L (R188). -/
  | shiL (d : BitVec 5) (a : BitVec 5) (n : BitVec 6)
  /-- SHI.R (R188). -/
  | shiR (d : BitVec 5) (a : BitVec 5) (n : BitVec 6)
  /-- SHI.RA (R188). -/
  | shiRa (d : BitVec 5) (a : BitVec 5) (n : BitVec 6)
  /-- INSI (R189). -/
  | insi (d : BitVec 5) (k : BitVec 2) (i : BitVec 16)
  /-- SLTI (R187). -/
  | slti (d : BitVec 5) (a : BitVec 5) (i : BitVec 16)
  /-- SLTI.z (R187). -/
  | sltiZ (d : BitVec 5) (a : BitVec 5) (i : BitVec 16)
  /-- LD (R289). -/
  | ld (d : BitVec 5) (a : BitVec 5) (z : BitVec 3) (o : BitVec 13)
  /-- ST (R289). -/
  | st (d : BitVec 5) (a : BitVec 5) (z : BitVec 3) (o : BitVec 13)
  /-- AMO.ADD (R290). -/
  | amoAdd (d : BitVec 5) (a : BitVec 5) (b : BitVec 5) (z : BitVec 2) (r : BitVec 2)
  /-- AMO.SWAP (R290). -/
  | amoSwap (d : BitVec 5) (a : BitVec 5) (b : BitVec 5) (z : BitVec 2) (r : BitVec 2)
  /-- AMO.CAS (R290). -/
  | amoCas (d : BitVec 5) (a : BitVec 5) (b : BitVec 5) (z : BitVec 2) (r : BitVec 2)
  /-- AMO.MIN (R290). -/
  | amoMin (d : BitVec 5) (a : BitVec 5) (b : BitVec 5) (z : BitVec 2) (r : BitVec 2)
  /-- AMO.MAX (R290). -/
  | amoMax (d : BitVec 5) (a : BitVec 5) (b : BitVec 5) (z : BitVec 2) (r : BitVec 2)
  /-- AMO.AND (R290). -/
  | amoAnd (d : BitVec 5) (a : BitVec 5) (b : BitVec 5) (z : BitVec 2) (r : BitVec 2)
  /-- AMO.OR (R290). -/
  | amoOr (d : BitVec 5) (a : BitVec 5) (b : BitVec 5) (z : BitVec 2) (r : BitVec 2)
  /-- AMO.XOR (R290). -/
  | amoXor (d : BitVec 5) (a : BitVec 5) (b : BitVec 5) (z : BitVec 2) (r : BitVec 2)
  /-- LD.acq (R290). -/
  | ldAcq (d : BitVec 5) (a : BitVec 5) (z : BitVec 2)
  /-- ST.rel (R290). -/
  | stRel (a : BitVec 5) (b : BitVec 5) (z : BitVec 2)
  /-- FENCE (R291). -/
  | fence (c : BitVec 3) (s : BitVec 4) (p : BitVec 4)
  /-- BEQ (R190). -/
  | beq (a : BitVec 5) (b : BitVec 5) (o : BitVec 16)
  /-- BNE (R190). -/
  | bne (a : BitVec 5) (b : BitVec 5) (o : BitVec 16)
  /-- BLT (R190). -/
  | blt (a : BitVec 5) (b : BitVec 5) (o : BitVec 16)
  /-- BGE (R190). -/
  | bge (a : BitVec 5) (b : BitVec 5) (o : BitVec 16)
  /-- BLT.z (R190). -/
  | bltZ (a : BitVec 5) (b : BitVec 5) (o : BitVec 16)
  /-- BGE.z (R190). -/
  | bgeZ (a : BitVec 5) (b : BitVec 5) (o : BitVec 16)
  /-- JAL (R191). -/
  | jal (d : BitVec 5) (o : BitVec 21)
  /-- JR (R191). -/
  | jr (d : BitVec 5) (a : BitVec 5)
  /-- WAITQ (R172). -/
  | waitq (a : BitVec 5) (b : BitVec 5) (c : BitVec 1)
  /-- BAR (R185). -/
  | bar (u : BitVec 3) (p : BitVec 3)
  /-- TOKW (R184). -/
  | tokw (u : BitVec 3) (p : BitVec 3)
  /-- SPAWN (R170). -/
  | spawn (a : BitVec 5) (b : BitVec 5)
  /-- SPAT (R277). -/
  | spat (a : BitVec 5) (n : BitVec 4) (u : BitVec 3) (p : BitVec 3)
  /-- STRM.IN (R279). -/
  | strmIn (a : BitVec 5) (n : BitVec 4) (u : BitVec 3) (p : BitVec 3)
  /-- STRM.OUT (R280). -/
  | strmOut (a : BitVec 5) (n : BitVec 4) (u : BitVec 3) (p : BitVec 3)
  /-- STRM.MC (R281). -/
  | strmMc (a : BitVec 5) (b : BitVec 5) (n : BitVec 4) (u : BitVec 3) (p : BitVec 3)
  /-- STRM.RESUME (R282). -/
  | strmResume (a : BitVec 5) (b : BitVec 5) (n : BitVec 4) (u : BitVec 3) (p : BitVec 3)
  /-- STRM.STOP (R283). -/
  | strmStop (a : BitVec 5) (u : BitVec 3) (p : BitVec 3)
  /-- TFETCH (R284). -/
  | tfetch (a : BitVec 5) (b : BitVec 5) (u : BitVec 3) (p : BitVec 3)
  /-- TREL (R285). -/
  | trel (a : BitVec 5) (u : BitVec 3) (p : BitVec 3)
  /-- COPY (R286). -/
  | copy (a : BitVec 5) (b : BitVec 5) (q : BitVec 5) (u : BitVec 3) (p : BitVec 3)
  /-- PREF (R287). -/
  | pref (a : BitVec 5) (b : BitVec 5) (u : BitVec 3) (p : BitVec 3)
  /-- DISC (R288). -/
  | disc (a : BitVec 5) (b : BitVec 5) (u : BitVec 3) (p : BitVec 3)
  /-- CFG.LOAD (R141). -/
  | cfgLoad (a : BitVec 5) (b : BitVec 5) (u : BitVec 3) (p : BitVec 3)
  /-- CFG.ARM (R141). -/
  | cfgArm (b : BitVec 5) (u : BitVec 3) (p : BitVec 3)
  /-- CFG.SWAP (R141). -/
  | cfgSwap (a : BitVec 5) (u : BitVec 3) (p : BitVec 3)
  /-- CFG.SEQ (R141). -/
  | cfgSeq (a : BitVec 5) (u : BitVec 3) (p : BitVec 3)
  /-- CFG.FREE (R141). -/
  | cfgFree (u : BitVec 3) (p : BitVec 3)
  /-- SPLICE (R142). -/
  | splice (a : BitVec 5) (u : BitVec 3) (p : BitVec 3)
  /-- LAUNCH (R142). -/
  | launch (a : BitVec 5) (u : BitVec 3) (p : BitVec 3)
  /-- GSL (R156). -/
  | gsl (a : BitVec 5) (b : BitVec 5) (k : BitVec 3) (u : BitVec 3) (p : BitVec 3)
  /-- ROT.JOIN (R245). -/
  | rotJoin (a : BitVec 5) (b : BitVec 5) (r : BitVec 3) (u : BitVec 3) (p : BitVec 3)
  /-- ROT.LEAVE (R246). -/
  | rotLeave (a : BitVec 5) (b : BitVec 5) (r : BitVec 3) (u : BitVec 3) (p : BitVec 3)
  /-- ROT.SAVE (R251). -/
  | rotSave (a : BitVec 5) (r : BitVec 3) (u : BitVec 3) (p : BitVec 3)
  /-- ROT.LOAD (R252). -/
  | rotLoad (a : BitVec 5) (b : BitVec 5) (r : BitVec 3) (u : BitVec 3) (p : BitVec 3)
  /-- ROT.CLR (R247). -/
  | rotClr (a : BitVec 5) (r : BitVec 3) (u : BitVec 3) (p : BitVec 3)
  /-- ROT.STAT (R248). -/
  | rotStat (a : BitVec 5) (b : BitVec 5) (r : BitVec 3) (u : BitVec 3) (p : BitVec 3)
  /-- SPORE.SET (R329). -/
  | sporeSet (a : BitVec 5) (b : BitVec 5) (u : BitVec 3) (p : BitVec 3)
  /-- SPORE.FILL (R329). -/
  | sporeFill (a : BitVec 5) (b : BitVec 5) (u : BitVec 3) (p : BitVec 3)
  /-- SPORE.FAIL (R329). -/
  | sporeFail (a : BitVec 5) (b : BitVec 5) (u : BitVec 3) (p : BitVec 3)
  /-- SPORE.PEEK (R329). -/
  | sporePeek (a : BitVec 5) (b : BitVec 5) (u : BitVec 3) (p : BitVec 3)
  /-- KVT (R344). -/
  | kvt (a : BitVec 5) (b : BitVec 5) (u : BitVec 3) (p : BitVec 3)
  /-- PWR.ASK (R143). -/
  | pwrAsk (a : BitVec 5) (b : BitVec 5) (u : BitVec 3) (p : BitVec 3)
  /-- PWR.GIVE (R143). -/
  | pwrGive (a : BitVec 5) (u : BitVec 3) (p : BitVec 3)
  /-- MFS (R192). -/
  | mfs (d : BitVec 5) (i : BitVec 16)
  /-- MTS (R192). -/
  | mts (a : BitVec 5) (i : BitVec 16)
  /-- TRAP (R193). -/
  | trap (i : BitVec 16)
  /-- RTE (R363). -/
  | rte
  /-- HALT (R195). -/
  | halt
  /-- BRK (R196). -/
  | brk (i : BitVec 16)
  /-- MARK (R197). -/
  | mark (i : BitVec 16)
  /-- PIN (R208). -/
  | pin (p : BitVec 3) (s : BitVec 4) (u : BitVec 9) (t : BitVec 9)
  /-- POUT (R213). -/
  | pout (p : BitVec 3) (k : BitVec 3)
  /-- PCTL (R213). -/
  | pctlKeep (p : BitVec 3)
  /-- PCTL (R213). -/
  | pctlRelease (p : BitVec 3)
  /-- PKIND (R211). -/
  | pkind (p : BitVec 3) (u : BitVec 9) (t : BitVec 9)
  /-- MOV (R211). -/
  | mov (q : BitVec 1) (u : BitVec 9) (t : BitVec 9)
  /-- CONST (R211). -/
  | const (i : BitVec 10) (T : BitVec 4) (t : BitVec 9)
  /-- CONSTW (R212). -/
  | constw (T : BitVec 4) (u : BitVec 9) (t : BitVec 9)
  /-- GETR (R211). -/
  | getr (k : BitVec 5) (t : BitVec 9)
  /-- LANEID (R211). -/
  | laneid (T : BitVec 4) (u : BitVec 9) (t : BitVec 9)
  /-- EXIT (R211). -/
  | exit (n : BitVec 3)
  /-- EXITC (R211). -/
  | exitc (n : BitVec 3)
  /-- ADD (R215). -/
  | addE (T : BitVec 4) (q : BitVec 1) (v : BitVec 2) (u : BitVec 9) (t : BitVec 9)
  /-- SUB (R215). -/
  | subE (T : BitVec 4) (q : BitVec 1) (v : BitVec 2) (u : BitVec 9) (t : BitVec 9)
  /-- MUL (R215). -/
  | mulE (T : BitVec 4) (q : BitVec 1) (v : BitVec 2) (u : BitVec 9) (t : BitVec 9)
  /-- MULH (R215). -/
  | mulhE (T : BitVec 4) (q : BitVec 1) (u : BitVec 9) (t : BitVec 9)
  /-- MAD (R215). -/
  | mad (T : BitVec 4) (q : BitVec 1) (v : BitVec 2) (u : BitVec 9) (t : BitVec 9)
  /-- AND (R215). -/
  | andE (T : BitVec 4) (q : BitVec 1) (u : BitVec 9) (t : BitVec 9)
  /-- OR (R215). -/
  | orE (T : BitVec 4) (q : BitVec 1) (u : BitVec 9) (t : BitVec 9)
  /-- XOR (R215). -/
  | xorE (T : BitVec 4) (q : BitVec 1) (u : BitVec 9) (t : BitVec 9)
  /-- ANDN (R215). -/
  | andnE (T : BitVec 4) (q : BitVec 1) (u : BitVec 9) (t : BitVec 9)
  /-- SHL (R215). -/
  | shlE (T : BitVec 4) (q : BitVec 1) (v : BitVec 2) (u : BitVec 9) (t : BitVec 9)
  /-- SHR (R215). -/
  | shrE (T : BitVec 4) (q : BitVec 1) (u : BitVec 9) (t : BitVec 9)
  /-- SHRA (R215). -/
  | shraE (T : BitVec 4) (q : BitVec 1) (u : BitVec 9) (t : BitVec 9)
  /-- MIN (R215). -/
  | minE (T : BitVec 4) (q : BitVec 1) (u : BitVec 9) (t : BitVec 9)
  /-- MAX (R215). -/
  | maxE (T : BitVec 4) (q : BitVec 1) (u : BitVec 9) (t : BitVec 9)
  /-- ABS (R215). -/
  | abs (T : BitVec 4) (q : BitVec 1) (v : BitVec 2) (u : BitVec 9) (t : BitVec 9)
  /-- CLZ (R215). -/
  | clzE (T : BitVec 4) (q : BitVec 1) (u : BitVec 9) (t : BitVec 9)
  /-- POPC (R215). -/
  | popcE (T : BitVec 4) (q : BitVec 1) (u : BitVec 9) (t : BitVec 9)
  /-- CMPEQ (R215). -/
  | cmpeq (T : BitVec 4) (q : BitVec 1) (u : BitVec 9) (t : BitVec 9)
  /-- CMPNE (R215). -/
  | cmpne (T : BitVec 4) (q : BitVec 1) (u : BitVec 9) (t : BitVec 9)
  /-- CMPLT (R215). -/
  | cmplt (T : BitVec 4) (q : BitVec 1) (u : BitVec 9) (t : BitVec 9)
  /-- CMPLE (R215). -/
  | cmple (T : BitVec 4) (q : BitVec 1) (u : BitVec 9) (t : BitVec 9)
  /-- SEL (R215). -/
  | sel (T : BitVec 4) (q : BitVec 1) (u : BitVec 9) (t : BitVec 9)
  /-- DOT4 (R216). -/
  | dot4 (T : BitVec 4) (q : BitVec 1) (v : BitVec 2) (u : BitVec 9) (t : BitVec 9)
  /-- FADD (R217). -/
  | fadd (T : BitVec 4) (q : BitVec 1) (v : BitVec 2) (u : BitVec 9) (t : BitVec 9)
  /-- FSUB (R217). -/
  | fsub (T : BitVec 4) (q : BitVec 1) (v : BitVec 2) (u : BitVec 9) (t : BitVec 9)
  /-- FMUL (R217). -/
  | fmul (T : BitVec 4) (q : BitVec 1) (v : BitVec 2) (u : BitVec 9) (t : BitVec 9)
  /-- FMA (R217). -/
  | fma (T : BitVec 4) (q : BitVec 1) (v : BitVec 2) (u : BitVec 9) (t : BitVec 9)
  /-- FMIN (R217). -/
  | fmin (T : BitVec 4) (q : BitVec 1) (u : BitVec 9) (t : BitVec 9)
  /-- FMAX (R217). -/
  | fmax (T : BitVec 4) (q : BitVec 1) (u : BitVec 9) (t : BitVec 9)
  /-- FABS (R217). -/
  | fabs (T : BitVec 4) (q : BitVec 1) (u : BitVec 9) (t : BitVec 9)
  /-- FNEG (R217). -/
  | fneg (T : BitVec 4) (q : BitVec 1) (u : BitVec 9) (t : BitVec 9)
  /-- FCMPEQ (R217). -/
  | fcmpeq (T : BitVec 4) (q : BitVec 1) (u : BitVec 9) (t : BitVec 9)
  /-- FCMPLT (R217). -/
  | fcmplt (T : BitVec 4) (q : BitVec 1) (u : BitVec 9) (t : BitVec 9)
  /-- FCMPLE (R217). -/
  | fcmple (T : BitVec 4) (q : BitVec 1) (u : BitVec 9) (t : BitVec 9)
  /-- FRCP (R217). -/
  | frcp (T : BitVec 4) (q : BitVec 1) (v : BitVec 2) (u : BitVec 9) (t : BitVec 9)
  /-- FRSQ (R217). -/
  | frsq (T : BitVec 4) (q : BitVec 1) (v : BitVec 2) (u : BitVec 9) (t : BitVec 9)
  /-- FEXP2 (R217). -/
  | fexp2 (T : BitVec 4) (q : BitVec 1) (v : BitVec 2) (u : BitVec 9) (t : BitVec 9)
  /-- FLOG2 (R217). -/
  | flog2 (T : BitVec 4) (q : BitVec 1) (v : BitVec 2) (u : BitVec 9) (t : BitVec 9)
  /-- FCLASS (R218). -/
  | fclass (T : BitVec 4) (q : BitVec 1) (u : BitVec 9) (t : BitVec 9)
  /-- CVT (R220). -/
  | cvt (q : BitVec 1) (S : BitVec 4) (D : BitVec 4) (v : BitVec 2) (t : BitVec 9)
  /-- CVTSR (R221). -/
  | cvtsr (q : BitVec 1) (S : BitVec 4) (D : BitVec 4) (t : BitVec 9)
  /-- QBFP (R222). -/
  | qbfp (q : BitVec 1) (m : BitVec 4) (S : BitVec 4) (v : BitVec 2) (t : BitVec 9)
  /-- DQBFP (R222). -/
  | dqbfp (q : BitVec 1) (m : BitVec 4) (D : BitVec 4) (v : BitVec 2) (t : BitVec 9)
  /-- RED (R223). -/
  | red (T : BitVec 4) (q : BitVec 1) (v : BitVec 2) (u : BitVec 9) (t : BitVec 9)
  /-- SCAN (R223). -/
  | scan (T : BitVec 4) (q : BitVec 1) (v : BitVec 2) (u : BitVec 9) (t : BitVec 9)
  /-- SHUF (R223). -/
  | shuf (T : BitVec 4) (q : BitVec 1) (u : BitVec 9) (t : BitVec 9)
  /-- BCST (R223). -/
  | bcst (k : BitVec 4) (T : BitVec 4) (t : BitVec 9)
  /-- ROTL (R223). -/
  | rotl (k : BitVec 4) (T : BitVec 4) (t : BitVec 9)
  /-- LD (R295). -/
  | ldE (z : BitVec 3) (o : BitVec 4) (p : BitVec 4) (s : BitVec 4) (t : BitVec 9)
  /-- ST (R295). -/
  | stE (z : BitVec 3) (o : BitVec 4) (p : BitVec 4) (s : BitVec 4)
  /-- AMO.ADD (R295). -/
  | amoAddE (o : BitVec 4) (p : BitVec 4) (s : BitVec 4) (t : BitVec 9)
  /-- AMO.SWAP (R295). -/
  | amoSwapE (o : BitVec 4) (p : BitVec 4) (s : BitVec 4) (t : BitVec 9)
  /-- AMO.CAS (R295). -/
  | amoCasE (o : BitVec 4) (p : BitVec 4) (s : BitVec 4) (t : BitVec 9)
  /-- AMO.MIN (R295). -/
  | amoMinE (o : BitVec 4) (p : BitVec 4) (s : BitVec 4) (t : BitVec 9)
  /-- AMO.MAX (R295). -/
  | amoMaxE (o : BitVec 4) (p : BitVec 4) (s : BitVec 4) (t : BitVec 9)
  /-- AMO.AND (R295). -/
  | amoAndE (o : BitVec 4) (p : BitVec 4) (s : BitVec 4) (t : BitVec 9)
  /-- AMO.OR (R295). -/
  | amoOrE (o : BitVec 4) (p : BitVec 4) (s : BitVec 4) (t : BitVec 9)
  /-- AMO.XOR (R295). -/
  | amoXorE (o : BitVec 4) (p : BitVec 4) (s : BitVec 4) (t : BitVec 9)
  /-- LDT (R314). -/
  | ldt (o : BitVec 4) (p : BitVec 4) (s : BitVec 4) (t : BitVec 9)
  /-- STT (R314). -/
  | stt (o : BitVec 4) (p : BitVec 4) (s : BitVec 4)
  /-- FENCE (R294). -/
  | fenceE (c : BitVec 3) (o : BitVec 4) (p : BitVec 4) (s : BitVec 4)
  /-- TFILL (R312). -/
  | tfill (p : BitVec 3) (k : BitVec 4)
  /-- TOUT (R312). -/
  | tout (p : BitVec 3) (k : BitVec 4)
  /-- TCLR (R313). -/
  | tclr (k : BitVec 4)
  /-- BITX (R224). -/
  | bitx (q : BitVec 1) (s : BitVec 1) (u : BitVec 9) (t : BitVec 9)
  /-- SPADD (R334). -/
  | spadd (P : BitVec 3) (q : BitVec 1) (v : BitVec 2) (u : BitVec 9) (t : BitVec 9)
  /-- TOPK.INS (R336). -/
  | topkIns (q : BitVec 1) (u : BitVec 9) (t : BitVec 9)
  /-- TOPK.DRN (R336). -/
  | topkDrn (q : BitVec 1) (u : BitVec 9) (t : BitVec 9)
  /-- CUMT (R337). -/
  | cumt (q : BitVec 1) (u : BitVec 9) (t : BitVec 9)
  /-- RNG (R341). -/
  | rng (T : BitVec 4) (q : BitVec 1) (u : BitVec 9) (t : BitVec 9)
  /-- RESID (R157). -/
  | resid (q : BitVec 1) (u : BitVec 9) (t : BitVec 9)
  /-- SEAM (R231). -/
  | seam (B : BitVec 3) (K : BitVec 3) (X : BitVec 3) (F : BitVec 3)
  /-- HOLD (R232). -/
  | hold (q : BitVec 1)
  /-- PHASE (R232). -/
  | phase (u : BitVec 9) (t : BitVec 9)
  /-- MMA record (R307). -/
  | mma (f : MtuFields)
  /-- MMAS record (R308). -/
  | mmas (f : MtuFields)
  /-- TADD record (R309). -/
  | tadd (f : MtuFields)
  /-- TSCL record (R309). -/
  | tscl (f : MtuFields)
  /-- TCVT record (R310). -/
  | tcvt (f : MtuFields)
  /-- TTRN record (R311). -/
  | ttrn (f : MtuFields)
  /-- ASYNC_DELIVERY, event (R182): Asynchronous fabric or engine record delivered at an instruction boundary, abandoning waits. -/
  | asyncDelivery (t : ThreadId)
  /-- ILLEGAL, event (R91): A control thread executes a word with an unassigned opcode, fn, sub or code, or a bad zero field, and traps ILLEGAL precisely. -/
  | illegal (w : BitVec 32)
  /-- FETCH_FAULT, event (R177): A thread's fetch at PC fails with BAD_WINDOW, PAGE, ACCESS or POISON and traps with TPC holding the failed PC. -/
  | fetchFault (code : Code) (w1 : BitVec 64)
  /-- MTU_RELEASE_POINT, event (R304): At S+B the MTU frees, checks headers and applies Read to each source slot. -/
  | mtuReleasePoint (f : FeId)
  /-- MTU_RESULT, event (R304): At S+B+10 the destination slot becomes FULL with the result. -/
  | mtuResult (f : FeId)
  /-- PLACE, event (R160): CP placement decision choosing a record and a first-fit pitch, then loading its image. -/
  | place (die : Nat)
  /-- RECORD_AGED, event (R161): A record's age exceeds AGE and it may reserve pages. -/
  | recordAged (die queue pos : Nat)
  /-- ARM, event (R127): CP arms a loaded pitch after leave and bank checks, or returns BANK_BUSY. -/
  | arm (r : ResId)
  /-- THREAD_START, event (R134): A residency's control thread starts on a free thread of the origin core. -/
  | threadStart (r : ResId)
  /-- TASK_START, event (R169): A queued task packet starts on a free column-core thread. -/
  | taskStart (die page : Nat)
  /-- FIRING_START, event (R164): An FE starts a firing of its selected block when counters allow. -/
  | firingStart (f : FeId)
  /-- PLANE_DRAIN, event (R200): Plane fires its drain block, emits EOS and marks itself drained. -/
  | planeDrain (f : FeId)
  /-- CUT_TAKE, event (R201): FE takes a marker cut: fires cut block, removes MARKs and emits one MARK. -/
  | cutTake (f : FeId)
  /-- PORT_HEAD_TOKEN, event (R209): A token reaching an input port's head acts on an UNTIL_END resident and counts DRAIN. -/
  | portHeadToken (f : FeId) (port : Nat)
  /-- TOKEN_HOP, event (R113): A token advances one switch box when the next register is ready. -/
  | tokenHop (src : HopFrom)
  /-- CREDIT_RETURN, event (R165): A freed consumer FIFO place returns a credit to the producer's counter. -/
  | creditReturn (f : FeId) (port : Nat)
  /-- RATE_WINDOW, event (R137): A 1,024-cycle rate-limiter window ends and admission counts restart. -/
  | rateWindow (r : ResId)
  /-- PLANE_SWITCH, event (R141): After the wait, every FE of the pitch makes the new plane active 4 cycles later. -/
  | planeSwitch (r : ResId)
  /-- SEQ_SWITCH, event (R141): A DRAIN at LAST of the current entry switches the pitch to the next ring entry. -/
  | seqSwitch (r : ResId)
  /-- SPLICE_FE_SWITCH, event (R138): An FE switches to the spliced successor after EOS, writing back its bank. -/
  | spliceFeSwitch (f : FeId)
  /-- ROT_STEP, event (R234): Rotation step for one phase: take the return, then enter a queued chunk. -/
  | rotStep (r : ResId) (rot : Nat)
  /-- SLOT_FAULT_NOTICE, event (R240): A slot-fault notice reaches the seam, is recorded and delivered. -/
  | slotFaultNotice (r : ResId) (rot : Nat)
  /-- SEAM_PK_TOKEN, event (R236): Seam unit routes the head token of pK into a slot queue or discards it. -/
  | seamPkToken (r : ResId) (rot : Nat)
  /-- MEMPORT_ISSUE, event (R293): FE memory port issues the next memory instruction in wave-chain order. -/
  | memportIssue (f : FeId)
  /-- ACCESS_PERFORM, event (R349): An access performs at its home slice, FE or bank in coherence order. -/
  | accessPerform (a : AccessRef)
  /-- WAITS_FOR_CHASE, event (R325): Home slices chase WAITON links to detect cycles of task growers. -/
  | waitsForChase (t : ThreadId)
  /-- SPORE_TIMEOUT, event (R326): A parked requester reaches the park limit and takes SPORE_TIMEOUT. -/
  | sporeTimeout (die slice pos : Nat)
  /-- L2_FILL, event (R260): Home slice fills a missing line from the pool or a peer: for an access by an agent on a die, at
  an address space (an ASID) and an address in it. -/
  | l2Fill (die : Nat) (addr : Nat × Nat)
  /-- PAGE_WALK, event (R265): A TLB tile walker completes a three-level page walk. -/
  | pageWalk (die asid va : Nat)
  /-- STREAM_BINDING_START, event (R279): A binding starts once its port or slot and a context are free, copying its pattern. -/
  | streamBindingStart (t : ThreadId)
  /-- STREAM_DELIVER, event (R279): An input binding delivers its next token, END or EOS when a credit allows. -/
  | streamDeliver (r : ResId) (bind : Nat) (turn : StreamTurn)
  /-- STREAM_TAKE, event (R280): An output binding takes the head token of its port and stores it. -/
  | streamTake (r : ResId) (bind : Nat)
  /-- ENGINE_COMPLETE, event (R272): An engine command completes and makes its push. -/
  | engineComplete (t : ThreadId) (unit : Unit3) (pos : Nat)
  /-- WAITQ_WAKE, event (R172): A waiting WAITQ retests its queue record after a store or cycle. -/
  | waitqWake (t : ThreadId)
  /-- WAITQ_TIMEOUT, event (R172): WAITQ reaches its cycle limit and traps QWAIT_TIMEOUT. -/
  | waitqTimeout (t : ThreadId)
  /-- GUARD_TILE_ISSUE, event (R152): Guard issues a QUEUED tile's surrogate and checker records within the window. -/
  | guardTileIssue (die entry : Nat)
  /-- GANG_ALL_READY, event (R139): All gang members report ready and T is chosen. -/
  | gangAllReady (r : ResId)
  /-- GANG_START, event (R139): Gang clock reaches T and READY members run. -/
  | gangStart (r : ResId)
  /-- GANG_ABANDON, event (R139): A member is not READY by T + SLACK and the slice retries. -/
  | gangAbandon (r : ResId)
  /-- CUT_COMPLETE, event (R368): A marker cut completes and becomes the last complete cut. -/
  | cutComplete (r : ResId)
  /-- PREEMPT_SAVE, event (R371): After stop and drain, threads stop and the residency's context is saved and the pitch freed. -/
  | preemptSave (r : ResId)
  /-- PREEMPT_ESCALATE, event (R372): A pre-emption phase exceeds MAXOUTER: roll back and save, or end with OVERRUN. -/
  | preemptEscalate (r : ResId)
  /-- FRQ_POST, event (R365): A record is posted to the die's fault record queue when room allows. -/
  | frqPost (die : Nat)
  /-- RETIRE, event (R396): Completion token: SNAP commit, bank write-back, phase record, completion pair, report. -/
  | retire (r : ResId)
  /-- SCRUB_COMPLETE, event (R396): Scrub ends: pages become FREE and leave returns to the pool. -/
  | scrubComplete (r : ResId)
  /-- FRQ_REPLAY, event (R366): FRQRESP replay makes the source reissue held or spilled accesses in order. -/
  | frqReplay (die : Via × Nat) (post : Nat)
  /-- FRQ_ABORT, event (R366): FRQRESP abort turns a replayable record into a freezing FABRIC delivery. -/
  | frqAbort (die : Via × Nat) (post : Nat)
  /-- BOOT, event (R415): Device reset and boot: verify firmware, measure, self-test and exclude units. -/
  | boot (b : BootReport)
  /-- BACK_OFF_RETRY, event (R319): A requester refused for lack of a waiter entry retries its access after back-off. -/
  | backOffRetry (q : Requester)
  /-- PEER_DOWN, event (R270): A peer fails, resets or powers down: DOWN and incarnation rises. -/
  | peerDown (peer : Nat)
  /-- CXL_PORT_LOST, event (R271): A CXL port is lost and its lines fault PEER_GONE. -/
  | cxlPortLost (port : Nat)
  /-- UNCORRECTED_ERROR, event (R367): An uncorrectable unit-state error posts a fatal record and ends users of the unit. -/
  | uncorrectedError (die kind index : Nat)
  /-- CAPTURE_PACKET_HEAD, event (R391): A trace capture packet reaches the head of its CP queue. -/
  | capturePacketHead (die queue : Nat)
  /-- FRQFATAL_CLEAR, event (R364): Host writes 1 to FRQFATAL.OVF, clearing OVF and LOST. -/
  | frqfatalClear (die : Via × Nat) (w : BitVec 64)
  /-- DBGSTAT_CLEAR, event (R395): Host clears W1C bits of DBGSTAT. -/
  | dbgstatClear (w : Via × BitVec 64)
  /-- BREAKPOINT_WRITE, event (R380): Host writes a breakpoint entry; a watch translates ADDR when enabled. -/
  | breakpointWrite (n : Via × Nat) (e : BitVec 256)
  /-- REGISTER_WRITE, event (R7): Host write to a BAR0 register with no behaviour of its own. -/
  | registerWrite (reg : Via × BarReg) (v : BitVec 64)
  /-- AUDIT_APPEND, event (R400): Firmware append-port request adds an entry to the audit chain. -/
  | auditAppend (event asid : BitVec 16) (detail : BitVec 32) (arg : BitVec 448)
  /-- LINK_TIMEOUT, event (R412): A Zilost Link port receives nothing, or waits for an allowance, for LTO and goes down. -/
  | linkTimeout (port : Nat)
  /-- IDLE_FLIT, event (R412): Each end sends an idle flit on every port at least once per microsecond. -/
  | idleFlit (port : Nat)
  /-- FLIT_RETRY, event (R410): A flit failing its CRC is resent by link-level retry. -/
  | flitRetry (port : Nat)
  /-- IDE_INTEGRITY_FAIL, event (R407): A TLP failing its IDE integrity check is dropped and its stream leaves the secure state. -/
  | ideIntegrityFail (link stream : Nat)
  /-- IDE_KM, event (R407): IDE keys are programmed inside an SPDM session. -/
  | ideKm (link stream : Nat) (key : BitVec 256)
  /-- GET_VERSION, event (R417): SPDM GET_VERSION request over DOE. -/
  | getVersion (link : Nat)
  /-- GET_CAPABILITIES, event (R417): SPDM GET_CAPABILITIES request. -/
  | getCapabilities (link : Nat)
  /-- NEGOTIATE_ALGORITHMS, event (R417): SPDM NEGOTIATE_ALGORITHMS request. -/
  | negotiateAlgorithms (link : Nat) (offer : SpdmOffer)
  /-- GET_DIGESTS, event (R417): SPDM GET_DIGESTS request. -/
  | getDigests (link : Nat)
  /-- GET_CERTIFICATE, event (R417): SPDM GET_CERTIFICATE request for slot 0. -/
  | getCertificate (link slot : Nat)
  /-- CHALLENGE, event (R417): SPDM CHALLENGE request. -/
  | challenge (link slot : Nat) (nonce : BitVec 256)
  /-- GET_MEASUREMENTS, event (R417): SPDM GET_MEASUREMENTS returning MR0 to MR7. -/
  | getMeasurements (link index : Nat)
  /-- KEY_EXCHANGE, event (R417): SPDM KEY_EXCHANGE request. -/
  | keyExchange (link slot : Nat) (exchange : BitVec 768)
  /-- FINISH, event (R417): SPDM FINISH request. -/
  | finish (link : Nat) (mac : BitVec 384)
  /-- PWRSTAT_UPDATE, event (R418): PWRSTAT is updated every millisecond. -/
  | pwrstatUpdate (pwr tout : BitVec 16)
  /-- POWER_LEVEL_CHANGE, event (R419): Power LEVEL changes; controller adjusts A and leave grants and signals vector 12. -/
  | powerLevelChange (level : Nat)
  /-- FRQCONS_WRITE, event (R365): Host writes FRQCONS; room for posting appears, or an out-of-range value stops posting and is counted in the die's error counters. -/
  | frqconsWrite (die : Via × Nat) (v : BitVec 32)
  /-- BAR2_ACCESS, event (R405): A host PCI Express read or write through the BAR2 aperture performs at its home slice as a T = 0 access. -/
  | bar2Access (off : Via × Nat) (len : Nat) (wr : Option (BitVec 512))
  /-- ZILOST_LINK_MESSAGE, event (R411): A REQ, RSP, INV or CTL message, or a returned send allowance, arrives from a peer on a Zilost Link port. -/
  | zilostLinkMessage (port : Nat) (m : LinkMsg)
  /-- ZILOST_PORT_UP, event (R413): A Zilost Link port to an enrolled peer comes up, so that the peer becomes UP. -/
  | zilostPortUp (port : Nat) (peer lanes : Nat)
  /-- HOST_LAUNCH, event (R421): Host command submitting a launch record through the front end. -/
  | hostLaunch
  /-- LEAVE_GRANT, event (R135): Package power controller grants a waiting leave request. -/
  | leaveGrant
  /-- DEVICE_FREEZE, event (R383): At C + 96 every unit of the device stops. -/
  | deviceFreeze
  /-- DEVICE_RESUME, event (R387): At R + 96 every unit restarts in its stopped state. -/
  | deviceResume
  /-- STEP_TIMEOUT, event (R387): A step still stalled after 4,096 cycles ends with STEPWAIT set. -/
  | stepTimeout
  /-- DEBUG_CUT_WITHDRAW, event (R388): A debug cut not complete within its limit is withdrawn. -/
  | debugCutWithdraw
  /-- TRIGGER_APPLY, event (R389): Every unit applies a trigger's action at O + 96. -/
  | triggerApply
  /-- WITHDRAW, event (R421): Host removes an unplaced record and completes it with 0x134. -/
  | withdraw
  /-- KILL, event (R421): Host ends a residency at once and retires it with 0x134. -/
  | kill
  /-- PREEMPT, event (R370): Host asks the CP to pre-empt a residency. -/
  | preempt
  /-- ASIDROOT, event (R421): Host sets or removes an ASID's table root and audits it. -/
  | asidroot
  /-- CTXAREA, event (R421): Host registers an ASID's context area. -/
  | ctxarea
  /-- PARKLIM, event (R326): Host sets the park limit of named dies. -/
  | parklim
  /-- TRACERING, event (R390): Host registers a die's trace ring. -/
  | tracering
  /-- TRIGGER_START, event (R389): Host sends a START capture trigger. -/
  | triggerStart
  /-- TRIGGER_STOP, event (R389): Host sends a STOP capture trigger. -/
  | triggerStop
  /-- TRIGGER_FREEZE, event (R389): Host sends a FREEZE trigger. -/
  | triggerFreeze
  /-- TRIGGER_RESUME, event (R387): Host sends a RESUME trigger. -/
  | triggerResume
  /-- TRACEPKT, event (R391): Host places a capture start or stop packet in a CP queue. -/
  | tracepkt
  /-- DEBUG_ATTACH, event (R379): Host attaches a debugger to an ASID. -/
  | debugAttach
  /-- DEBUG_DETACH, event (R379): Host detaches a debugger from an ASID. -/
  | debugDetach
  /-- DEBUG_STEP, event (R387): Host resumes one thread for exactly one instruction. -/
  | debugStep
  /-- DEBUG_CUT, event (R388): Host starts a debug cut of one residency. -/
  | debugCut
  /-- AUDITMIR, event (R400): Host registers the audit mirror ring. -/
  | auditmir
  /-- AUDITSIGN, event (R400): Appends event 0x0008 and returns a signed head with the nonce. -/
  | auditsign
  /-- SUMMARY, event (R403): Writes the device SUMMARY record into a host buffer. -/
  | summary
  /-- LINKCFG, event (R412): Host sets the link timeout and gang quantum. -/
  | linkcfg
  /-- ENROL, event (R413): Host enrols a peer, aligning GCLK. -/
  | enrol
  /-- ENROL_REMOVE, event (R413): Host removes a peer's enrolment. -/
  | enrolRemove
  /-- MREXT, event (R416): Host extends measurement register MR6. -/
  | mrext
  /-- SFILL, event (R323): Host fills a HOST-rule spore cell as SPORE.FILL does. -/
  | sfill
  /-- SFAIL, event (R323): Host fails a HOST-rule spore cell as SPORE.FAIL does. -/
  | sfail
  /-- HCQ_UNKNOWN_OP, event (R420): A command entry with an unassigned OP completes with status 1. -/
  | hcqUnknownOp
  /-- THERMAL_POWERDOWN, event (R419): LEVEL 2 for 1 s or trip temperature powers the module down as a reset. -/
  | thermalPowerdown
  deriving DecidableEq, Repr, Inhabited

/-- Whose turn a step takes: a column-core thread, the element actor of an FE, one MTU record of an FE, or an event
(log entry 1). -/
inductive Turn where
  | thread (t : ThreadId)
  | element (f : FeId)
  | mtu (f : FeId) (entry : Nat)
  | event (i : Instr)
  deriving DecidableEq, Repr, Inhabited

end Sys2Proof
end

