-- ==== Sys2Proof/Config.lean ====
section
/-! DEFINITION. What an implementation fixes, and the free values: opaque constants no proof can see into. -/

namespace Sys2Proof.Config

/-- Whose turn the step of number `n` takes when the agenda is empty (log entry 1). -/
opaque turn : Nat → Turn
/-- How many cycles pass in step `n` beyond the first (log entry 3). -/
opaque stepCycles : Nat → Nat
/-- A choice the manual leaves to the device, made in step `n` (log entry 6). -/
opaque choice : Nat → Bool
/-- A number the manual leaves open, taken in step `n` (log entry 6). -/
opaque freeNat : Nat → Nat
/-- Does byte `k` of a line dropped by DISC in step `n` keep its value from before (12 R259; log entry 6)? -/
opaque discKeeps : Nat → Nat → Bool
/-- The rounding of a value the interval search has not decided, for a function number and operand bits
(log entry 7). -/
opaque undecidedRounding : Nat → Nat → Nat
/-- An ECDSA P-384 signature of a message by the device attestation key (20 R400, 21 R417; log entry 8). -/
opaque signature : List (BitVec 8) → BitVec 768
/-- What an SPDM response of a kind carries beyond what 21 R417 states (log entry 8). -/
opaque spdmPayload : Nat → Nat → BitVec 768
/-- The GCLK of the lowest-indexed UP device, as enrolment reads it in step `n` (21 R414; log entry 6). -/
opaque peerGclk : Nat → Nat
/-- The coolant outlet temperature at which the module powers down (21 R419). -/
opaque tripTemperature : Nat
/-- The device's own index in its Zilost Link domain, which the manual does not say who gives (21 R413). -/
opaque ownIndex : Nat
/-- The data a peer's memory returns for physical address `pa` in step `n` (12 R261; log entry 9). -/
opaque peerByte : Nat → Nat → BitVec 8
/-- Byte `k` of how far the firmware release that SUMMARY reports lies beyond 3.2 (00 R1; log entry 58). -/
opaque firmwareByte : Nat → BitVec 8
/-- Cycles of the fabric clock per microsecond: 3.0 GHz (00 R5). -/
def cyclesPerMicrosecond : Nat := 3000
/-- Cycles per nanosecond (00 R5). -/
def cyclesPerNanosecond : Nat := 3

end Sys2Proof.Config
end

