-- ==== Sys2Proof/WellFormed.lean ====
section
/-! DEFINITION. Well-formed instructions: what the encodings admit beyond the widths of their fields (04 R81-R102,
10 R215-R224, 14 R301-R302), and that an event names a unit the device has (01 R13-R20). -/

namespace Sys2Proof

/-- A thread the device has (01 R20). -/
def ThreadId.ok (t : ThreadId) : Bool := decide (t.die < 4 ∧ t.page < 48 ∧ t.tid < 8)
/-- An FE the device has (01 R19). -/
def FeId.ok (f : FeId) : Bool := decide (f.die < 4 ∧ f.page < 48 ∧ f.pos < 24)
/-- A residency-table entry (08 R158). -/
def ResId.ok (r : ResId) : Bool := decide (r.die < 4 ∧ r.idx < 48)

/-- Push and pop codes of an instruction that unit code `unit` executes (04 R90). -/
def clauseOk (unit : BitVec 3) (u p : BitVec 3) : Bool :=
  decide (u.toNat ≤ 4) && decide (p.toNat ≤ 4) && u != unit && p != unit

/-- Type codes 8 to 11: .f16, .bf16, .f32, .f64 (02 Table 2-1). -/
def isFloat (T : BitVec 4) : Bool := decide (8 ≤ T.toNat) && decide (T.toNat ≤ 11)
/-- Type codes 8 to 10, the sources of the BFP converter (02 R48). -/
def isF3 (T : BitVec 4) : Bool := decide (8 ≤ T.toNat) && decide (T.toNat ≤ 10)
/-- Type codes 8 to 12, the tile formats (02 Table 2-6). -/
def isTileType (T : BitVec 4) : Bool := decide (8 ≤ T.toNat) && decide (T.toNat ≤ 12)
/-- A mantissa width (02 R45). -/
def mOk (m : BitVec 4) : Bool := decide (2 ≤ m.toNat) && decide (m.toNat ≤ 8)
/-- Elements per token of a type (02 Table 2-1). -/
def elems (T : BitVec 4) : Nat := if T == 6 || T == 7 || T == 11 then 8 else 16

/-- A target field obeys 03 Table 3-4 by itself (04 R96, first point). -/
def targetOk (t : BitVec 9) : Bool :=
  match (fld t 6 3).toNat with
  | 0 => fld t 0 6 == 0
  | 5 => decide ((fld t 0 6).toNat < 8)
  | 6 => decide ((fld t 0 6).toNat < 32)
  | 7 => decide ((fld t 0 6).toNat ≤ 2)
  | _ => true

/-- The C operand of a record: unused and zero, or of the destination's type (04 R101, 14 R301). -/
def MtuFields.cOk (f : MtuFields) : Bool :=
  if f.cuse == 1 then f.tc == f.td && f.sc != f.dst && f.sc != f.sa && f.sc != f.sb
  else f.sc == 0 && f.kc == 0 && f.tc == 0

/-- A record without a C operand (14 Table 14-3). -/
def MtuFields.noC (f : MtuFields) : Bool := f.cuse == 0 && f.sc == 0 && f.kc == 0 && f.tc == 0
/-- A record without a B operand (14 Table 14-3). -/
def MtuFields.noB (f : MtuFields) : Bool := f.sb == 0 && f.kb == 0 && f.tb == 0

/-- The types MMA admits (14 Table 14-3). -/
def MtuFields.mmaOk (f : MtuFields) : Bool :=
  f.nsp == 0 && f.sr == 0 && f.bcol == 0 && f.cOk && f.dst != f.sa && f.dst != f.sb && f.sa != f.sb &&
  ((f.td == 10 && f.mw == 0 && (((f.ta == 8 || f.ta == 9) && (f.tb == 8 || f.tb == 9)) || (f.ta == 10 && f.tb == 10)))
    || (f.td == 11 && f.ta == 11 && f.tb == 11 && f.mw == 0)
    || (f.td == 10 && f.ta == 12 && f.tb == 12 && mOk f.mw))

/-- The types and slots MMAS admits (14 Table 14-3, R302). -/
def MtuFields.mmasOk (f : MtuFields) : Bool :=
  (f.nsp.toNat ≥ 1 && f.nsp.toNat ≤ 4) && f.sr == 0 && f.bcol == 0 && f.cOk && decide (f.sb.toNat ≤ 13) &&
  f.dst != f.sa && f.dst != f.sb && f.sa != f.sb && f.dst != f.sb + 1 && f.dst != f.sb + 2 &&
  f.sa != f.sb + 1 && f.sa != f.sb + 2 && (f.cuse == 0 || (f.sc != f.sb + 1 && f.sc != f.sb + 2)) &&
  ((f.td == 10 && f.mw == 0 && (f.ta == 8 || f.ta == 9) && (f.tb == 8 || f.tb == 9))
    || (f.td == 10 && f.ta == 12 && f.tb == 12 && mOk f.mw))

/-- TADD and TSCL (14 Table 14-3). -/
def MtuFields.elementwiseOk (f : MtuFields) : Bool :=
  f.nsp == 0 && f.sr == 0 && f.bcol == 0 && f.mw == 0 && f.noC && isFloat f.ta && f.tb == f.ta && f.td == f.ta &&
  f.dst != f.sa && f.dst != f.sb && f.sa != f.sb

/-- TCVT (14 Table 14-3, R302). -/
def MtuFields.tcvtOk (f : MtuFields) : Bool :=
  f.nsp == 0 && f.noC && f.noB && isTileType f.ta && isTileType f.td && f.ta != f.td && f.dst != f.sa &&
  (if f.ta == 12 || f.td == 12 then mOk f.mw else f.mw == 0) && (f.td == 12 || f.bcol == 0) &&
  !(f.ta == 11 && f.td == 12) &&
  (f.sr == 0 || (f.ta == 10 && (f.td == 8 || f.td == 9)) || (f.ta == 11 && isF3 f.td) || (isF3 f.ta && f.td == 12))

/-- TTRN (14 Table 14-3). -/
def MtuFields.ttrnOk (f : MtuFields) : Bool :=
  f.nsp == 0 && f.sr == 0 && f.bcol == 0 && f.rm == 0 && f.noC && f.noB && isTileType f.ta && f.td == f.ta &&
  f.dst != f.sa && (if f.ta == 12 then mOk f.mw else f.mw == 0)

/-- An instruction obeys every constraint of its encoding; an event names units that exist. -/
def Instr.wf : Instr → Bool
  | .add _ _ _ => true
  | .sub _ _ _ => true
  | .and _ _ _ => true
  | .or _ _ _ => true
  | .xor _ _ _ => true
  | .andn _ _ _ => true
  | .shl _ _ _ => true
  | .shr _ _ _ => true
  | .shra _ _ _ => true
  | .mul _ _ _ => true
  | .mulh _ _ _ => true
  | .mulhZ _ _ _ => true
  | .div _ _ _ => true
  | .divZ _ _ _ => true
  | .rem _ _ _ => true
  | .remZ _ _ _ => true
  | .min _ _ _ => true
  | .max _ _ _ => true
  | .minZ _ _ _ => true
  | .maxZ _ _ _ => true
  | .slt _ _ _ => true
  | .sltZ _ _ _ => true
  | .clz _ _ => true
  | .popc _ _ => true
  | .lea _ _ _ _ => true
  | .addi _ _ _ => true
  | .andi _ _ _ => true
  | .ori _ _ _ => true
  | .xori _ _ _ => true
  | .shiL _ _ _ => true
  | .shiR _ _ _ => true
  | .shiRa _ _ _ => true
  | .insi _ _ _ => true
  | .slti _ _ _ => true
  | .sltiZ _ _ _ => true
  | .ld _ _ z _ => z != 7
  | .st _ _ z _ => z != 7
  | .amoAdd _ _ _ _ _ => true
  | .amoSwap _ _ _ _ _ => true
  | .amoCas _ _ _ _ _ => true
  | .amoMin _ _ _ _ _ => true
  | .amoMax _ _ _ _ _ => true
  | .amoAnd _ _ _ _ _ => true
  | .amoOr _ _ _ _ _ => true
  | .amoXor _ _ _ _ _ => true
  | .ldAcq _ _ z => z != 3
  | .stRel _ _ z => z != 3
  | .fence c _ _ => decide (c.toNat ≤ 4)
  | .beq _ _ _ => true
  | .bne _ _ _ => true
  | .blt _ _ _ => true
  | .bge _ _ _ => true
  | .bltZ _ _ _ => true
  | .bgeZ _ _ _ => true
  | .jal _ _ => true
  | .jr _ _ => true
  | .waitq _ _ _ => true
  | .bar u p => clauseOk 1 u p
  | .tokw u p => clauseOk 1 u p
  | .spawn _ _ => true
  | .spat _ _ u p => clauseOk 2 u p
  | .strmIn _ _ u p => clauseOk 2 u p
  | .strmOut _ _ u p => clauseOk 2 u p
  | .strmMc _ _ _ u p => clauseOk 2 u p
  | .strmResume _ _ _ u p => clauseOk 2 u p
  | .strmStop _ u p => clauseOk 2 u p
  | .tfetch _ _ u p => clauseOk 3 u p
  | .trel _ u p => clauseOk 3 u p
  | .copy _ _ _ u p => clauseOk 4 u p
  | .pref _ _ u p => clauseOk 4 u p
  | .disc _ _ u p => clauseOk 4 u p
  | .cfgLoad _ _ u p => clauseOk 1 u p
  | .cfgArm _ u p => clauseOk 1 u p
  | .cfgSwap _ u p => clauseOk 1 u p
  | .cfgSeq _ u p => clauseOk 1 u p
  | .cfgFree u p => clauseOk 1 u p
  | .splice _ u p => clauseOk 1 u p
  | .launch _ u p => clauseOk 1 u p
  | .gsl _ _ _ u p => clauseOk 1 u p
  | .rotJoin _ _ _ u p => clauseOk 1 u p
  | .rotLeave _ _ _ u p => clauseOk 1 u p
  | .rotSave _ _ u p => clauseOk 1 u p
  | .rotLoad _ _ _ u p => clauseOk 1 u p
  | .rotClr _ _ u p => clauseOk 1 u p
  | .rotStat _ _ _ u p => clauseOk 1 u p
  | .sporeSet _ _ u p => clauseOk 1 u p
  | .sporeFill _ _ u p => clauseOk 1 u p
  | .sporeFail _ _ u p => clauseOk 1 u p
  | .sporePeek _ _ u p => clauseOk 1 u p
  | .kvt _ _ u p => clauseOk 1 u p
  | .pwrAsk _ _ u p => clauseOk 1 u p
  | .pwrGive _ u p => clauseOk 1 u p
  | .mfs _ _ => true
  | .mts _ _ => true
  | .trap _ => true
  | .rte => true
  | .halt => true
  | .brk _ => true
  | .mark _ => true
  | .pin _ _ u t => targetOk u && targetOk t
  | .pout _ k => k != 6
  | .pctlKeep _ => true
  | .pctlRelease _ => true
  | .pkind _ u t => targetOk u && targetOk t
  | .mov _ u t => targetOk u && targetOk t
  | .const _ T t => decide (T.toNat ≤ 11) && targetOk t
  | .constw T u t => decide (T.toNat ≤ 11) && targetOk u && targetOk t
  | .getr _ t => targetOk t
  | .laneid T u t => decide (T.toNat ≤ 7) && targetOk u && targetOk t
  | .exit _ => true
  | .exitc _ => true
  | .addE T _ v u t => decide (T.toNat ≤ 7) && v != 3 && targetOk u && targetOk t
  | .subE T _ v u t => decide (T.toNat ≤ 7) && v != 3 && targetOk u && targetOk t
  | .mulE T _ v u t => decide (T.toNat ≤ 7) && v != 3 && targetOk u && targetOk t
  | .mulhE T _ u t => decide (T.toNat ≤ 7) && targetOk u && targetOk t
  | .mad T _ v u t => decide (T.toNat ≤ 7) && v != 3 && targetOk u && targetOk t
  | .andE T _ u t => decide (T.toNat ≤ 7) && targetOk u && targetOk t
  | .orE T _ u t => decide (T.toNat ≤ 7) && targetOk u && targetOk t
  | .xorE T _ u t => decide (T.toNat ≤ 7) && targetOk u && targetOk t
  | .andnE T _ u t => decide (T.toNat ≤ 7) && targetOk u && targetOk t
  | .shlE T _ v u t => decide (T.toNat ≤ 7) && v != 3 && targetOk u && targetOk t
  | .shrE T _ u t => decide (T.toNat ≤ 7) && targetOk u && targetOk t
  | .shraE T _ u t => decide (T.toNat ≤ 7) && targetOk u && targetOk t
  | .minE T _ u t => decide (T.toNat ≤ 7) && targetOk u && targetOk t
  | .maxE T _ u t => decide (T.toNat ≤ 7) && targetOk u && targetOk t
  | .abs T _ v u t => decide (T.toNat ≤ 7) && v != 3 && targetOk u && targetOk t
  | .clzE T _ u t => decide (T.toNat ≤ 7) && targetOk u && targetOk t
  | .popcE T _ u t => decide (T.toNat ≤ 7) && targetOk u && targetOk t
  | .cmpeq T _ u t => decide (T.toNat ≤ 7) && targetOk u && targetOk t
  | .cmpne T _ u t => decide (T.toNat ≤ 7) && targetOk u && targetOk t
  | .cmplt T _ u t => decide (T.toNat ≤ 7) && targetOk u && targetOk t
  | .cmple T _ u t => decide (T.toNat ≤ 7) && targetOk u && targetOk t
  | .sel T _ u t => decide (T.toNat ≤ 11) && targetOk u && targetOk t
  | .dot4 T _ v u t => ((T == 4 || T == 5) && v != 3) && targetOk u && targetOk t
  | .fadd T _ _ u t => isFloat T && targetOk u && targetOk t
  | .fsub T _ _ u t => isFloat T && targetOk u && targetOk t
  | .fmul T _ _ u t => isFloat T && targetOk u && targetOk t
  | .fma T _ _ u t => isFloat T && targetOk u && targetOk t
  | .fmin T _ u t => isFloat T && targetOk u && targetOk t
  | .fmax T _ u t => isFloat T && targetOk u && targetOk t
  | .fabs T _ u t => isFloat T && targetOk u && targetOk t
  | .fneg T _ u t => isFloat T && targetOk u && targetOk t
  | .fcmpeq T _ u t => isFloat T && targetOk u && targetOk t
  | .fcmplt T _ u t => isFloat T && targetOk u && targetOk t
  | .fcmple T _ u t => isFloat T && targetOk u && targetOk t
  | .frcp T _ _ u t => isFloat T && targetOk u && targetOk t
  | .frsq T _ _ u t => isFloat T && targetOk u && targetOk t
  | .fexp2 T _ _ u t => isFloat T && targetOk u && targetOk t
  | .flog2 T _ _ u t => isFloat T && targetOk u && targetOk t
  | .fclass T _ u t => isFloat T && targetOk u && targetOk t
  | .cvt _ S D v t => (decide (S.toNat ≤ 11) && decide (D.toNat ≤ 11) && S != D && (isFloat D || v != 3)) && targetOk t
  | .cvtsr _ S D t => ((S == 10 && (D == 8 || D == 9)) || (S == 11 && (D == 8 || D == 9 || D == 10))) && targetOk t
  | .qbfp _ m S _ t => isF3 S && mOk m && targetOk t
  | .dqbfp _ m D _ t => isF3 D && mOk m && targetOk t
  | .red T _ v u t => (decide (T.toNat ≤ 11) && (isFloat T || v != 3)) && targetOk u && targetOk t
  | .scan T _ v u t => (decide (T.toNat ≤ 11) && (isFloat T || v != 3)) && targetOk u && targetOk t
  | .shuf T _ u t => decide (T.toNat ≤ 11) && targetOk u && targetOk t
  | .bcst k T t => decide (T.toNat ≤ 11) && decide (k.toNat < elems T) && targetOk t
  | .rotl k T t => decide (T.toNat ≤ 11) && decide (k.toNat < elems T) && targetOk t
  | .ldE z o _ _ t => z != 7 && o != 15 && targetOk t
  | .stE z o _ _ => z != 7 && o != 15
  | .amoAddE o _ _ t => o != 15 && targetOk t
  | .amoSwapE o _ _ t => o != 15 && targetOk t
  | .amoCasE o _ _ t => o != 15 && targetOk t
  | .amoMinE o _ _ t => o != 15 && targetOk t
  | .amoMaxE o _ _ t => o != 15 && targetOk t
  | .amoAndE o _ _ t => o != 15 && targetOk t
  | .amoOrE o _ _ t => o != 15 && targetOk t
  | .amoXorE o _ _ t => o != 15 && targetOk t
  | .ldt o _ _ t => o != 15 && targetOk t
  | .stt o _ _ => o != 15
  | .fenceE c o _ _ => decide (c.toNat ≤ 4) && o != 15
  | .tfill _ _ => true
  | .tout _ _ => true
  | .tclr _ => true
  | .bitx _ _ u t => targetOk u && targetOk t
  | .spadd _ _ _ u t => targetOk u && targetOk t
  | .topkIns _ u t => targetOk u && targetOk t
  | .topkDrn _ u t => targetOk u && targetOk t
  | .cumt _ u t => targetOk u && targetOk t
  | .rng T _ u t => (T == 5 || T == 10 || T == 7) && targetOk u && targetOk t
  | .resid _ u t => targetOk u && targetOk t
  | .seam _ _ _ _ => true
  | .hold _ => true
  | .phase u t => targetOk u && targetOk t
  | .mma f => MtuFields.mmaOk f
  | .mmas f => MtuFields.mmasOk f
  | .tadd f => MtuFields.elementwiseOk f
  | .tscl f => MtuFields.elementwiseOk f
  | .tcvt f => MtuFields.tcvtOk f
  | .ttrn f => MtuFields.ttrnOk f
  | .mtuReleasePoint f => f.ok
  | .mtuResult f => f.ok
  | .asyncDelivery t => t.ok
  | .hostLaunch => true
  | .place die => decide (die < 4)
  | .recordAged die queue _ => decide (die < 4) && decide (queue < 16)
  | .leaveGrant => true
  | .arm r => r.ok
  | .threadStart r => r.ok
  | .taskStart die page => decide (die < 4) && decide (page < 48)
  | .firingStart f => f.ok
  | .planeDrain f => f.ok
  | .cutTake f => f.ok
  | .portHeadToken f port => f.ok && decide (port < 8)
  | .tokenHop _ => true
  | .creditReturn f port => f.ok && decide (port < 8)
  | .rateWindow r => r.ok
  | .planeSwitch r => r.ok
  | .seqSwitch r => r.ok
  | .spliceFeSwitch f => f.ok
  | .rotStep r rot => r.ok && decide (rot < 8)
  | .slotFaultNotice r rot => r.ok && decide (rot < 8)
  | .seamPkToken r rot => r.ok && decide (rot < 8)
  | .memportIssue f => f.ok
  | .accessPerform _ => true
  | .waitsForChase t => t.ok
  | .sporeTimeout die slice _ => decide (die < 4) && decide (slice < 192)
  | .l2Fill die _ => decide (die < 4)
  | .pageWalk die _ _ => decide (die < 4)
  | .peerDown peer => decide (peer < 64)
  | .cxlPortLost port => decide (port < 24)
  | .streamBindingStart t => t.ok
  | .streamDeliver r _ _ => r.ok
  | .streamTake r _ => r.ok
  | .engineComplete t _ _ => t.ok
  | .waitqWake t => t.ok
  | .waitqTimeout t => t.ok
  | .guardTileIssue die entry => decide (die < 4) && decide (entry < 16)
  | .gangAllReady r => r.ok
  | .gangStart r => r.ok
  | .gangAbandon r => r.ok
  | .cutComplete r => r.ok
  | .preemptSave r => r.ok
  | .preemptEscalate r => r.ok
  | .frqPost die => decide (die < 4)
  | .uncorrectedError die _ _ => decide (die < 4)
  | .retire r => r.ok
  | .scrubComplete r => r.ok
  | .deviceFreeze => true
  | .deviceResume => true
  | .stepTimeout => true
  | .debugCutWithdraw => true
  | .triggerApply => true
  | .capturePacketHead die queue => decide (die < 4) && decide (queue < 16)
  | .frqReplay die _ => decide (die.2 < 4)
  | .frqAbort die _ => decide (die.2 < 4)
  | .frqfatalClear die _ => decide (die.2 < 4)
  | .dbgstatClear _ => true
  | .breakpointWrite _ _ => true
  | .registerWrite _ _ => true
  | .withdraw => true
  | .kill => true
  | .preempt => true
  | .asidroot => true
  | .ctxarea => true
  | .parklim => true
  | .tracering => true
  | .triggerStart => true
  | .triggerStop => true
  | .triggerFreeze => true
  | .triggerResume => true
  | .tracepkt => true
  | .debugAttach => true
  | .debugDetach => true
  | .debugStep => true
  | .debugCut => true
  | .auditmir => true
  | .auditsign => true
  | .summary => true
  | .linkcfg => true
  | .enrol => true
  | .enrolRemove => true
  | .mrext => true
  | .sfill => true
  | .sfail => true
  | .hcqUnknownOp => true
  | .auditAppend _ _ _ _ => true
  | .boot _ => true
  | .linkTimeout port => decide (port < 12)
  | .idleFlit port => decide (port < 12)
  | .flitRetry port => decide (port < 12)
  | .ideIntegrityFail link stream => decide (link < 2) && decide (stream < 4)
  | .ideKm link stream _ => decide (link < 2) && decide (stream < 4)
  | .getVersion link => decide (link < 2)
  | .getCapabilities link => decide (link < 2)
  | .negotiateAlgorithms link _ => decide (link < 2)
  | .getDigests link => decide (link < 2)
  | .getCertificate link _ => decide (link < 2)
  | .challenge link _ _ => decide (link < 2)
  | .getMeasurements link _ => decide (link < 2)
  | .keyExchange link _ _ => decide (link < 2)
  | .finish link _ => decide (link < 2)
  | .pwrstatUpdate _ _ => true
  | .powerLevelChange _ => true
  | .thermalPowerdown => true
  | .illegal _ => true
  | .fetchFault _ _ => true
  | .frqconsWrite die _ => decide (die.2 < 4)
  | .bar2Access _ _ _ => true
  | .zilostLinkMessage port _ => decide (port < 12)
  | .zilostPortUp port peer _ => decide (port < 12) && decide (peer < 64)
  | .backOffRetry _ => true

end Sys2Proof
end

