-- ==== Sys2Proof/Decode.lean ====
section
/-! DEFINITION. The decoder, total on any bytes and rejecting by name, and the encoder (04 R81-R102).
Control and element words share the 32-bit space: where a word stands says which family it is (04, opening). -/

namespace Sys2Proof

/-- Why a word is no instruction of its family (04 R103). -/
inductive Reject where
  /-- No opcode, fn, sub or operation code assigns it. -/
  | unassigned
  /-- A field that must be zero is not, or a fixed bit differs. -/
  | reservedBits
  /-- A field holds a code its instruction does not admit. -/
  | badField
  /-- Fewer bytes than the instruction has. -/
  | tooShort
  deriving DecidableEq, Repr, Inhabited

/-- An assigned word is an instruction only if its fields are admitted. -/
def checked (i : Instr) : Except Reject Instr := if i.wf then .ok i else .error .badField

/-- Words of control opcode 0x01, by [7:0] (04 Table 4-2). -/
def decodeCtl01 (w : BitVec 32) : Except Reject Instr :=
  match fldN w 0 8 with
  | 0 => if fldN w 8 3 == 0 then checked (.add (fld w 21 5) (fld w 16 5) (fld w 11 5)) else .error .reservedBits
  | 1 => if fldN w 8 3 == 0 then checked (.sub (fld w 21 5) (fld w 16 5) (fld w 11 5)) else .error .reservedBits
  | 2 => if fldN w 8 3 == 0 then checked (.and (fld w 21 5) (fld w 16 5) (fld w 11 5)) else .error .reservedBits
  | 3 => if fldN w 8 3 == 0 then checked (.or (fld w 21 5) (fld w 16 5) (fld w 11 5)) else .error .reservedBits
  | 4 => if fldN w 8 3 == 0 then checked (.xor (fld w 21 5) (fld w 16 5) (fld w 11 5)) else .error .reservedBits
  | 5 => if fldN w 8 3 == 0 then checked (.andn (fld w 21 5) (fld w 16 5) (fld w 11 5)) else .error .reservedBits
  | 6 => if fldN w 8 3 == 0 then checked (.shl (fld w 21 5) (fld w 16 5) (fld w 11 5)) else .error .reservedBits
  | 7 => if fldN w 8 3 == 0 then checked (.shr (fld w 21 5) (fld w 16 5) (fld w 11 5)) else .error .reservedBits
  | 8 => if fldN w 8 3 == 0 then checked (.shra (fld w 21 5) (fld w 16 5) (fld w 11 5)) else .error .reservedBits
  | 9 => if fldN w 8 3 == 0 then checked (.mul (fld w 21 5) (fld w 16 5) (fld w 11 5)) else .error .reservedBits
  | 10 => if fldN w 8 3 == 0 then checked (.mulh (fld w 21 5) (fld w 16 5) (fld w 11 5)) else .error .reservedBits
  | 11 => if fldN w 8 3 == 0 then checked (.mulhZ (fld w 21 5) (fld w 16 5) (fld w 11 5)) else .error .reservedBits
  | 12 => if fldN w 8 3 == 0 then checked (.div (fld w 21 5) (fld w 16 5) (fld w 11 5)) else .error .reservedBits
  | 13 => if fldN w 8 3 == 0 then checked (.divZ (fld w 21 5) (fld w 16 5) (fld w 11 5)) else .error .reservedBits
  | 14 => if fldN w 8 3 == 0 then checked (.rem (fld w 21 5) (fld w 16 5) (fld w 11 5)) else .error .reservedBits
  | 15 => if fldN w 8 3 == 0 then checked (.remZ (fld w 21 5) (fld w 16 5) (fld w 11 5)) else .error .reservedBits
  | 16 => if fldN w 8 3 == 0 then checked (.min (fld w 21 5) (fld w 16 5) (fld w 11 5)) else .error .reservedBits
  | 17 => if fldN w 8 3 == 0 then checked (.max (fld w 21 5) (fld w 16 5) (fld w 11 5)) else .error .reservedBits
  | 18 => if fldN w 8 3 == 0 then checked (.minZ (fld w 21 5) (fld w 16 5) (fld w 11 5)) else .error .reservedBits
  | 19 => if fldN w 8 3 == 0 then checked (.maxZ (fld w 21 5) (fld w 16 5) (fld w 11 5)) else .error .reservedBits
  | 20 => if fldN w 8 3 == 0 then checked (.slt (fld w 21 5) (fld w 16 5) (fld w 11 5)) else .error .reservedBits
  | 21 => if fldN w 8 3 == 0 then checked (.sltZ (fld w 21 5) (fld w 16 5) (fld w 11 5)) else .error .reservedBits
  | 22 => if fldN w 8 8 == 0 then checked (.clz (fld w 21 5) (fld w 16 5)) else .error .reservedBits
  | 23 => if fldN w 8 8 == 0 then checked (.popc (fld w 21 5) (fld w 16 5)) else .error .reservedBits
  | 24 => if fldN w 10 1 == 0 then checked (.lea (fld w 21 5) (fld w 16 5) (fld w 11 5) (fld w 8 2)) else .error .reservedBits
  | _ => .error .unassigned

/-- Words of control opcode 0x06, by [15:14] (04 Table 4-2). -/
def decodeCtl06 (w : BitVec 32) : Except Reject Instr :=
  match fldN w 14 2 with
  | 0 => if fldN w 6 8 == 0 then checked (.shiL (fld w 21 5) (fld w 16 5) (fld w 0 6)) else .error .reservedBits
  | 1 => if fldN w 6 8 == 0 then checked (.shiR (fld w 21 5) (fld w 16 5) (fld w 0 6)) else .error .reservedBits
  | 2 => if fldN w 6 8 == 0 then checked (.shiRa (fld w 21 5) (fld w 16 5) (fld w 0 6)) else .error .reservedBits
  | _ => .error .unassigned

/-- Words of control opcode 0x0E, by [3:0] (04 Table 4-2). -/
def decodeCtl0E (w : BitVec 32) : Except Reject Instr :=
  match fldN w 0 4 with
  | 0 => if fldN w 8 3 == 0 then checked (.amoAdd (fld w 21 5) (fld w 16 5) (fld w 11 5) (fld w 6 2) (fld w 4 2)) else .error .reservedBits
  | 1 => if fldN w 8 3 == 0 then checked (.amoSwap (fld w 21 5) (fld w 16 5) (fld w 11 5) (fld w 6 2) (fld w 4 2)) else .error .reservedBits
  | 2 => if fldN w 8 3 == 0 then checked (.amoCas (fld w 21 5) (fld w 16 5) (fld w 11 5) (fld w 6 2) (fld w 4 2)) else .error .reservedBits
  | 3 => if fldN w 8 3 == 0 then checked (.amoMin (fld w 21 5) (fld w 16 5) (fld w 11 5) (fld w 6 2) (fld w 4 2)) else .error .reservedBits
  | 4 => if fldN w 8 3 == 0 then checked (.amoMax (fld w 21 5) (fld w 16 5) (fld w 11 5) (fld w 6 2) (fld w 4 2)) else .error .reservedBits
  | 5 => if fldN w 8 3 == 0 then checked (.amoAnd (fld w 21 5) (fld w 16 5) (fld w 11 5) (fld w 6 2) (fld w 4 2)) else .error .reservedBits
  | 6 => if fldN w 8 3 == 0 then checked (.amoOr (fld w 21 5) (fld w 16 5) (fld w 11 5) (fld w 6 2) (fld w 4 2)) else .error .reservedBits
  | 7 => if fldN w 8 3 == 0 then checked (.amoXor (fld w 21 5) (fld w 16 5) (fld w 11 5) (fld w 6 2) (fld w 4 2)) else .error .reservedBits
  | 8 => if fldN w 8 8 == 0 && fldN w 4 2 == 1 then checked (.ldAcq (fld w 21 5) (fld w 16 5) (fld w 6 2)) else .error .reservedBits
  | 9 => if fldN w 21 5 == 0 && fldN w 8 3 == 0 && fldN w 4 2 == 2 then checked (.stRel (fld w 16 5) (fld w 11 5) (fld w 6 2)) else .error .reservedBits
  | _ => .error .unassigned

/-- Words of control opcode 0x21, by [25:21] (04 Table 4-2). -/
def decodeCtl21 (w : BitVec 32) : Except Reject Instr :=
  match fldN w 21 5 with
  | 0 => if fldN w 10 6 == 0 then checked (.strmIn (fld w 16 5) (fld w 6 4) (fld w 3 3) (fld w 0 3)) else .error .reservedBits
  | 1 => if fldN w 10 6 == 0 then checked (.strmOut (fld w 16 5) (fld w 6 4) (fld w 3 3) (fld w 0 3)) else .error .reservedBits
  | 2 => if fldN w 10 1 == 0 then checked (.strmMc (fld w 16 5) (fld w 11 5) (fld w 6 4) (fld w 3 3) (fld w 0 3)) else .error .reservedBits
  | 3 => if fldN w 10 1 == 0 then checked (.strmResume (fld w 16 5) (fld w 11 5) (fld w 6 4) (fld w 3 3) (fld w 0 3)) else .error .reservedBits
  | 4 => if fldN w 6 10 == 0 then checked (.strmStop (fld w 16 5) (fld w 3 3) (fld w 0 3)) else .error .reservedBits
  | _ => .error .unassigned

/-- Words of control opcode 0x28, by [25:21] (04 Table 4-2). -/
def decodeCtl28 (w : BitVec 32) : Except Reject Instr :=
  match fldN w 21 5 with
  | 0 => if fldN w 6 5 == 0 then checked (.cfgLoad (fld w 16 5) (fld w 11 5) (fld w 3 3) (fld w 0 3)) else .error .reservedBits
  | 1 => if fldN w 16 5 == 0 && fldN w 6 5 == 0 then checked (.cfgArm (fld w 11 5) (fld w 3 3) (fld w 0 3)) else .error .reservedBits
  | 2 => if fldN w 6 10 == 0 then checked (.cfgSwap (fld w 16 5) (fld w 3 3) (fld w 0 3)) else .error .reservedBits
  | 3 => if fldN w 6 10 == 0 then checked (.cfgSeq (fld w 16 5) (fld w 3 3) (fld w 0 3)) else .error .reservedBits
  | 4 => if fldN w 6 15 == 0 then checked (.cfgFree (fld w 3 3) (fld w 0 3)) else .error .reservedBits
  | _ => .error .unassigned

/-- Words of control opcode 0x2C, by [25:21] (04 Table 4-2). -/
def decodeCtl2C (w : BitVec 32) : Except Reject Instr :=
  match fldN w 21 5 with
  | 0 => if fldN w 9 2 == 0 then checked (.rotJoin (fld w 16 5) (fld w 11 5) (fld w 6 3) (fld w 3 3) (fld w 0 3)) else .error .reservedBits
  | 1 => if fldN w 9 2 == 0 then checked (.rotLeave (fld w 16 5) (fld w 11 5) (fld w 6 3) (fld w 3 3) (fld w 0 3)) else .error .reservedBits
  | 2 => if fldN w 9 7 == 0 then checked (.rotSave (fld w 16 5) (fld w 6 3) (fld w 3 3) (fld w 0 3)) else .error .reservedBits
  | 3 => if fldN w 9 2 == 0 then checked (.rotLoad (fld w 16 5) (fld w 11 5) (fld w 6 3) (fld w 3 3) (fld w 0 3)) else .error .reservedBits
  | 4 => if fldN w 9 7 == 0 then checked (.rotClr (fld w 16 5) (fld w 6 3) (fld w 3 3) (fld w 0 3)) else .error .reservedBits
  | 5 => if fldN w 9 2 == 0 then checked (.rotStat (fld w 16 5) (fld w 11 5) (fld w 6 3) (fld w 3 3) (fld w 0 3)) else .error .reservedBits
  | _ => .error .unassigned

/-- Words of control opcode 0x2D, by [25:21] (04 Table 4-2). -/
def decodeCtl2D (w : BitVec 32) : Except Reject Instr :=
  match fldN w 21 5 with
  | 0 => if fldN w 6 5 == 0 then checked (.sporeSet (fld w 16 5) (fld w 11 5) (fld w 3 3) (fld w 0 3)) else .error .reservedBits
  | 1 => if fldN w 6 5 == 0 then checked (.sporeFill (fld w 16 5) (fld w 11 5) (fld w 3 3) (fld w 0 3)) else .error .reservedBits
  | 2 => if fldN w 6 5 == 0 then checked (.sporeFail (fld w 16 5) (fld w 11 5) (fld w 3 3) (fld w 0 3)) else .error .reservedBits
  | 3 => if fldN w 6 5 == 0 then checked (.sporePeek (fld w 16 5) (fld w 11 5) (fld w 3 3) (fld w 0 3)) else .error .reservedBits
  | _ => .error .unassigned

/-- Words of control opcode 0x2F, by [25:21] (04 Table 4-2). -/
def decodeCtl2F (w : BitVec 32) : Except Reject Instr :=
  match fldN w 21 5 with
  | 0 => if fldN w 6 5 == 0 then checked (.pwrAsk (fld w 16 5) (fld w 11 5) (fld w 3 3) (fld w 0 3)) else .error .reservedBits
  | 1 => if fldN w 6 10 == 0 then checked (.pwrGive (fld w 16 5) (fld w 3 3) (fld w 0 3)) else .error .reservedBits
  | _ => .error .unassigned

/-- The control instruction of a word, or why there is none: such a word traps ILLEGAL (04 R91). -/
def decodeControl (w : BitVec 32) : Except Reject Instr :=
  match fldN w 26 6 with
  | 1 => decodeCtl01 w
  | 2 => checked (.addi (fld w 21 5) (fld w 16 5) (fld w 0 16))
  | 3 => checked (.andi (fld w 21 5) (fld w 16 5) (fld w 0 16))
  | 4 => checked (.ori (fld w 21 5) (fld w 16 5) (fld w 0 16))
  | 5 => checked (.xori (fld w 21 5) (fld w 16 5) (fld w 0 16))
  | 6 => decodeCtl06 w
  | 7 => if fldN w 18 3 == 0 then checked (.insi (fld w 21 5) (fld w 16 2) (fld w 0 16)) else .error .reservedBits
  | 8 => checked (.slti (fld w 21 5) (fld w 16 5) (fld w 0 16))
  | 9 => checked (.sltiZ (fld w 21 5) (fld w 16 5) (fld w 0 16))
  | 12 => checked (.ld (fld w 21 5) (fld w 16 5) (fld w 13 3) (fld w 0 13))
  | 13 => checked (.st (fld w 21 5) (fld w 16 5) (fld w 13 3) (fld w 0 13))
  | 14 => decodeCtl0E w
  | 15 => if fldN w 11 15 == 0 then checked (.fence (fld w 8 3) (fld w 4 4) (fld w 0 4)) else .error .reservedBits
  | 16 => checked (.beq (fld w 21 5) (fld w 16 5) (fld w 0 16))
  | 17 => checked (.bne (fld w 21 5) (fld w 16 5) (fld w 0 16))
  | 18 => checked (.blt (fld w 21 5) (fld w 16 5) (fld w 0 16))
  | 19 => checked (.bge (fld w 21 5) (fld w 16 5) (fld w 0 16))
  | 20 => checked (.bltZ (fld w 21 5) (fld w 16 5) (fld w 0 16))
  | 21 => checked (.bgeZ (fld w 21 5) (fld w 16 5) (fld w 0 16))
  | 22 => checked (.jal (fld w 21 5) (fld w 0 21))
  | 23 => if fldN w 0 16 == 0 then checked (.jr (fld w 21 5) (fld w 16 5)) else .error .reservedBits
  | 24 => if fldN w 21 5 == 0 && fldN w 1 10 == 0 then checked (.waitq (fld w 16 5) (fld w 11 5) (fld w 0 1)) else .error .reservedBits
  | 25 => if fldN w 6 20 == 0 then checked (.bar (fld w 3 3) (fld w 0 3)) else .error .reservedBits
  | 26 => if fldN w 6 20 == 0 then checked (.tokw (fld w 3 3) (fld w 0 3)) else .error .reservedBits
  | 27 => if fldN w 21 5 == 0 && fldN w 0 11 == 0 then checked (.spawn (fld w 16 5) (fld w 11 5)) else .error .reservedBits
  | 32 => if fldN w 21 5 == 0 && fldN w 10 6 == 0 then checked (.spat (fld w 16 5) (fld w 6 4) (fld w 3 3) (fld w 0 3)) else .error .reservedBits
  | 33 => decodeCtl21 w
  | 34 => if fldN w 21 5 == 0 && fldN w 6 5 == 0 then checked (.tfetch (fld w 16 5) (fld w 11 5) (fld w 3 3) (fld w 0 3)) else .error .reservedBits
  | 35 => if fldN w 21 5 == 0 && fldN w 6 10 == 0 then checked (.trel (fld w 16 5) (fld w 3 3) (fld w 0 3)) else .error .reservedBits
  | 36 => if fldN w 21 5 == 0 then checked (.copy (fld w 16 5) (fld w 11 5) (fld w 6 5) (fld w 3 3) (fld w 0 3)) else .error .reservedBits
  | 37 => if fldN w 21 5 == 0 && fldN w 6 5 == 0 then checked (.pref (fld w 16 5) (fld w 11 5) (fld w 3 3) (fld w 0 3)) else .error .reservedBits
  | 38 => if fldN w 21 5 == 0 && fldN w 6 5 == 0 then checked (.disc (fld w 16 5) (fld w 11 5) (fld w 3 3) (fld w 0 3)) else .error .reservedBits
  | 40 => decodeCtl28 w
  | 41 => if fldN w 21 5 == 0 && fldN w 6 10 == 0 then checked (.splice (fld w 16 5) (fld w 3 3) (fld w 0 3)) else .error .reservedBits
  | 42 => if fldN w 21 5 == 0 && fldN w 6 10 == 0 then checked (.launch (fld w 16 5) (fld w 3 3) (fld w 0 3)) else .error .reservedBits
  | 43 => if fldN w 21 5 == 0 && fldN w 9 2 == 0 then checked (.gsl (fld w 16 5) (fld w 11 5) (fld w 6 3) (fld w 3 3) (fld w 0 3)) else .error .reservedBits
  | 44 => decodeCtl2C w
  | 45 => decodeCtl2D w
  | 46 => if fldN w 21 5 == 0 && fldN w 6 5 == 0 then checked (.kvt (fld w 16 5) (fld w 11 5) (fld w 3 3) (fld w 0 3)) else .error .reservedBits
  | 47 => decodeCtl2F w
  | 48 => if fldN w 16 5 == 0 then checked (.mfs (fld w 21 5) (fld w 0 16)) else .error .reservedBits
  | 49 => if fldN w 21 5 == 0 then checked (.mts (fld w 16 5) (fld w 0 16)) else .error .reservedBits
  | 50 => if fldN w 16 10 == 0 then checked (.trap (fld w 0 16)) else .error .reservedBits
  | 51 => if fldN w 0 26 == 0 then checked (.rte) else .error .reservedBits
  | 52 => if fldN w 0 26 == 0 then checked (.halt) else .error .reservedBits
  | 53 => if fldN w 16 10 == 0 then checked (.brk (fld w 0 16)) else .error .reservedBits
  | 54 => if fldN w 16 10 == 0 then checked (.mark (fld w 0 16)) else .error .reservedBits
  | _ => .error .unassigned

/-- Words of element opcode 0x03, by [18:18] (04 Table 4-9). -/
def decodeElem03 (w : BitVec 32) : Except Reject Instr :=
  match fldN w 18 1 with
  | 0 => if fldN w 19 3 == 0 && fldN w 0 18 == 0 then checked (.pctlKeep (fld w 22 3)) else .error .reservedBits
  | 1 => if fldN w 19 3 == 0 && fldN w 0 18 == 0 then checked (.pctlRelease (fld w 22 3)) else .error .reservedBits
  | _ => .error .unassigned

/-- Words of element opcode 0x54, by [24:22] (04 Table 4-9). -/
def decodeElem54 (w : BitVec 32) : Except Reject Instr :=
  match fldN w 22 3 with
  | 0 => if fldN w 9 1 == 0 then checked (.amoAddE (fld w 18 4) (fld w 14 4) (fld w 10 4) (fld w 0 9)) else .error .reservedBits
  | 1 => if fldN w 9 1 == 0 then checked (.amoSwapE (fld w 18 4) (fld w 14 4) (fld w 10 4) (fld w 0 9)) else .error .reservedBits
  | 2 => if fldN w 9 1 == 0 then checked (.amoCasE (fld w 18 4) (fld w 14 4) (fld w 10 4) (fld w 0 9)) else .error .reservedBits
  | 3 => if fldN w 9 1 == 0 then checked (.amoMinE (fld w 18 4) (fld w 14 4) (fld w 10 4) (fld w 0 9)) else .error .reservedBits
  | 4 => if fldN w 9 1 == 0 then checked (.amoMaxE (fld w 18 4) (fld w 14 4) (fld w 10 4) (fld w 0 9)) else .error .reservedBits
  | 5 => if fldN w 9 1 == 0 then checked (.amoAndE (fld w 18 4) (fld w 14 4) (fld w 10 4) (fld w 0 9)) else .error .reservedBits
  | 6 => if fldN w 9 1 == 0 then checked (.amoOrE (fld w 18 4) (fld w 14 4) (fld w 10 4) (fld w 0 9)) else .error .reservedBits
  | 7 => if fldN w 9 1 == 0 then checked (.amoXorE (fld w 18 4) (fld w 14 4) (fld w 10 4) (fld w 0 9)) else .error .reservedBits
  | _ => .error .unassigned

/-- The element instruction of a word, or why there is none: such a word is refused at load (04 R99). -/
def decodeElement (w : BitVec 32) : Except Reject Instr :=
  match fldN w 25 7 with
  | 1 => checked (.pin (fld w 22 3) (fld w 18 4) (fld w 9 9) (fld w 0 9))
  | 2 => if fldN w 21 1 == 0 && fldN w 0 18 == 0 then checked (.pout (fld w 22 3) (fld w 18 3)) else .error .reservedBits
  | 3 => decodeElem03 w
  | 4 => if fldN w 18 4 == 0 then checked (.pkind (fld w 22 3) (fld w 9 9) (fld w 0 9)) else .error .reservedBits
  | 5 => if fldN w 21 4 == 0 && fldN w 18 2 == 0 then checked (.mov (fld w 20 1) (fld w 9 9) (fld w 0 9)) else .error .reservedBits
  | 6 => if fldN w 9 2 == 0 then checked (.const (fld w 15 10) (fld w 11 4) (fld w 0 9)) else .error .reservedBits
  | 7 => if fldN w 18 3 == 0 then checked (.constw (fld w 21 4) (fld w 9 9) (fld w 0 9)) else .error .reservedBits
  | 8 => if fldN w 20 5 == 0 && fldN w 9 6 == 0 then checked (.getr (fld w 15 5) (fld w 0 9)) else .error .reservedBits
  | 9 => if fldN w 18 3 == 0 then checked (.laneid (fld w 21 4) (fld w 9 9) (fld w 0 9)) else .error .reservedBits
  | 10 => if fldN w 18 7 == 0 && fldN w 0 15 == 0 then checked (.exit (fld w 15 3)) else .error .reservedBits
  | 11 => if fldN w 18 7 == 0 && fldN w 0 15 == 0 then checked (.exitc (fld w 15 3)) else .error .reservedBits
  | 16 => checked (.addE (fld w 21 4) (fld w 20 1) (fld w 18 2) (fld w 9 9) (fld w 0 9))
  | 17 => checked (.subE (fld w 21 4) (fld w 20 1) (fld w 18 2) (fld w 9 9) (fld w 0 9))
  | 18 => checked (.mulE (fld w 21 4) (fld w 20 1) (fld w 18 2) (fld w 9 9) (fld w 0 9))
  | 19 => if fldN w 18 2 == 0 then checked (.mulhE (fld w 21 4) (fld w 20 1) (fld w 9 9) (fld w 0 9)) else .error .reservedBits
  | 20 => checked (.mad (fld w 21 4) (fld w 20 1) (fld w 18 2) (fld w 9 9) (fld w 0 9))
  | 21 => if fldN w 18 2 == 0 then checked (.andE (fld w 21 4) (fld w 20 1) (fld w 9 9) (fld w 0 9)) else .error .reservedBits
  | 22 => if fldN w 18 2 == 0 then checked (.orE (fld w 21 4) (fld w 20 1) (fld w 9 9) (fld w 0 9)) else .error .reservedBits
  | 23 => if fldN w 18 2 == 0 then checked (.xorE (fld w 21 4) (fld w 20 1) (fld w 9 9) (fld w 0 9)) else .error .reservedBits
  | 24 => if fldN w 18 2 == 0 then checked (.andnE (fld w 21 4) (fld w 20 1) (fld w 9 9) (fld w 0 9)) else .error .reservedBits
  | 25 => checked (.shlE (fld w 21 4) (fld w 20 1) (fld w 18 2) (fld w 9 9) (fld w 0 9))
  | 26 => if fldN w 18 2 == 0 then checked (.shrE (fld w 21 4) (fld w 20 1) (fld w 9 9) (fld w 0 9)) else .error .reservedBits
  | 27 => if fldN w 18 2 == 0 then checked (.shraE (fld w 21 4) (fld w 20 1) (fld w 9 9) (fld w 0 9)) else .error .reservedBits
  | 28 => if fldN w 18 2 == 0 then checked (.minE (fld w 21 4) (fld w 20 1) (fld w 9 9) (fld w 0 9)) else .error .reservedBits
  | 29 => if fldN w 18 2 == 0 then checked (.maxE (fld w 21 4) (fld w 20 1) (fld w 9 9) (fld w 0 9)) else .error .reservedBits
  | 30 => checked (.abs (fld w 21 4) (fld w 20 1) (fld w 18 2) (fld w 9 9) (fld w 0 9))
  | 31 => if fldN w 18 2 == 0 then checked (.clzE (fld w 21 4) (fld w 20 1) (fld w 9 9) (fld w 0 9)) else .error .reservedBits
  | 32 => if fldN w 18 2 == 0 then checked (.popcE (fld w 21 4) (fld w 20 1) (fld w 9 9) (fld w 0 9)) else .error .reservedBits
  | 33 => if fldN w 18 2 == 0 then checked (.cmpeq (fld w 21 4) (fld w 20 1) (fld w 9 9) (fld w 0 9)) else .error .reservedBits
  | 34 => if fldN w 18 2 == 0 then checked (.cmpne (fld w 21 4) (fld w 20 1) (fld w 9 9) (fld w 0 9)) else .error .reservedBits
  | 35 => if fldN w 18 2 == 0 then checked (.cmplt (fld w 21 4) (fld w 20 1) (fld w 9 9) (fld w 0 9)) else .error .reservedBits
  | 36 => if fldN w 18 2 == 0 then checked (.cmple (fld w 21 4) (fld w 20 1) (fld w 9 9) (fld w 0 9)) else .error .reservedBits
  | 37 => if fldN w 18 2 == 0 then checked (.sel (fld w 21 4) (fld w 20 1) (fld w 9 9) (fld w 0 9)) else .error .reservedBits
  | 38 => checked (.dot4 (fld w 21 4) (fld w 20 1) (fld w 18 2) (fld w 9 9) (fld w 0 9))
  | 48 => checked (.fadd (fld w 21 4) (fld w 20 1) (fld w 18 2) (fld w 9 9) (fld w 0 9))
  | 49 => checked (.fsub (fld w 21 4) (fld w 20 1) (fld w 18 2) (fld w 9 9) (fld w 0 9))
  | 50 => checked (.fmul (fld w 21 4) (fld w 20 1) (fld w 18 2) (fld w 9 9) (fld w 0 9))
  | 51 => checked (.fma (fld w 21 4) (fld w 20 1) (fld w 18 2) (fld w 9 9) (fld w 0 9))
  | 52 => if fldN w 18 2 == 0 then checked (.fmin (fld w 21 4) (fld w 20 1) (fld w 9 9) (fld w 0 9)) else .error .reservedBits
  | 53 => if fldN w 18 2 == 0 then checked (.fmax (fld w 21 4) (fld w 20 1) (fld w 9 9) (fld w 0 9)) else .error .reservedBits
  | 54 => if fldN w 18 2 == 0 then checked (.fabs (fld w 21 4) (fld w 20 1) (fld w 9 9) (fld w 0 9)) else .error .reservedBits
  | 55 => if fldN w 18 2 == 0 then checked (.fneg (fld w 21 4) (fld w 20 1) (fld w 9 9) (fld w 0 9)) else .error .reservedBits
  | 56 => if fldN w 18 2 == 0 then checked (.fcmpeq (fld w 21 4) (fld w 20 1) (fld w 9 9) (fld w 0 9)) else .error .reservedBits
  | 57 => if fldN w 18 2 == 0 then checked (.fcmplt (fld w 21 4) (fld w 20 1) (fld w 9 9) (fld w 0 9)) else .error .reservedBits
  | 58 => if fldN w 18 2 == 0 then checked (.fcmple (fld w 21 4) (fld w 20 1) (fld w 9 9) (fld w 0 9)) else .error .reservedBits
  | 59 => checked (.frcp (fld w 21 4) (fld w 20 1) (fld w 18 2) (fld w 9 9) (fld w 0 9))
  | 60 => checked (.frsq (fld w 21 4) (fld w 20 1) (fld w 18 2) (fld w 9 9) (fld w 0 9))
  | 61 => checked (.fexp2 (fld w 21 4) (fld w 20 1) (fld w 18 2) (fld w 9 9) (fld w 0 9))
  | 62 => checked (.flog2 (fld w 21 4) (fld w 20 1) (fld w 18 2) (fld w 9 9) (fld w 0 9))
  | 63 => if fldN w 18 2 == 0 then checked (.fclass (fld w 21 4) (fld w 20 1) (fld w 9 9) (fld w 0 9)) else .error .reservedBits
  | 70 => if fldN w 19 5 == 0 then checked (.cvt (fld w 24 1) (fld w 15 4) (fld w 11 4) (fld w 9 2) (fld w 0 9)) else .error .reservedBits
  | 71 => if fldN w 19 5 == 0 && fldN w 9 2 == 0 then checked (.cvtsr (fld w 24 1) (fld w 15 4) (fld w 11 4) (fld w 0 9)) else .error .reservedBits
  | 72 => if fldN w 23 1 == 0 && fldN w 11 4 == 12 then checked (.qbfp (fld w 24 1) (fld w 19 4) (fld w 15 4) (fld w 9 2) (fld w 0 9)) else .error .reservedBits
  | 73 => if fldN w 23 1 == 0 && fldN w 15 4 == 12 then checked (.dqbfp (fld w 24 1) (fld w 19 4) (fld w 11 4) (fld w 9 2) (fld w 0 9)) else .error .reservedBits
  | 76 => checked (.red (fld w 21 4) (fld w 20 1) (fld w 18 2) (fld w 9 9) (fld w 0 9))
  | 77 => checked (.scan (fld w 21 4) (fld w 20 1) (fld w 18 2) (fld w 9 9) (fld w 0 9))
  | 78 => if fldN w 18 2 == 0 then checked (.shuf (fld w 21 4) (fld w 20 1) (fld w 9 9) (fld w 0 9)) else .error .reservedBits
  | 79 => if fldN w 19 6 == 0 && fldN w 9 2 == 0 then checked (.bcst (fld w 15 4) (fld w 11 4) (fld w 0 9)) else .error .reservedBits
  | 80 => if fldN w 19 6 == 0 && fldN w 9 2 == 0 then checked (.rotl (fld w 15 4) (fld w 11 4) (fld w 0 9)) else .error .reservedBits
  | 82 => if fldN w 9 1 == 0 then checked (.ldE (fld w 22 3) (fld w 18 4) (fld w 14 4) (fld w 10 4) (fld w 0 9)) else .error .reservedBits
  | 83 => if fldN w 0 10 == 0 then checked (.stE (fld w 22 3) (fld w 18 4) (fld w 14 4) (fld w 10 4)) else .error .reservedBits
  | 84 => decodeElem54 w
  | 85 => if fldN w 22 3 == 0 && fldN w 9 1 == 0 then checked (.ldt (fld w 18 4) (fld w 14 4) (fld w 10 4) (fld w 0 9)) else .error .reservedBits
  | 86 => if fldN w 22 3 == 0 && fldN w 0 10 == 0 then checked (.stt (fld w 18 4) (fld w 14 4) (fld w 10 4)) else .error .reservedBits
  | 87 => if fldN w 0 10 == 0 then checked (.fenceE (fld w 22 3) (fld w 18 4) (fld w 14 4) (fld w 10 4)) else .error .reservedBits
  | 90 => if fldN w 0 18 == 0 then checked (.tfill (fld w 22 3) (fld w 18 4)) else .error .reservedBits
  | 91 => if fldN w 0 18 == 0 then checked (.tout (fld w 22 3) (fld w 18 4)) else .error .reservedBits
  | 92 => if fldN w 19 6 == 0 && fldN w 0 15 == 0 then checked (.tclr (fld w 15 4)) else .error .reservedBits
  | 98 => if fldN w 21 4 == 0 && fldN w 19 1 == 0 then checked (.bitx (fld w 20 1) (fld w 18 1) (fld w 9 9) (fld w 0 9)) else .error .reservedBits
  | 99 => if fldN w 21 1 == 0 then checked (.spadd (fld w 22 3) (fld w 20 1) (fld w 18 2) (fld w 9 9) (fld w 0 9)) else .error .reservedBits
  | 100 => if fldN w 21 4 == 0 && fldN w 18 2 == 0 then checked (.topkIns (fld w 20 1) (fld w 9 9) (fld w 0 9)) else .error .reservedBits
  | 101 => if fldN w 21 4 == 0 && fldN w 18 2 == 0 then checked (.topkDrn (fld w 20 1) (fld w 9 9) (fld w 0 9)) else .error .reservedBits
  | 102 => if fldN w 21 4 == 0 && fldN w 18 2 == 0 then checked (.cumt (fld w 20 1) (fld w 9 9) (fld w 0 9)) else .error .reservedBits
  | 103 => if fldN w 18 2 == 0 then checked (.rng (fld w 21 4) (fld w 20 1) (fld w 9 9) (fld w 0 9)) else .error .reservedBits
  | 104 => if fldN w 21 4 == 10 && fldN w 18 2 == 0 then checked (.resid (fld w 20 1) (fld w 9 9) (fld w 0 9)) else .error .reservedBits
  | 107 => if fldN w 12 7 == 40 && fldN w 3 6 == 40 then checked (.seam (fld w 22 3) (fld w 19 3) (fld w 9 3) (fld w 0 3)) else .error .reservedBits
  | 108 => if fldN w 21 4 == 0 && fldN w 0 20 == 0 then checked (.hold (fld w 20 1)) else .error .reservedBits
  | 109 => if fldN w 18 7 == 0 then checked (.phase (fld w 9 9) (fld w 0 9)) else .error .reservedBits
  | _ => .error .unassigned

/-- The fields of a 64-bit MTU record (04 Table 4-11). -/
def mtuFields (w : BitVec 64) : MtuFields where
  dst := fld w 0 4
  sa := fld w 4 4
  sb := fld w 8 4
  sc := fld w 12 4
  ka := fld w 16 4
  kb := fld w 20 4
  kc := fld w 24 4
  ta := fld w 28 4
  tb := fld w 32 4
  tc := fld w 36 4
  td := fld w 40 4
  rm := fld w 44 2
  sr := fld w 46 1
  nsp := fld w 47 3
  mw := fld w 50 4
  bcol := fld w 54 1
  cuse := fld w 55 1

/-- The operation of an MTU record (04 Table 4-12, R102). An empty entry (OP 0) is no operation. -/
def decodeMtu (w : BitVec 64) : Except Reject Instr :=
  if fldN w 56 2 == 0 then
    match fldN w 58 6 with
    | 1 => checked (.mma (mtuFields w))
    | 2 => checked (.mmas (mtuFields w))
    | 3 => checked (.tadd (mtuFields w))
    | 4 => checked (.tscl (mtuFields w))
    | 5 => checked (.tcvt (mtuFields w))
    | 6 => checked (.ttrn (mtuFields w))
    | _ => .error .unassigned
  else .error .reservedBits

/-- The three encoded families (04, opening). -/
inductive Family where
  | control | element | record
  deriving DecidableEq, Repr, Inhabited

/-- Little-endian number of a list of bytes (00 R6). -/
def leNat : List Byte → Nat
  | [] => 0
  | b :: bs => b.toNat + 256 * leNat bs

/-- The low `n` bytes of a number, lowest first (00 R6). -/
def leBytes : Nat → Nat → List Byte
  | 0, _ => []
  | n + 1, v => BitVec.ofNat 8 v :: leBytes n (v / 256)

/-- Decode the first instruction of a family in a list of bytes, and give the rest of the list. -/
def decodeBytes (fam : Family) (bs : List Byte) : Except Reject (Instr × List Byte) :=
  match fam with
  | .control =>
    if bs.length < 4 then .error .tooShort
    else (decodeControl (BitVec.ofNat 32 (leNat (bs.take 4)))).map fun i => (i, bs.drop 4)
  | .element =>
    if bs.length < 4 then .error .tooShort
    else (decodeElement (BitVec.ofNat 32 (leNat (bs.take 4)))).map fun i => (i, bs.drop 4)
  | .record =>
    if bs.length < 8 then .error .tooShort
    else (decodeMtu (BitVec.ofNat 64 (leNat (bs.take 8)))).map fun i => (i, bs.drop 8)

/-- The word of a control or element instruction; MTU records and events have none (04 Tables 4-1, 4-8). -/
def encodeWord : Instr → Option (BitVec 32)
  | .add d a b => some (0x1#6 ++ d ++ a ++ b ++ 0x0#11)
  | .sub d a b => some (0x1#6 ++ d ++ a ++ b ++ 0x1#11)
  | .and d a b => some (0x1#6 ++ d ++ a ++ b ++ 0x2#11)
  | .or d a b => some (0x1#6 ++ d ++ a ++ b ++ 0x3#11)
  | .xor d a b => some (0x1#6 ++ d ++ a ++ b ++ 0x4#11)
  | .andn d a b => some (0x1#6 ++ d ++ a ++ b ++ 0x5#11)
  | .shl d a b => some (0x1#6 ++ d ++ a ++ b ++ 0x6#11)
  | .shr d a b => some (0x1#6 ++ d ++ a ++ b ++ 0x7#11)
  | .shra d a b => some (0x1#6 ++ d ++ a ++ b ++ 0x8#11)
  | .mul d a b => some (0x1#6 ++ d ++ a ++ b ++ 0x9#11)
  | .mulh d a b => some (0x1#6 ++ d ++ a ++ b ++ 0xa#11)
  | .mulhZ d a b => some (0x1#6 ++ d ++ a ++ b ++ 0xb#11)
  | .div d a b => some (0x1#6 ++ d ++ a ++ b ++ 0xc#11)
  | .divZ d a b => some (0x1#6 ++ d ++ a ++ b ++ 0xd#11)
  | .rem d a b => some (0x1#6 ++ d ++ a ++ b ++ 0xe#11)
  | .remZ d a b => some (0x1#6 ++ d ++ a ++ b ++ 0xf#11)
  | .min d a b => some (0x1#6 ++ d ++ a ++ b ++ 0x10#11)
  | .max d a b => some (0x1#6 ++ d ++ a ++ b ++ 0x11#11)
  | .minZ d a b => some (0x1#6 ++ d ++ a ++ b ++ 0x12#11)
  | .maxZ d a b => some (0x1#6 ++ d ++ a ++ b ++ 0x13#11)
  | .slt d a b => some (0x1#6 ++ d ++ a ++ b ++ 0x14#11)
  | .sltZ d a b => some (0x1#6 ++ d ++ a ++ b ++ 0x15#11)
  | .clz d a => some (0x1#6 ++ d ++ a ++ 0x16#16)
  | .popc d a => some (0x1#6 ++ d ++ a ++ 0x17#16)
  | .lea d a b s => some (0x1#6 ++ d ++ a ++ b ++ 0x0#1 ++ s ++ 0x18#8)
  | .addi d a i => some (0x2#6 ++ d ++ a ++ i)
  | .andi d a i => some (0x3#6 ++ d ++ a ++ i)
  | .ori d a i => some (0x4#6 ++ d ++ a ++ i)
  | .xori d a i => some (0x5#6 ++ d ++ a ++ i)
  | .shiL d a n => some (0x6#6 ++ d ++ a ++ 0x0#10 ++ n)
  | .shiR d a n => some (0x6#6 ++ d ++ a ++ 0x100#10 ++ n)
  | .shiRa d a n => some (0x6#6 ++ d ++ a ++ 0x200#10 ++ n)
  | .insi d k i => some (0x7#6 ++ d ++ 0x0#3 ++ k ++ i)
  | .slti d a i => some (0x8#6 ++ d ++ a ++ i)
  | .sltiZ d a i => some (0x9#6 ++ d ++ a ++ i)
  | .ld d a z o => some (0xc#6 ++ d ++ a ++ z ++ o)
  | .st d a z o => some (0xd#6 ++ d ++ a ++ z ++ o)
  | .amoAdd d a b z r => some (0xe#6 ++ d ++ a ++ b ++ 0x0#3 ++ z ++ r ++ 0x0#4)
  | .amoSwap d a b z r => some (0xe#6 ++ d ++ a ++ b ++ 0x0#3 ++ z ++ r ++ 0x1#4)
  | .amoCas d a b z r => some (0xe#6 ++ d ++ a ++ b ++ 0x0#3 ++ z ++ r ++ 0x2#4)
  | .amoMin d a b z r => some (0xe#6 ++ d ++ a ++ b ++ 0x0#3 ++ z ++ r ++ 0x3#4)
  | .amoMax d a b z r => some (0xe#6 ++ d ++ a ++ b ++ 0x0#3 ++ z ++ r ++ 0x4#4)
  | .amoAnd d a b z r => some (0xe#6 ++ d ++ a ++ b ++ 0x0#3 ++ z ++ r ++ 0x5#4)
  | .amoOr d a b z r => some (0xe#6 ++ d ++ a ++ b ++ 0x0#3 ++ z ++ r ++ 0x6#4)
  | .amoXor d a b z r => some (0xe#6 ++ d ++ a ++ b ++ 0x0#3 ++ z ++ r ++ 0x7#4)
  | .ldAcq d a z => some (0xe#6 ++ d ++ a ++ 0x0#8 ++ z ++ 0x18#6)
  | .stRel a b z => some (0x1c0#11 ++ a ++ b ++ 0x0#3 ++ z ++ 0x29#6)
  | .fence c s p => some (0x78000#21 ++ c ++ s ++ p)
  | .beq a b o => some (0x10#6 ++ a ++ b ++ o)
  | .bne a b o => some (0x11#6 ++ a ++ b ++ o)
  | .blt a b o => some (0x12#6 ++ a ++ b ++ o)
  | .bge a b o => some (0x13#6 ++ a ++ b ++ o)
  | .bltZ a b o => some (0x14#6 ++ a ++ b ++ o)
  | .bgeZ a b o => some (0x15#6 ++ a ++ b ++ o)
  | .jal d o => some (0x16#6 ++ d ++ o)
  | .jr d a => some (0x17#6 ++ d ++ a ++ 0x0#16)
  | .waitq a b c => some (0x300#11 ++ a ++ b ++ 0x0#10 ++ c)
  | .bar u p => some (0x1900000#26 ++ u ++ p)
  | .tokw u p => some (0x1a00000#26 ++ u ++ p)
  | .spawn a b => some (0x360#11 ++ a ++ b ++ 0x0#11)
  | .spat a n u p => some (0x400#11 ++ a ++ 0x0#6 ++ n ++ u ++ p)
  | .strmIn a n u p => some (0x420#11 ++ a ++ 0x0#6 ++ n ++ u ++ p)
  | .strmOut a n u p => some (0x421#11 ++ a ++ 0x0#6 ++ n ++ u ++ p)
  | .strmMc a b n u p => some (0x422#11 ++ a ++ b ++ 0x0#1 ++ n ++ u ++ p)
  | .strmResume a b n u p => some (0x423#11 ++ a ++ b ++ 0x0#1 ++ n ++ u ++ p)
  | .strmStop a u p => some (0x424#11 ++ a ++ 0x0#10 ++ u ++ p)
  | .tfetch a b u p => some (0x440#11 ++ a ++ b ++ 0x0#5 ++ u ++ p)
  | .trel a u p => some (0x460#11 ++ a ++ 0x0#10 ++ u ++ p)
  | .copy a b q u p => some (0x480#11 ++ a ++ b ++ q ++ u ++ p)
  | .pref a b u p => some (0x4a0#11 ++ a ++ b ++ 0x0#5 ++ u ++ p)
  | .disc a b u p => some (0x4c0#11 ++ a ++ b ++ 0x0#5 ++ u ++ p)
  | .cfgLoad a b u p => some (0x500#11 ++ a ++ b ++ 0x0#5 ++ u ++ p)
  | .cfgArm b u p => some (0xa020#16 ++ b ++ 0x0#5 ++ u ++ p)
  | .cfgSwap a u p => some (0x502#11 ++ a ++ 0x0#10 ++ u ++ p)
  | .cfgSeq a u p => some (0x503#11 ++ a ++ 0x0#10 ++ u ++ p)
  | .cfgFree u p => some (0x2820000#26 ++ u ++ p)
  | .splice a u p => some (0x520#11 ++ a ++ 0x0#10 ++ u ++ p)
  | .launch a u p => some (0x540#11 ++ a ++ 0x0#10 ++ u ++ p)
  | .gsl a b k u p => some (0x560#11 ++ a ++ b ++ 0x0#2 ++ k ++ u ++ p)
  | .rotJoin a b r u p => some (0x580#11 ++ a ++ b ++ 0x0#2 ++ r ++ u ++ p)
  | .rotLeave a b r u p => some (0x581#11 ++ a ++ b ++ 0x0#2 ++ r ++ u ++ p)
  | .rotSave a r u p => some (0x582#11 ++ a ++ 0x0#7 ++ r ++ u ++ p)
  | .rotLoad a b r u p => some (0x583#11 ++ a ++ b ++ 0x0#2 ++ r ++ u ++ p)
  | .rotClr a r u p => some (0x584#11 ++ a ++ 0x0#7 ++ r ++ u ++ p)
  | .rotStat a b r u p => some (0x585#11 ++ a ++ b ++ 0x0#2 ++ r ++ u ++ p)
  | .sporeSet a b u p => some (0x5a0#11 ++ a ++ b ++ 0x0#5 ++ u ++ p)
  | .sporeFill a b u p => some (0x5a1#11 ++ a ++ b ++ 0x0#5 ++ u ++ p)
  | .sporeFail a b u p => some (0x5a2#11 ++ a ++ b ++ 0x0#5 ++ u ++ p)
  | .sporePeek a b u p => some (0x5a3#11 ++ a ++ b ++ 0x0#5 ++ u ++ p)
  | .kvt a b u p => some (0x5c0#11 ++ a ++ b ++ 0x0#5 ++ u ++ p)
  | .pwrAsk a b u p => some (0x5e0#11 ++ a ++ b ++ 0x0#5 ++ u ++ p)
  | .pwrGive a u p => some (0x5e1#11 ++ a ++ 0x0#10 ++ u ++ p)
  | .mfs d i => some (0x30#6 ++ d ++ 0x0#5 ++ i)
  | .mts a i => some (0x620#11 ++ a ++ i)
  | .trap i => some (0xc800#16 ++ i)
  | .rte => some (0xcc000000#32)
  | .halt => some (0xd0000000#32)
  | .brk i => some (0xd400#16 ++ i)
  | .mark i => some (0xd800#16 ++ i)
  | .pin p s u t => some (0x1#7 ++ p ++ s ++ u ++ t)
  | .pout p k => some (0x2#7 ++ p ++ 0x0#1 ++ k ++ 0x0#18)
  | .pctlKeep p => some (0x3#7 ++ p ++ 0x0#22)
  | .pctlRelease p => some (0x3#7 ++ p ++ 0x40000#22)
  | .pkind p u t => some (0x4#7 ++ p ++ 0x0#4 ++ u ++ t)
  | .mov q u t => some (0x50#11 ++ q ++ 0x0#2 ++ u ++ t)
  | .const i T t => some (0x6#7 ++ i ++ T ++ 0x0#2 ++ t)
  | .constw T u t => some (0x7#7 ++ T ++ 0x0#3 ++ u ++ t)
  | .getr k t => some (0x100#12 ++ k ++ 0x0#6 ++ t)
  | .laneid T u t => some (0x9#7 ++ T ++ 0x0#3 ++ u ++ t)
  | .exit n => some (0x500#14 ++ n ++ 0x0#15)
  | .exitc n => some (0x580#14 ++ n ++ 0x0#15)
  | .addE T q v u t => some (0x10#7 ++ T ++ q ++ v ++ u ++ t)
  | .subE T q v u t => some (0x11#7 ++ T ++ q ++ v ++ u ++ t)
  | .mulE T q v u t => some (0x12#7 ++ T ++ q ++ v ++ u ++ t)
  | .mulhE T q u t => some (0x13#7 ++ T ++ q ++ 0x0#2 ++ u ++ t)
  | .mad T q v u t => some (0x14#7 ++ T ++ q ++ v ++ u ++ t)
  | .andE T q u t => some (0x15#7 ++ T ++ q ++ 0x0#2 ++ u ++ t)
  | .orE T q u t => some (0x16#7 ++ T ++ q ++ 0x0#2 ++ u ++ t)
  | .xorE T q u t => some (0x17#7 ++ T ++ q ++ 0x0#2 ++ u ++ t)
  | .andnE T q u t => some (0x18#7 ++ T ++ q ++ 0x0#2 ++ u ++ t)
  | .shlE T q v u t => some (0x19#7 ++ T ++ q ++ v ++ u ++ t)
  | .shrE T q u t => some (0x1a#7 ++ T ++ q ++ 0x0#2 ++ u ++ t)
  | .shraE T q u t => some (0x1b#7 ++ T ++ q ++ 0x0#2 ++ u ++ t)
  | .minE T q u t => some (0x1c#7 ++ T ++ q ++ 0x0#2 ++ u ++ t)
  | .maxE T q u t => some (0x1d#7 ++ T ++ q ++ 0x0#2 ++ u ++ t)
  | .abs T q v u t => some (0x1e#7 ++ T ++ q ++ v ++ u ++ t)
  | .clzE T q u t => some (0x1f#7 ++ T ++ q ++ 0x0#2 ++ u ++ t)
  | .popcE T q u t => some (0x20#7 ++ T ++ q ++ 0x0#2 ++ u ++ t)
  | .cmpeq T q u t => some (0x21#7 ++ T ++ q ++ 0x0#2 ++ u ++ t)
  | .cmpne T q u t => some (0x22#7 ++ T ++ q ++ 0x0#2 ++ u ++ t)
  | .cmplt T q u t => some (0x23#7 ++ T ++ q ++ 0x0#2 ++ u ++ t)
  | .cmple T q u t => some (0x24#7 ++ T ++ q ++ 0x0#2 ++ u ++ t)
  | .sel T q u t => some (0x25#7 ++ T ++ q ++ 0x0#2 ++ u ++ t)
  | .dot4 T q v u t => some (0x26#7 ++ T ++ q ++ v ++ u ++ t)
  | .fadd T q v u t => some (0x30#7 ++ T ++ q ++ v ++ u ++ t)
  | .fsub T q v u t => some (0x31#7 ++ T ++ q ++ v ++ u ++ t)
  | .fmul T q v u t => some (0x32#7 ++ T ++ q ++ v ++ u ++ t)
  | .fma T q v u t => some (0x33#7 ++ T ++ q ++ v ++ u ++ t)
  | .fmin T q u t => some (0x34#7 ++ T ++ q ++ 0x0#2 ++ u ++ t)
  | .fmax T q u t => some (0x35#7 ++ T ++ q ++ 0x0#2 ++ u ++ t)
  | .fabs T q u t => some (0x36#7 ++ T ++ q ++ 0x0#2 ++ u ++ t)
  | .fneg T q u t => some (0x37#7 ++ T ++ q ++ 0x0#2 ++ u ++ t)
  | .fcmpeq T q u t => some (0x38#7 ++ T ++ q ++ 0x0#2 ++ u ++ t)
  | .fcmplt T q u t => some (0x39#7 ++ T ++ q ++ 0x0#2 ++ u ++ t)
  | .fcmple T q u t => some (0x3a#7 ++ T ++ q ++ 0x0#2 ++ u ++ t)
  | .frcp T q v u t => some (0x3b#7 ++ T ++ q ++ v ++ u ++ t)
  | .frsq T q v u t => some (0x3c#7 ++ T ++ q ++ v ++ u ++ t)
  | .fexp2 T q v u t => some (0x3d#7 ++ T ++ q ++ v ++ u ++ t)
  | .flog2 T q v u t => some (0x3e#7 ++ T ++ q ++ v ++ u ++ t)
  | .fclass T q u t => some (0x3f#7 ++ T ++ q ++ 0x0#2 ++ u ++ t)
  | .cvt q S D v t => some (0x46#7 ++ q ++ 0x0#5 ++ S ++ D ++ v ++ t)
  | .cvtsr q S D t => some (0x47#7 ++ q ++ 0x0#5 ++ S ++ D ++ 0x0#2 ++ t)
  | .qbfp q m S v t => some (0x48#7 ++ q ++ 0x0#1 ++ m ++ S ++ 0xc#4 ++ v ++ t)
  | .dqbfp q m D v t => some (0x49#7 ++ q ++ 0x0#1 ++ m ++ 0xc#4 ++ D ++ v ++ t)
  | .red T q v u t => some (0x4c#7 ++ T ++ q ++ v ++ u ++ t)
  | .scan T q v u t => some (0x4d#7 ++ T ++ q ++ v ++ u ++ t)
  | .shuf T q u t => some (0x4e#7 ++ T ++ q ++ 0x0#2 ++ u ++ t)
  | .bcst k T t => some (0x13c0#13 ++ k ++ T ++ 0x0#2 ++ t)
  | .rotl k T t => some (0x1400#13 ++ k ++ T ++ 0x0#2 ++ t)
  | .ldE z o p s t => some (0x52#7 ++ z ++ o ++ p ++ s ++ 0x0#1 ++ t)
  | .stE z o p s => some (0x53#7 ++ z ++ o ++ p ++ s ++ 0x0#10)
  | .amoAddE o p s t => some (0x2a0#10 ++ o ++ p ++ s ++ 0x0#1 ++ t)
  | .amoSwapE o p s t => some (0x2a1#10 ++ o ++ p ++ s ++ 0x0#1 ++ t)
  | .amoCasE o p s t => some (0x2a2#10 ++ o ++ p ++ s ++ 0x0#1 ++ t)
  | .amoMinE o p s t => some (0x2a3#10 ++ o ++ p ++ s ++ 0x0#1 ++ t)
  | .amoMaxE o p s t => some (0x2a4#10 ++ o ++ p ++ s ++ 0x0#1 ++ t)
  | .amoAndE o p s t => some (0x2a5#10 ++ o ++ p ++ s ++ 0x0#1 ++ t)
  | .amoOrE o p s t => some (0x2a6#10 ++ o ++ p ++ s ++ 0x0#1 ++ t)
  | .amoXorE o p s t => some (0x2a7#10 ++ o ++ p ++ s ++ 0x0#1 ++ t)
  | .ldt o p s t => some (0x2a8#10 ++ o ++ p ++ s ++ 0x0#1 ++ t)
  | .stt o p s => some (0x2b0#10 ++ o ++ p ++ s ++ 0x0#10)
  | .fenceE c o p s => some (0x57#7 ++ c ++ o ++ p ++ s ++ 0x0#10)
  | .tfill p k => some (0x5a#7 ++ p ++ k ++ 0x0#18)
  | .tout p k => some (0x5b#7 ++ p ++ k ++ 0x0#18)
  | .tclr k => some (0x1700#13 ++ k ++ 0x0#15)
  | .bitx q s u t => some (0x620#11 ++ q ++ 0x0#1 ++ s ++ u ++ t)
  | .spadd P q v u t => some (0x63#7 ++ P ++ 0x0#1 ++ q ++ v ++ u ++ t)
  | .topkIns q u t => some (0x640#11 ++ q ++ 0x0#2 ++ u ++ t)
  | .topkDrn q u t => some (0x650#11 ++ q ++ 0x0#2 ++ u ++ t)
  | .cumt q u t => some (0x660#11 ++ q ++ 0x0#2 ++ u ++ t)
  | .rng T q u t => some (0x67#7 ++ T ++ q ++ 0x0#2 ++ u ++ t)
  | .resid q u t => some (0x68a#11 ++ q ++ 0x0#2 ++ u ++ t)
  | .seam B K X F => some (0x6b#7 ++ B ++ K ++ 0x28#7 ++ X ++ 0x28#6 ++ F)
  | .hold q => some (0x6c0#11 ++ q ++ 0x0#20)
  | .phase u t => some (0x3680#14 ++ u ++ t)
  | .mma _ => none
  | .mmas _ => none
  | .tadd _ => none
  | .tscl _ => none
  | .tcvt _ => none
  | .ttrn _ => none
  | .mtuReleasePoint _ => none
  | .mtuResult _ => none
  | .asyncDelivery _ => none
  | .hostLaunch => none
  | .place _ => none
  | .recordAged _ _ _ => none
  | .leaveGrant => none
  | .arm _ => none
  | .threadStart _ => none
  | .taskStart _ _ => none
  | .firingStart _ => none
  | .planeDrain _ => none
  | .cutTake _ => none
  | .portHeadToken _ _ => none
  | .tokenHop _ => none
  | .creditReturn _ _ => none
  | .rateWindow _ => none
  | .planeSwitch _ => none
  | .seqSwitch _ => none
  | .spliceFeSwitch _ => none
  | .rotStep _ _ => none
  | .slotFaultNotice _ _ => none
  | .seamPkToken _ _ => none
  | .memportIssue _ => none
  | .accessPerform _ => none
  | .waitsForChase _ => none
  | .sporeTimeout _ _ _ => none
  | .l2Fill _ _ => none
  | .pageWalk _ _ _ => none
  | .peerDown _ => none
  | .cxlPortLost _ => none
  | .streamBindingStart _ => none
  | .streamDeliver _ _ _ => none
  | .streamTake _ _ => none
  | .engineComplete _ _ _ => none
  | .waitqWake _ => none
  | .waitqTimeout _ => none
  | .guardTileIssue _ _ => none
  | .gangAllReady _ => none
  | .gangStart _ => none
  | .gangAbandon _ => none
  | .cutComplete _ => none
  | .preemptSave _ => none
  | .preemptEscalate _ => none
  | .frqPost _ => none
  | .uncorrectedError _ _ _ => none
  | .retire _ => none
  | .scrubComplete _ => none
  | .deviceFreeze => none
  | .deviceResume => none
  | .stepTimeout => none
  | .debugCutWithdraw => none
  | .triggerApply => none
  | .capturePacketHead _ _ => none
  | .frqReplay _ _ => none
  | .frqAbort _ _ => none
  | .frqfatalClear _ _ => none
  | .dbgstatClear _ => none
  | .breakpointWrite _ _ => none
  | .registerWrite _ _ => none
  | .withdraw => none
  | .kill => none
  | .preempt => none
  | .asidroot => none
  | .ctxarea => none
  | .parklim => none
  | .tracering => none
  | .triggerStart => none
  | .triggerStop => none
  | .triggerFreeze => none
  | .triggerResume => none
  | .tracepkt => none
  | .debugAttach => none
  | .debugDetach => none
  | .debugStep => none
  | .debugCut => none
  | .auditmir => none
  | .auditsign => none
  | .summary => none
  | .linkcfg => none
  | .enrol => none
  | .enrolRemove => none
  | .mrext => none
  | .sfill => none
  | .sfail => none
  | .hcqUnknownOp => none
  | .auditAppend _ _ _ _ => none
  | .boot _ => none
  | .linkTimeout _ => none
  | .idleFlit _ => none
  | .flitRetry _ => none
  | .ideIntegrityFail _ _ => none
  | .ideKm _ _ _ => none
  | .getVersion _ => none
  | .getCapabilities _ => none
  | .negotiateAlgorithms _ _ => none
  | .getDigests _ => none
  | .getCertificate _ _ => none
  | .challenge _ _ _ => none
  | .getMeasurements _ _ => none
  | .keyExchange _ _ _ => none
  | .finish _ _ => none
  | .pwrstatUpdate _ _ => none
  | .powerLevelChange _ => none
  | .thermalPowerdown => none
  | .illegal _ => none
  | .fetchFault _ _ => none
  | .frqconsWrite _ _ => none
  | .bar2Access _ _ _ => none
  | .zilostLinkMessage _ _ => none
  | .zilostPortUp _ _ _ => none
  | .backOffRetry _ => none

/-- An MTU record of operation `op` (04 Table 4-11). -/
def encodeFields (op : BitVec 6) (f : MtuFields) : BitVec 64 :=
  op ++ 0#2 ++ f.cuse ++ f.bcol ++ f.mw ++ f.nsp ++ f.sr ++ f.rm ++ f.td ++ f.tc ++ f.tb ++ f.ta ++ f.kc ++ f.kb ++
    f.ka ++ f.sc ++ f.sb ++ f.sa ++ f.dst

/-- The record of an MTU operation (04 Table 4-12); other instructions have none. -/
def encodeRecord : Instr → Option (BitVec 64)
  | .mma f => some (encodeFields 1 f)
  | .mmas f => some (encodeFields 2 f)
  | .tadd f => some (encodeFields 3 f)
  | .tscl f => some (encodeFields 4 f)
  | .tcvt f => some (encodeFields 5 f)
  | .ttrn f => some (encodeFields 6 f)
  | _ => none

/-- The bytes of an encoded instruction, lowest address first (00 R6). -/
def encode (i : Instr) : List Byte :=
  match encodeWord i, encodeRecord i with
  | some w, _ => leBytes 4 w.toNat
  | none, some w => leBytes 8 w.toNat
  | none, none => []

/-- The instruction of the first `nbits` bits of `w`, the bits above being zero: a record when there are 64, otherwise
a control word, or an element word where the word is no control word (log entry 5). -/
def decodeTableWord (nbits w : Nat) : Option Instr :=
  let bs := leBytes 8 (w % 2 ^ nbits)
  if nbits > 32 then
    match decodeBytes .record bs with
    | .ok (i, _) => some i
    | .error _ => none
  else
    match decodeBytes .control (bs.take 4) with
    | .ok (i, _) => some i
    | .error _ =>
      match decodeBytes .element (bs.take 4) with
      | .ok (i, _) => some i
      | .error _ => none

end Sys2Proof
end

