-- ==== Sys2Proof/Machine/Maps.lean ====
section
/-! DEFINITION. Finite maps as lists of pairs, and byte memory as a list of cells in one canonical form. -/

namespace Sys2Proof.Machine

/-- A finite map: pairs of key and value, the first pair of a key counts. -/
abbrev FMap (κ ν : Type) := List (κ × ν)

/-- The value of key `k`, or none. -/
def mapFind {κ ν : Type} [DecidableEq κ] (m : FMap κ ν) (k : κ) : Option ν :=
  match m with
  | [] => none
  | (k', v) :: m' => if k' = k then some v else mapFind m' k

/-- The value of key `k`, or the default of an unlisted unit. -/
def mapGet {κ ν : Type} [DecidableEq κ] (d : ν) (m : FMap κ ν) (k : κ) : ν := (mapFind m k).getD d

/-- Replace the value of key `k`, or list it last. -/
def mapSet {κ ν : Type} [DecidableEq κ] (m : FMap κ ν) (k : κ) (v : ν) : FMap κ ν :=
  match m with
  | [] => [(k, v)]
  | (k', v') :: m' => if k' = k then (k', v) :: m' else (k', v') :: mapSet m' k v

/-- Take key `k` out of the map. -/
def mapErase {κ ν : Type} [DecidableEq κ] (m : FMap κ ν) (k : κ) : FMap κ ν :=
  m.filter fun p => decide (p.1 ≠ k)

/-- Byte memory: the listed cells, addresses strictly rising, none equal to what an unlisted address reads as. -/
abbrev Memory := List Host.Cell

/-- What an unlisted address reads as (log entry 4). -/
def unlistedByte : Byte := 0

/-- Read one byte. -/
def Memory.read (m : Memory) (a : Nat) : Byte :=
  match m with
  | [] => unlistedByte
  | (k, v) :: m' => if k = a then v else Memory.read m' a

/-- Put one byte in its place, unless it is what an unlisted address reads as. -/
def Memory.write (m : Memory) (a : Nat) (b : Byte) : Memory :=
  match m with
  | [] => if b = unlistedByte then [] else [(a, b)]
  | (k, v) :: m' =>
    if k < a then (k, v) :: Memory.write m' a b
    else if k = a then (if b = unlistedByte then m' else (a, b) :: m')
    else if b = unlistedByte then (k, v) :: m' else (a, b) :: (k, v) :: m'

/-- Every address of the list is above `lo`, addresses rise strictly, no entry is the unlisted byte. -/
def Memory.wfFrom (lo : Option Nat) : Memory → Bool
  | [] => true
  | (k, v) :: m => (match lo with | none => true | some l => decide (l < k)) && decide (v ≠ unlistedByte) &&
      Memory.wfFrom (some k) m

/-- The canonical form of memory. -/
def Memory.wf (m : Memory) : Bool := Memory.wfFrom none m

/-- Read `n` bytes from `a` upward. -/
def Memory.readBytes (m : Memory) (a : Nat) : Nat → List Byte
  | 0 => []
  | n + 1 => m.read a :: Memory.readBytes m (a + 1) n

/-- Write a list of bytes from `a` upward. -/
def Memory.writeBytes (m : Memory) (a : Nat) : List Byte → Memory
  | [] => m
  | b :: bs => Memory.writeBytes (m.write a b) (a + 1) bs

end Sys2Proof.Machine
end

