-- ==== Sys2Proof/Machine/State.lean ====
section
/-! DEFINITION. The state of the device as plain data, and the state after device reset. Each field names the rule
that gives it; a field marked (model) is the model's own. Units with no record listed read as the default record. -/

namespace Sys2Proof.Machine

/-- Why the machine stops. No instruction of the table needs one: the manual gives every one an effect or a trap. -/
inductive Fault where
  /-- Raised by no meaning: kept for an access outside the 55-bit physical space, which no walk can form (12 R263).
  Safe: the machine would stop. -/
  | beyondPhysicalSpace
  deriving DecidableEq, Repr, Inhabited

/-- Why a step has no meaning. -/
inductive Refusal where
  /-- Raised by an arm of exec whose instruction has no meaning yet. Safe: the machine stops. -/
  | notModelled (mnemonic : String)
  deriving DecidableEq, Repr, Inhabited

/-- The eight words of a trap or fault record (09 R179, 18 R359-R361). -/
abbrev Rec8 := Vector Word 8

/-- A token with its sideband (05 R115) and the two loop bits (11 R229). -/
structure Token where
  data : Line := 0
  kind : BitVec 3 := 0
  tag : BitVec 8 := 0
  ord : BitVec 32 := 0
  sf : Bool := false
  sh : Bool := false
  /-- Emitted after an EOS on its port (10 R213). -/
  late : Bool := false
  /-- A port delivers it in place of one that did not come: it takes no place of its edge (02 R58). -/
  made : Bool := false
  /-- Emitted by a spliced successor, beside whose plane a predecessor's still runs: its arming number on the die (06 R138). -/
  next : Option Nat := none
  deriving DecidableEq, Repr, Inhabited

/-- What a leaf of a walk says (12 Table 12-3). -/
structure Leaf where
  pa : Nat := 0
  r : Bool := false
  w : Bool := false
  x : Bool := false
  t : Bool := false
  p : Bool := false
  nc : Bool := false
  peer : Nat := 0
  deriving DecidableEq, Repr, Inhabited

/-- Where an access goes: physical memory through a leaf, or the scratch of an FE (12 Table 12-1). -/
inductive Target where
  | glob (pa : Nat) (leaf : Leaf) (va : Nat)
  | scratch (f : FeId) (off : Nat)
  deriving DecidableEq, Repr, Inhabited

/-! ### Threads -/

/-- Thread states of 09 Table 9-1. PAUSED is a mark beside the state held before, and FROZEN holds of every thread
while the device is frozen. -/
inductive TStatus where
  | free | ready | stalled | saved
  deriving DecidableEq, Repr, Inhabited

/-- What a thread runs (09 R174, 08 R169, 15 R321, 18 R375). -/
inductive Role where
  | none
  | control (r : ResId)
  /-- A spawned task, with its residency unless an evaluator spawned it (08 R169, 15 R321). -/
  | task (r : Option ResId) (done : Word)
  | evaluator (cell : Nat) (va : Word)
  | urgent (r : ResId)
  deriving DecidableEq, Repr, Inhabited

/-- A record on its way to a thread (09 R182), whether it froze the pitch (18 R362), and the cycle it arrived in (19 R386). -/
structure Delivery where
  words : Rec8 := .replicate 8 0
  freezes : Bool := false
  at_ : Nat := 0
  deriving DecidableEq, Repr, Inhabited

/-- A store that has retired and has yet to perform (13 R289, R440). -/
structure Buffered where
  target : Target
  len : Nat
  data : Word
  va : Word
  pc : Word
  word : BitVec 32
  /-- The thread has made a `FENCE` with ST in its predecessor set since: its own fetch sees the bytes (09 R178). -/
  fenced : Bool := false
  deriving DecidableEq, Repr, Inhabited

/-- The commands of the three engines (04 Table 4-6). -/
inductive EngOp where
  | spat | strmIn | strmOut | strmMc | strmResume | strmStop | tfetch | trel | copy | pref | disc
  deriving DecidableEq, Repr, Inhabited

/-- A command as queued: its register operands were read when it was queued (13 R272), and the thread's ASID, residency
and evaluated cell stood then (13 R273). -/
structure EngineCmd where
  op : EngOp
  word : BitVec 32
  va : Word
  vb : Word
  vq : Word
  pat : BitVec 4
  push : BitVec 3
  seq : Nat
  asid : BitVec 16
  res : Option ResId
  /-- Since when an access of it is refused for want of a waiter entry (15 R326). -/
  since : Option Nat := none
  /-- A TFETCH has reserved its slot (14 Table 14-1). -/
  reserved : Bool := false
  cell : Option Nat := none
  /-- The bindings a STRM.STOP waits for (13 R283). -/
  stops : List Nat := []
  /-- Complete but for its push (09 R183). -/
  done : Bool := false
  /-- The thread's start count as the command was queued: which task queued it (15 R322). -/
  start : Nat := 0
  /-- Of a COPY, or a TFETCH behind its header (piece 0): pieces still to read once it has begun, pieces still to store once it
has read all, and each piece read with whether its line is poisoned (13 R284, R286). -/
  reads : Option (List Nat) := none
  writes : Option (List Nat) := none
  got : FMap Nat (List Byte × Bool) := []
  /-- Lines that a COPY in flight writes, or that a TFETCH has pinned (12 R267). -/
  lines : List Nat := []
  deriving DecidableEq, Repr, Inhabited

/-- The queues of one engine for one thread: commands not started, and commands started that have not completed. -/
structure EngineQueue where
  waiting : List EngineCmd := []
  running : List EngineCmd := []
  deriving DecidableEq, Repr, Inhabited

/-- What a `BAR` waits for, noted as it issues (09 R185): binding commands; EOS tokens of input bindings, those in ports then
and those that the noted bindings deliver, each as an FE, a port numbered on from plane 0's, and how many EOS tokens the port's
actor must have consumed; accesses of FE ports. -/
structure BarWait where
  cmds : List (ThreadId × Nat) := []
  eos : List (FeId × Nat × Nat) := []
  ops : List (FeId × Nat) := []
  deriving DecidableEq, Repr, Inhabited

/-- A column-core thread (09 R175). -/
structure Thread where
  status : TStatus := .free
  /-- PAUSED: since when an urgent residency runs on the thread's page. -/
  paused : Option Nat := none
  role : Role := .none
  pc : Word := 0
  g : Vector Word 32 := .replicate 32 0
  asid : BitVec 16 := 0
  tvec : Word := 0
  tpc : Word := 0
  intrap : Bool := false
  trec : Rec8 := .replicate 8 0
  /-- Did the delivery being handled freeze the pitch (18 R363)? -/
  handlingFreeze : Bool := false
  /-- Deliveries held or queued, oldest first (09 R182). -/
  held : List Delivery := []
  fifo : Vector Nat 12 := .replicate 12 0
  /-- Tokens given back to a full FIFO, per FIFO (09 R182). -/
  returned : Vector Nat 12 := .replicate 12 0
  pat : Vector Line 16 := .replicate 16 0
  se : EngineQueue := {}
  tf : EngineQueue := {}
  ce : EngineQueue := {}
  /-- Number of the next command the thread queues (model): names commands that are running. -/
  cmdSeq : Nat := 0
  sbuf : List Buffered := []
  /-- The instruction at pc has taken its pop (09 R183). -/
  popTaken : Option Nat := none
  /-- The instruction before pc still owes its push (09 R182, R183). -/
  pushOwed : Option Nat := none
  /-- The record of the trap that ends the thread once its buffered stores have performed (09 R179, R180). -/
  ending : Option Rec8 := none
  /-- A waiting instruction's own progress mark: CYC when WAITQ began, or a stage of a form that waits. -/
  waitFrom : Option Nat := none
  stage : Nat := 0
  bar : Option BarWait := none
  /-- Chases that parks of this task grower and its engine commands owe: who parked, on which line (15 R325). -/
  chases : List (Requester × Nat) := []
  /-- Words the thread has fetched and may execute again without a new fetch (09 R178). -/
  fetched : FMap Nat (BitVec 32) := []
  /-- The steps in which the thread started, last made a `FENCE` with ST in its predecessor set, and last acquired: what
its fetch must see (09 R178). -/
  born : Nat := 0
  fencedAt : Nat := 0
  acquiredAt : Nat := 0
  /-- The record that a waiting `LAUNCH`, `SPLICE`, `GSL` or `SPAWN` has copied, with the core a `SPAWN` has found behind it
(06 R142; 07 R156; 08 R170). -/
  copied : Option (List Byte) := none
  startSeq : Nat := 0
  /-- The word being executed, for TREC0 (09 Table 9-4; model). -/
  word : BitVec 32 := 0
  deriving DecidableEq, Repr, Inhabited

/-! ### Fabric elements -/

/-- An input port: FIFO, resident register with its count (0 stands for UNTIL_END), places freed whose credit has not
gone back (10 R208, 08 R165). -/
structure InPort where
  fifo : List Token := []
  resident : Option (Token × Nat) := none
  owed : Nat := 0
  /-- The head token has acted on the port already (10 R209, R210). -/
  headSeen : Bool := false
  /-- EOS tokens that streams have delivered here, and EOS tokens the port's actor has consumed (09 R185). -/
  eosIn : Nat := 0
  eosOut : Nat := 0
  /-- Stream tokens admitted here in the rate limiter's window (06 R137). -/
  admitted : Nat := 0
  /-- Of a port that a tile edge enters, within a packet: payload tokens still to come, and whether the packet is mismatched
  (02 R57, R58). -/
  frame : Option (Nat × Bool) := none
  deriving DecidableEq, Repr, Inhabited

/-- An output port: emitted tokens not yet taken, free-space counter, ordinal of the next token (05 R115, 08 R165). -/
structure OutPort where
  reg : List Token := []
  free : Nat := 0
  count : BitVec 32 := 0
  /-- An EOS has been emitted here since the plane became active (10 R213). -/
  eos : Bool := false
  deriving DecidableEq, Repr, Inhabited

/-- An element block: header word and slots (04 R92). -/
structure Block where
  header : BitVec 32 := 0
  words : List (BitVec 32) := []
  deriving DecidableEq, Repr, Inhabited

/-- One plane of an FE (05 R109). -/
structure Plane where
  blocks : Vector (Option Block) 8 := .replicate 8 none
  recs : Vector (BitVec 64) 8 := .replicate 8 0
  e : Vector Line 32 := .replicate 32 0
  rounding : Nat := 0
  sel : Nat := 0
  drained : Bool := false
  fired : Bool := false
  genKey : BitVec 32 := 0
  genCtr : BitVec 32 := 0
  lastMtu : Nat := 7
  inp : Vector InPort 8 := .replicate 8 {}
  outp : Vector OutPort 8 := .replicate 8 {}
  deriving DecidableEq, Repr, Inhabited

/-- An operand class of a slot: .a, .b, .c, .q (03 Table 3-4). -/
inductive Opnd where
  | a | b | c | q
  deriving DecidableEq, Repr, Inhabited

/-- What stands at an operand: a value, never (its producer was skipped or delivers nothing), or not yet. -/
inductive Arrived where
  | value (v : Line)
  | never
  | pending
  deriving DecidableEq, Repr, Inhabited

/-- Why a block fires (10 R199-R201, R231). -/
inductive FireKind where
  | normal | drain | cut
  deriving DecidableEq, Repr, Inhabited

/-- A PIN of this firing: the port, the kind it read, and the token it consumed from the head, if it did. -/
structure PinRead where
  port : Nat
  kind : BitVec 3
  fresh : Option Token
  deriving DecidableEq, Repr, Inhabited

/-- What a slot's result goes to beside later slots: a target of class 101-111, or a port as a token of a kind (POUT). -/
inductive Sink where
  | tgt (t : BitVec 9)
  | kind (port : Nat) (k : BitVec 3)
  deriving DecidableEq, Repr, Inhabited

/-- A result that waits for an earlier slot's: slot order decides what leaves a port and what a register holds (10 R204).
The slot's own load has not delivered while the value is none. -/
structure Late where
  slot : Nat
  sink : Sink
  value : Option Line
  deriving DecidableEq, Repr, Inhabited

/-- A firing in progress (10 R202-R205). -/
structure Firing where
  plane : Nat
  block : Nat
  slot : Nat := 0
  kind : FireKind := .normal
  dels : FMap (Nat × Opnd) Arrived := []
  selp : Option (BitVec 3) := none
  pins : List PinRead := []
  keeps : List Nat := []
  releases : List Nat := []
  /-- TAG of the first loop token read (11 R228). -/
  tag : Option (BitVec 8) := none
  sf : Bool := false
  sh : Bool := false
  /-- Ports on which this firing emitted EOS (10 R200). -/
  eosOut : List Nat := []
  /-- Ports on which this firing has emitted tokens, one entry a token (11 R228, R229). -/
  emitted : List Nat := []
  late : List Late := []
  /-- Memory instructions of this firing that have issued: the place reached in the chain (13 R293). -/
  issued : Nat := 0
  ordinal : Nat := 0
  /-- A TFILL or TOUT half done: the header, whether the packet is VOID and counted, payload taken or still to emit, tokens
  still to take (14 R312). -/
  filling : Option (Line × Bool × List Line × Nat) := none
  /-- How far SPADD has come in the current slot: 0 not begun, 1 passing over an old list, 2 merging (16 R334). -/
  spadding : Nat := 0
  deriving DecidableEq, Repr, Inhabited

/-- What a memory instruction of a firing asks for (13 R295, 14 R314). -/
inductive MemKind where
  | null
  | load (sz : BitVec 3)
  | store (sz : BitVec 3) (b : Line)
  | amo (op : BitVec 3) (b c : Line)
  | fence (scope : BitVec 3)
  | ldt (lane2 : BitVec 32)
  | stt (lane2 : BitVec 32) (x : Word)
  deriving DecidableEq, Repr, Inhabited

/-- How far a memory instruction has come (13 R293). -/
inductive MemStage where
  | reached | issued | held | parked
  deriving DecidableEq, Repr, Inhabited

/-- A memory instruction at an FE's port (13 R293). -/
structure MemOp where
  /-- Names the operation among those of its FE (model). -/
  id : Nat
  plane : Nat
  block : Nat
  slot : Nat
  ordinal : Nat
  own : Nat
  pred : Nat
  succ : Nat
  kind : MemKind
  addr : Word := 0
  tgt : BitVec 9 := 0
  stage : MemStage := .reached
  since : Option Nat := none
  post : Option Nat := none
  /-- An LDT that has reserved its tile slot (14 R314). -/
  reserved : Bool := false
  deriving DecidableEq, Repr, Inhabited

/-- Tags and holds of a tile slot (14 Table 14-1). -/
inductive TileTag where
  | empty | reserved | full
  deriving DecidableEq, Repr, Inhabited
inductive Hold where
  | none
  | count (n : Nat)
  | untilEnd
  deriving DecidableEq, Repr, Inhabited

/-- A tile: header token and payload tokens (02 R54, R55). -/
structure Tile where
  header : Line := 0
  payload : List Line := []
  deriving DecidableEq, Repr, Inhabited

structure TileSlot where
  tag : TileTag := .empty
  hold : Hold := .none
  hport : Option Nat := none
  /-- The port of the TFILL that filled the slot (14 R298). -/
  filledBy : Option Nat := none
  pins : List Nat := []
  tile : Tile := {}
  deriving DecidableEq, Repr, Inhabited

/-- An MTU operation in progress (14 R303, R304): its record, its destination slot, the slots it reads with their sticky counts;
from its release point on its result (14 R305). -/
structure MtuOp where
  plane : Nat
  entry : Nat
  dst : Nat
  reads : List (Nat × Nat)
  op : Nat
  fields : MtuFields
  /-- Butterfly stages of its TCVT (02 R50). -/
  stages : Nat := 0
  start : Nat
  busy : Nat
  /-- GENKEY and GENCTR before the draws that a TCVT takes in its start cycle (16 R340). -/
  genKey : BitVec 32 := 0
  genCtr : BitVec 32 := 0
  result : Tile := {}
  mismatch : Bool := false
  malformed : Nat := 0
  deriving DecidableEq, Repr, Inhabited

/-- A ranked candidate (16 R335). -/
structure Cand where
  v : BitVec 32
  idx : BitVec 32
  deriving DecidableEq, Repr, Inhabited

/-- List state of SPADD (16 R334). -/
inductive ListState where
  | start | opened | ended
  deriving DecidableEq, Repr, Inhabited

/-- The sampling unit (16 R331). -/
structure Sampling where
  pr : Option Line := none
  prj : Nat := 0
  lstate : ListState := .start
  lastBase : Nat := 0
  cells : List Cand := []
  buf : List Cand := []
  deriving DecidableEq, Repr, Inhabited

/-- A line held by a fabric-cache bank (12 R257): the line's virtual address, physical address, bytes, and the mask of
dirty bytes. -/
structure BankLine where
  va : Nat
  pa : Nat
  data : Line
  dirty : BitVec 64
  poison : Bool := false
  /-- The peer the line is homed on, if it is (12 R257, R263). -/
  peer : Option Nat := none
  /-- Agents whose stores it holds and has not written back (17 R349), and the step of the latest. -/
  writers : List Requester := []
  since : Nat := 0
  deriving DecidableEq, Repr, Inhabited

/-- A bank binding and its lines (05 R123). -/
structure Bank where
  n : Nat
  base : Nat
  len : Nat
  lines : FMap Nat BankLine := []
  deriving DecidableEq, Repr, Inhabited

/-- The registers an FE of a SNAP residency copies at a cut (18 R368), and the marks of its plane then (10 R199, R200). -/
structure Shadow where
  e : Vector Line 32 := .replicate 32 0
  sel : Nat := 0
  genKey : BitVec 32 := 0
  genCtr : BitVec 32 := 0
  drained : Bool := false
  fired : Bool := false
  deriving DecidableEq, Repr, Inhabited

/-- A fabric element (00 R10, 05 R109). -/
structure Fe where
  planes : Vector Plane 6 := .replicate 6 {}
  active : Nat := 0
  /-- The plane held beneath plane 5 (18 R375). -/
  beneath : Option Nat := none
  ordinal : Nat := 0
  /-- The firing ordinal of the residency that plane 5 has paused (05 R127; 18 R375). -/
  ordinalBelow : Nat := 0
  firing : Option Firing := none
  /-- The firing of a lower plane that plane 5 interrupted (18 R375). -/
  firingBelow : Option Firing := none
  port : List MemOp := []
  /-- Number of the next memory operation (model). -/
  nextOp : Nat := 0
  tiles : Vector TileSlot 16 := .replicate 16 {}
  hasTiles : Bool := false
  /-- The operation that keeps the MTU busy, and operations past their release point whose result is due. -/
  mtu : Option MtuOp := none
  mtuOut : List MtuOp := []
  samp : Sampling := {}
  voidPackets : BitVec 32 := 0
  malformed : BitVec 32 := 0
  pairOrder : BitVec 32 := 0
  slotFaults : BitVec 32 := 0
  scratch : Nat := 0
  bank : Option Bank := none
  delay : Nat := 0
  /-- Cut taken by this FE and not yet complete: number, and whether it is a debug cut (10 R201, 19 R388). -/
  cutTaken : Option (BitVec 32 × Bool) := none
  pendingShadow : Option Shadow := none
  cutShadow : Shadow := {}
  /-- Splice: the FE has switched to the successor (06 R138). -/
  switched : Bool := false
  deriving DecidableEq, Repr, Inhabited

/-- A bit island's tables and flip-flops in one plane (05 R120, R121). -/
structure Island where
  latency : Nat := 0
  luts : Vector (BitVec 64) 64 := .replicate 64 0
  ff : BitVec 64 := 0
  deriving DecidableEq, Repr, Inhabited

/-! ### Residencies -/

/-- Pitch states of 05 Table 5-9 (FREE is the absence of a residency). -/
inductive PitchState where
  | loading | loaded | armed | retiring
  deriving DecidableEq, Repr, Inhabited

/-- The kinds of stream binding (13 R279-R282). -/
inductive BindKind where
  | input | output | multicast
  deriving DecidableEq, Repr, Inhabited

/-- The end of a binding that feeds or drains the fabric (13 Table 13-4). -/
inductive BindEnd where
  | port (f : FeId) (port : Nat)
  | slot (rot phase : Nat)
  deriving DecidableEq, Repr, Inhabited

/-- A token in the spill queue (12 R268): its counters, its cause (PAGE or a cell), whether a page spill may be read again,
since when it is refused a waiter entry. -/
structure Spill where
  ctr : Vector Nat 4
  isPage : Bool
  retry : Bool := false
  since : Option Nat := none
  deriving DecidableEq, Repr, Inhabited

/-- A store an output binding has taken and not performed (13 R280). -/
structure BindStore where
  va : Nat
  target : Target
  data : List Byte
  deriving DecidableEq, Repr, Inhabited

/-- A token an input binding has read and not delivered: the counters of its first element, and whether it holds elements
of a poisoned line (13 R279). -/
structure ReadTok where
  tok : Token
  ctr : Vector Nat 4
  void : Bool := false
  deriving DecidableEq, Repr, Inhabited

/-- A stream binding (13 R278-R283). -/
structure Binding where
  kind : BindKind
  dest : BindEnd
  /-- The listed input ports of a multicast (13 R281). -/
  list : List (FeId × Nat) := []
  pat : Line
  owner : ThreadId
  cmd : EngineCmd
  /-- Counters of the next element to read or store. -/
  ctr : Vector Nat 4
  /-- Every element has been read or stored. -/
  exhausted : Bool := false
  buf : List ReadTok := []
  /-- Elements read ahead of their tokens, by the place of the token's first element and their place in the token: bytes, and whether
the line was poisoned (13 R279; 17 R347). -/
  early : FMap (Nat × Nat) (List Byte × Bool) := []
  /-- The END that waits until the spill queue holds no element of its run (12 R268). -/
  endDue : Option Nat := none
  eosDone : Bool := false
  spill : List Spill := []
  stores : List BindStore := []
  /-- How many of them, the oldest, a cut in progress waits for (18 R368). -/
  cutStores : Nat := 0
  /-- Stopping by STRM.STOP, or discarding to the next EOS after it (13 R283). -/
  stopping : Bool := false
  discarding : Bool := false
  paused : Bool := false
  /-- A MARK to insert at the next boundary: cut number, debug mark (18 R368, 19 R388). -/
  markDue : Option (BitVec 32 × Bool) := none
  /-- Stopped at a boundary for a pre-emption (18 R371). -/
  atBoundary : Bool := false
  deriving DecidableEq, Repr, Inhabited

/-- Slot status (11 Table 11-2). -/
inductive SlotStatus where
  | empty | live | held | faulted | absent
  deriving DecidableEq, Repr, Inhabited

/-- A slot-fault notice (11 R240). -/
structure Notice where
  phase : Nat
  code : Code
  fe : Nat
  block : Nat
  slot : Nat
  ordinal : Nat
  deriving DecidableEq, Repr, Inhabited

/-- A slot of a rotation (11 Table 11-1). -/
structure Slot where
  status : SlotStatus := .empty
  inflight : Bool := false
  stream : BitVec 32 := 0
  chunks : BitVec 32 := 0
  comp : BitVec 32 := 0
  fcode : BitVec 16 := 0
  park : List Line := []
  /-- Queued tokens, with their counters when a slot binding delivered them (11 R241). -/
  queue : List (Line × Option (Vector Nat 4)) := []
  /-- Counters of the chunk in flight, or of the chunk that faulted, when a slot binding delivered it (11 R241, R247). -/
  chunkCtr : Option (Vector Nat 4) := none
  /-- How many tokens of that chunk a slot binding delivered. -/
  chunkLen : Nat := 0
  /-- Counters kept after the last binding ended (25 R432). -/
  ctr : Vector Nat 4 := .replicate 4 0
  notice : Option Notice := none
  deriving DecidableEq, Repr, Inhabited

/-- A save revolution in progress (11 R251): who saves, image address, first phase once a step has begun it, steps done,
slot-fault records to deliver when it retires. -/
structure Saving where
  who : ThreadId
  image : Word
  p0 : Option Nat := none
  done : Nat := 0
  /-- Records written that are not EMPTY. -/
  live : Nat := 0
  recs : List Rec8 := []
  deriving DecidableEq, Repr, Inhabited

/-- A declared rotation (05 Table 5-7, 11 R225, R226, R233). -/
structure Rotation where
  num : Nat
  plane : Nat
  seam : FeId
  block : Nat
  depth : Nat
  width : Nat
  k : Bool
  chunk : Nat
  latency : Nat := 0
  back : Nat := 0
  fwd : Nat := 0
  pk : Nat := 0
  px : Nat := 0
  loopEdges : List Nat := []
  loopFes : List FeId := []
  p : Nat := 0
  slots : List Slot := []
  saving : Option Saving := none
  /-- Notices on their way to the seam (11 R240). -/
  notices : List Notice := []
  deriving DecidableEq, Repr, Inhabited

/-- An edge (05 Table 5-5) and what travels on it: the page network's tokens and the credits on the way back. -/
structure Edge where
  id : Nat
  /-- Its name in the residency: its ID, and which of the residency's images declares it (06 R141; model). -/
  key : Nat := id
  plane : Nat
  src : FeId
  srcp : Nat
  dst : FeId
  dstp : Nat
  net : Bool
  pdecl : BitVec 32
  cdecl : BitVec 32
  capacity : Nat := 0
  netq : List Token := []
  /-- Credits that have come back on this edge and not yet on every other edge of its output port (08 R165). -/
  credits : Nat := 0
  deriving DecidableEq, Repr, Inhabited

/-- A plane switch under way (06 R141). -/
structure Switch where
  target : Nat
  /-- The ring entry the switch goes to, when the sequencer makes it. -/
  ring : Option Nat := none
  /-- The thread whose CFG.SWAP or CFG.SEQ waits for it. -/
  asker : Option ThreadId := none
  /-- When its wait began, and when its four cycles began (06 R141, 19 R392). -/
  since : Nat := 0
  ready : Option Nat := none
  deriving DecidableEq, Repr, Inhabited

/-- A marker cut in progress (18 R368, 19 R388). -/
structure Cut where
  num : BitVec 32
  debug : Bool
  since : Nat
  /-- Bindings that have yet to insert or consume the MARK. -/
  outPending : List Nat
  inPending : List Nat
  /-- Bindings that have, at the counters they recorded. -/
  made : List (Nat × Binding) := []
  limit : Nat := 0
  deriving DecidableEq, Repr, Inhabited

/-- The part of an image a load accepts, staged or live (06 R141). -/
structure Staged where
  planes : List Nat := []
  power : Nat := 0
  feBlocks : List (FeId × Nat × Plane) := []
  routes : List ((Nat × Nat × Nat × Nat) × Line) := []
  islands : List ((Nat × Nat × Nat × Nat) × Island) := []
  edges : List Edge := []
  rots : List Rotation := []
  banks : List (FeId × Bank) := []
  /-- Has each FE tile slots, and how many bytes of delay buffer (05 R124)? -/
  local_ : List (FeId × Bool × Nat) := []
  footprint : List (Nat × Nat) := []
  start : Nat := 0
  maxouter : Nat := 0
  entry : Nat := 0
  ctlBase : Nat := 0
  deriving DecidableEq, Repr, Inhabited

/-- A phase record (19 Table 19-3). -/
structure PhaseRec where
  seq : Nat
  plane : Nat
  endKind : Nat
  load : Nat
  fill : Nat
  steady : Nat
  drain : Nat
  endcyc : Nat
  deriving DecidableEq, Repr, Inhabited

/-- The phase being counted (19 R392): when its wait began, when firing was enabled, E and Z. -/
structure PhaseNow where
  seq : Nat := 0
  begun : Nat := 0
  enabled : Nat := 0
  e : Option Nat := none
  z : Option Nat := none
  deriving DecidableEq, Repr, Inhabited

/-- Gang slice states (06 Table 6-3). -/
inductive GangState where
  | none | placing | ready | waiting | running
  deriving DecidableEq, Repr, Inhabited

/-- Who runs as a guard's residency (07 R145). -/
inductive GuardRole where
  | none
  | surrogate (entry tile : Nat)
  | checker (entry tile : Nat)
  | exact (entry tile : Nat)
  deriving DecidableEq, Repr, Inhabited

/-- A residency (01 R27). -/
structure Residency where
  state : PitchState := .loading
  record : Line := 0
  asid : BitVec 16 := 0
  band0 : Nat := 0
  group0 : Nat := 0
  h : Nat := 1
  w : Nat := 1
  prio : Nat := 2
  snap : Bool := false
  urgent : Bool := false
  guard : GuardRole := .none
  power : Nat := 0
  start : Nat := 0
  maxouter : Nat := 0
  ctlBase : Nat := 0
  entry : Nat := 0
  gtol : Vector (BitVec 32) 8 := .replicate 8 0
  classLeave : Nat := 0
  explicitLeave : Nat := 0
  plane : Nat := 0
  ring : List (Nat × Nat) := []
  ringAt : Nat := 0
  ringRun : Bool := false
  /-- Pitch indices of FEs whose DRAIN the sequencer has counted and not used (06 R141). -/
  drains : List Nat := []
  switch : Option Switch := none
  staged : Option Staged := none
  image : Staged := {}
  edges : List Edge := []
  rots : List Rotation := []
  binds : List (Nat × Binding) := []
  nextBind : Nat := 0
  /-- EOS tokens that its input bindings have delivered and that their ports' actors may still have to consume, as in a `BAR`'s
wait (09 R185). -/
  eosDue : List (FeId × Nat × Nat) := []
  /-- Lines its TFETCHes have pinned and that have not fallen, one entry a pin (13 R284, 20 R397). -/
  pins : List Nat := []
  thread : Option ThreadId := none
  /-- The control thread waits for a free thread since arming (06 R134). -/
  threadDue : Bool := false
  armSeq : Nat := 0
  halted : Bool := false
  tasks : Nat := 0
  /-- Firing was disabled by CFG.FREE or an ending (06 R141). -/
  freed : Bool := false
  status : Nat := 0
  freeze : Nat := 0
  cut : Option Cut := none
  cutCommitted : Option (BitVec 32) := none
  /-- Bindings of the last complete cut, at the counters they recorded (18 R368, R369). -/
  cutBinds : List (Nat × Binding) := []
  successor : Option Nat := none
  /-- Planes that a spliced successor holds on this pitch (06 R138). -/
  lent : List Nat := []
  predecessor : Option Nat := none
  phase : PhaseNow := {}
  phases : List PhaseRec := []
  totals : Vector Nat 4 := .replicate 4 0
  /-- Where the rate limiter's window begins (06 R137); its admissions are in the input ports. -/
  windowFrom : Nat := 0
  gang : GangState := .none
  gangT : Nat := 0
  /-- A peer of the running slice was lost while the device was frozen (19 R385). -/
  gangLost : Bool := false
  /-- Deliveries that arrived before the control thread started (09 R182). -/
  early : List Delivery := []
  completed : Bool := false
  /-- Retirement steps 1 to 4 are done; the scrub runs (20 R396). -/
  scrubbing : Bool := false
  /-- Pre-emption asked for: since when its phase lasts, and the phase 1 or 2 (18 R371). -/
  preempt : Option (Nat × Nat) := none
  /-- CYC up to which the pre-emption's phase has been counted, and the cycles counted (18 R372). -/
  preemptCount : Nat × Nat := (0, 0)
  /-- The address its host record was launched by, for a gang slice that is tried again (06 R140). -/
  addr : Nat := 1
  /-- Placed while its queue captured through the trace doorbell (19 R391). -/
  captured : Bool := false
  deriving DecidableEq, Repr, Inhabited

/-! ### Dies -/

/-- A record in a CP queue (06 R130, R131). -/
structure QRec where
  record : Line
  asid : BitVec 16
  /-- Physical address the host's LAUNCH named; 1, which no record has, for other records (21 Table 21-6). -/
  addr : Nat := 1
  guard : GuardRole := .none
  tile : Nat := 0
  met0 : Bool := false
  met1 : Bool := false
  /-- The physical lines the counters lay on at their last test (06 R131). -/
  line0 : Option Nat := none
  line1 : Option Nat := none
  /-- A test found no translation or no read permission (06 R131). -/
  failed : Bool := false
  /-- CYC when the record became eligible (08 R161). -/
  since : Option Nat := none
  aged : Bool := false
  /-- A capture packet of the trace doorbell: start or stop (19 R391). -/
  capture : Option Bool := none
  /-- The cycle from which a gang slice that missed its start is tried again (06 Table 6-3). -/
  notBefore : Nat := 0
  deriving DecidableEq, Repr, Inhabited

/-- A page-map entry (08 Table 8-1). -/
inductive PageState where
  | free | held | excluded
  deriving DecidableEq, Repr, Inhabited
structure PageEntry where
  state : PageState := .free
  rsv : Bool := false
  biv : Bool := false
  res : BitVec 8 := 0
  deriving DecidableEq, Repr, Inhabited

/-- A task packet in a core's queue (08 R169), or a spore evaluator waiting to start (15 R321). -/
structure Packet where
  entry : Word
  named : Word
  args : Vector Word 6
  done : Word
  asid : BitVec 16
  owner : Option ResId
  /-- The growing cell of an evaluator. -/
  cell : Option Nat := none
  deriving DecidableEq, Repr, Inhabited

/-- Tile states (07 Table 7-2). -/
inductive TileState where
  | queued | running | deciding | failed | fallback | exact | done
  deriving DecidableEq, Repr, Inhabited

/-- One tile of a guard: state, residual, delivery flag, mark of a bad store, completions due, code, status (07 R147,
R152, R153). -/
structure GTile where
  state : TileState := .queued
  res : BitVec 32 := 0
  deliv : Bool := false
  marked : Bool := false
  due : Nat := 0
  viaFallback : Bool := false
  code : BitVec 2 := 0
  status : Nat := 0
  /-- The step in which a store met the limit of tentative lines: its other lines still take their bytes (07 R150). -/
  limitAt : Option Nat := none
  deriving DecidableEq, Repr, Inhabited

/-- A guard entry in use (07 R144-R156). -/
structure GuardEntry where
  record : Line
  asid : BitVec 16
  tol : BitVec 32
  pair : Word
  /-- The spore cell the guard evaluates, if a spore launched it (07 R155). -/
  cell : Option Nat := none
  tiles : FMap Nat GTile := []
  /-- Discarded tiles in the order of their DISCARD points (07 R152). -/
  exactOrder : List Nat := []
  deriving DecidableEq, Repr, Inhabited

/-- A replayable record that awaits its response, and its source (18 R366). -/
structure Waiting where
  post : Nat
  words : Rec8
  src : Requester
  deriving DecidableEq, Repr, Inhabited

/-- The fault record queue of a die (18 Table 18-4): registers, records due, records awaiting a response. -/
structure Frq where
  base : BitVec 64 := 0
  prod : BitVec 32 := 0
  cons : BitVec 32 := 0
  ovf : Bool := false
  lost : Nat := 0
  first : BitVec 16 := 0
  /-- Records due, oldest first: words, class (0 report, 1 replayable, 2 fatal), source. -/
  due : List (Rec8 × Nat × Option Requester) := []
  waiting : List Waiting := []
  deriving DecidableEq, Repr, Inhabited

/-- Trace capture of a die (19 R389, R390): registered ring, capture filter while on. -/
structure Filter where
  asid : BitVec 16 := 0
  res : Option Nat := none
  classes : BitVec 6 := 0
  deriving DecidableEq, Repr, Inhabited
structure Trace where
  /-- A ring is registered (19 R390). -/
  ring : Bool := false
  base : Nat := 0
  k : Nat := 0
  mode : Nat := 0
  written : Nat := 0
  /-- START and STOP triggers applied, latest first: the latest that fits an event says whether it is captured. -/
  log : List (Bool × Filter) := []
  stopped : Bool := false
  /-- The fall-back doorbell: queues switched on, and armed residencies captured through it (19 R391). -/
  queues : List Nat := []
  door : List Nat := []
  /-- Records of the current cycle that have yet to be written, in the order they arose: page and bytes (19 R390). -/
  due : List (Nat × List Byte) := []
  deriving DecidableEq, Repr, Inhabited

/-- What a load-class access does to the line it reads (15 R319): read it, or read it and write new words by an AMO on
`n` words of `w` bytes at byte `off` (13 R290, R295). -/
inductive Acc where
  | load
  | amo (op : BitVec 3) (w n off : Nat) (signed : Bool) (b c : Line)
  deriving DecidableEq, Repr, Inhabited

/-- How a parked access returns: with the line it read, or with words 0 and 1 of a failure record (15 R327). -/
inductive Returned where
  | line (l : Line)
  | failed (w0 w1 : Word)
  deriving DecidableEq, Repr, Inhabited

/-- Who holds a tentative copy: a tile of a guard, or a SNAP residency (07 R148, 17 R357). -/
inductive TentOwner where
  | tile (die entry tile : Nat)
  | snap (r : ResId)
  deriving DecidableEq, Repr, Inhabited

/-- A parked waiter of a slice (15 R324). -/
structure Waiter where
  /-- Its entry of the slice's waiter store, 0-63. -/
  entry : Nat := 0
  who : Requester
  va : Word
  cell : Nat
  since : Nat
  acc : Acc := .load
  /-- The requester's ASID and residency, and the bytes of the line its access reads. -/
  asid : BitVec 16 := 0
  res : Option ResId := none
  off : Nat := 0
  len : Nat := 64
  deriving DecidableEq, Repr, Inhabited

/-- A service entry that a PITCH spore has yet to append (15 R321): cell, its VA, record. -/
structure Service where
  cell : Nat
  va : Word
  spore : Line
  deriving DecidableEq, Repr, Inhabited

/-- A saved residency (18 R373, R374): the index it had, its record and registers, its control thread, and what its pitch
and local memory held. -/
structure Saved where
  key : Nat
  res : Residency
  thread : Option Thread
  fes : List (FeId × Fe)
  islands : List ((Nat × Nat × Nat × Nat) × Island)
  routes : List ((Nat × Nat × Nat × Nat) × Line)
  latches : List (LatchKey × Token)
  lmem : List (FeId × List Byte)
  addr : Nat
  deriving DecidableEq, Repr, Inhabited

structure Die where
  live : Bool := true
  pages : Vector PageEntry 48 := .replicate 48 {}
  res : FMap Nat Residency := []
  queues : Vector (List QRec) 16 := .replicate 16 []
  /-- The queue that last placed a record, per priority (08 R160). -/
  lastQueue : Vector Nat 4 := .replicate 4 3
  lastPlace : Option Nat := none
  /-- The aged record that holds the reservation: queue, record address in arrival order, rectangle origin (08 R161). -/
  reservation : Option (Nat × Nat × Nat × Nat × Nat) := none
  saved : List Saved := []
  /-- Control threads of restored residencies, until each starts again: none when the residency had none (18 R374). -/
  context : FMap Nat (Option Thread) := []
  taskq : FMap Nat (List Packet) := []
  /-- Evaluators that wait for room in a core's queue (08 R169; 15 R321). -/
  taskWait : FMap Nat (List Packet) := []
  /-- The thread that issued last on each core (01 R20). -/
  lastIssued : FMap Nat Nat := []
  guards : Vector (Option GuardEntry) 16 := .replicate 16 none
  /-- Spore guards that wait for an entry: record address, ASID, cell (07 R155). -/
  guardWait : List (Line × BitVec 16 × Nat) := []
  /-- Service entries that wait at this die's slices (15 R321). -/
  services : List Service := []
  parkLimit : Nat := 2 ^ 24
  frq : Frq := {}
  counters : Vector (BitVec 64) 32 := .replicate 32 0
  trace : Trace := {}
  waiters : FMap Nat (List Waiter) := []
  rdcBanks : List Nat := List.range 16
  /-- The phase ring and totals of an entry, kept until the entry is used again (19 R393). -/
  phaseLog : FMap Nat (List PhaseRec × Vector Nat 4) := []
  /-- The CP is lost: nothing is placed; pages that the next reset excludes (18 R367, 20 R398). -/
  cpLost : Bool := false
  excludeNext : List Nat := []
  armSeq : Nat := 0
  deriving DecidableEq, Repr, Inhabited

/-! ### Memory system -/

/-- A line in an L2 slice (12 R260, R261, R265, R267, 20 R397). The list of lines is in order of use, latest first. -/
structure L2Line where
  line : Nat
  dirty : Bool := false
  /-- The bytes last written back, while dirty (12 R259). -/
  backing : Line := 0
  pins : Nat := 0
  owner : BitVec 16 := 0
  walked : Bool := false
  vec : BitVec 4 := 0
  peerBit : Bool := false
  /-- Were the bytes last written back poisoned, while the line is dirty (12 R259, R262; 20 R398)? -/
  backPoison : Bool := false
  deriving DecidableEq, Repr, Inhabited

/-- A line in a remote-data cache (12 R261, R270). -/
structure RdcLine where
  die : Nat
  line : Nat
  /-- Peer and incarnation, for a line homed on a peer. -/
  peer : Option (Nat × Nat) := none
  data : Line := 0
  poison : Bool := false
  owner : BitVec 16 := 0
  deriving DecidableEq, Repr, Inhabited

/-- A translation held by a TLB tile (12 R265, R270): the lines of the table entries it was made from. -/
structure TlbEntry where
  die : Nat
  tile : Nat
  asid : BitVec 16
  /-- Virtual page number, or block number for a block. -/
  vpn : Nat
  block : Bool
  leaf : Leaf
  made : List Nat
  incarnation : Nat := 0
  deriving DecidableEq, Repr, Inhabited

/-- Tentative bytes of a line and their byte mask. -/
structure TentPart where
  data : Line
  mask : BitVec 64
  /-- A copy took bytes of a poisoned line (13 R286). -/
  poison : Bool := false
  deriving DecidableEq, Repr, Inhabited

/-- A tentative copy of a line: bytes and byte mask (07 R148, 17 R357). -/
structure Tentative where
  owner : TentOwner
  line : Nat
  data : Line
  mask : BitVec 64
  poison : Bool := false
  /-- The step of the latest store to it (09 R178). -/
  since : Nat := 0
  /-- Bytes stored past a marker cut in progress: they wait for the next cut (17 R357). -/
  late : BitVec 64 := 0
  /-- What is held for the cut in progress, once bytes past it are there. -/
  held : Option TentPart := none
  /-- A store through a mapping with T = 0 has met it: its cell becomes VALUE with its bytes (12 R266). -/
  untagged : Bool := false
  /-- What a peer homes of it has gone to the peer, ahead of its commit (17 R357). -/
  gone : Bool := false
  deriving DecidableEq, Repr, Inhabited

/-- What is asked of a peer: a store, an invalidation of its copies, a load, an AMO (12 R261; 21 R411). -/
inductive SentKind where
  | write | inv | read | amo
  deriving DecidableEq, Repr, Inhabited
/-- A request to a peer, until the peer answers and its requester takes the answer (12 R261, R270; 17 R350, R354; 21 R411). -/
structure Sent where
  who : Option Requester
  peer : Nat
  line : Nat
  kind : SentKind := .write
  /-- Its requester asks again, and takes the answer. -/
  asks : Bool := false
  answered : Bool := false
  /-- What was sent, and where in the line the bytes of the answer lie. -/
  msg : LinkMsg
  off : Nat := 0
  /-- The line that the peer has answered with, its bytes in their places. -/
  data : Line := 0
  /-- A load whose answer no cache may keep: the line was stored to, or invalidated, after it was sent. -/
  stale : Bool := false
  /-- The peer fell while it was in flight: it completes with PEER_GONE (12 R270). -/
  lost : Bool := false
  /-- A thread's store that has left its buffer, for the fault it may still take (13 R440). -/
  note : Option Buffered := none
  /-- The agents whose stores a bank's write-back carries (17 R349). -/
  owes : List Requester := []
  deriving DecidableEq, Repr, Inhabited

/-- What a request held at a slice waits for: a way of its set (12 R267), a line to leave GROWING, a waiter entry (15 R319,
R324). -/
inductive HeldFor where
  | way | growth | entry
  deriving DecidableEq, Repr, Inhabited
/-- A request held at a slice, since when (15 R326). -/
structure HeldReq where
  who : Requester
  line : Nat
  cause : HeldFor
  since : Nat
  deriving DecidableEq, Repr, Inhabited

/-- A store that has performed and that some thread's fetch need not see yet (09 R178): the agent, the step it performed
in, the step of that agent's next fence, its bytes. -/
structure CodeStore where
  who : Option Requester
  done : Nat
  fenced : Option Nat := none
  data : Line
  mask : BitVec 64
  deriving DecidableEq, Repr, Inhabited
/-- Where code lies: at its home, in the bank of an FE, in an owner's tentative copy (12 R257; 07 R148). -/
inductive CodeKey where
  | home (line : Nat)
  | bank (f : FeId) (line : Nat)
  | tent (o : TentOwner) (line : Nat)
  deriving DecidableEq, Repr, Inhabited
/-- A line's bytes before the stores listed, oldest first. -/
structure CodeLine where
  base : Line
  stores : List CodeStore := []
  deriving DecidableEq, Repr, Inhabited

/-! ### Front end and surroundings -/

/-- A unit that has stopped at a hit (19 R381, R383): a thread, a thread's engines, an FE, or a port with its token
held there. -/
inductive Stopped where
  | thread (t : ThreadId)
  | engine (t : ThreadId)
  | fe (f : FeId)
  | port (f : FeId) (port : Nat) (out : Bool)
  deriving DecidableEq, Repr, Inhabited

/-- DBGSTAT's stored fields and the freeze machinery (19 Table 19-4, R383, R387, R388). -/
structure Debug where
  attached : List (BitVec 16) := []
  bps : Vector (BitVec 256) 16 := .replicate 16 0
  /-- Physical line a watch entry covers from, translated when enabled (19 R382). -/
  watchPa : FMap Nat Nat := []
  frozen : Bool := false
  /-- Origin time of the freeze under way, and of the resume under way. -/
  freezeAt : Option Nat := none
  resumeAt : Option Nat := none
  stepwait : Bool := false
  cutwd : Bool := false
  first : Nat := 0
  firstV : Bool := false
  hits : BitVec 16 := 0
  badbp : BitVec 16 := 0
  /-- Entries that were written in breach of Table 19-1: enabled, they are ignored (19 R380). -/
  ignored : BitVec 16 := 0
  /-- Units that hit and have stopped before the freeze (19 R383). -/
  stopped : List Stopped := []
  /-- A PC hit the thread has reported and must issue past (19 R382). -/
  passed : List (ThreadId × Word) := []
  /-- The step in progress: its thread, when it began, whether its instruction has issued (R387). -/
  step : Option (ThreadId × Nat × Bool) := none
  /-- The debug cut asked for and not complete: its residency, its limit, and the cycle it was asked in (R388). -/
  cut : Option (ResId × Nat × Nat) := none
  brk : Option (ThreadId × Word × BitVec 16) := none
  /-- The cycles in which entries have hit since the last resume: a fabric fault of such a cycle is delivered after it (19 R386). -/
  hitAt : List Nat := []
  frozenFrom : Nat := 0
  deriving DecidableEq, Repr, Inhabited

/-- A trigger on its way (19 R389): action, filter, origin time. -/
structure Trigger where
  action : Nat
  filter : Filter
  origin : Nat
  deriving DecidableEq, Repr, Inhabited

/-- An audit entry (20 Table 20-3). -/
structure AuditEntry where
  seq : Nat
  event : BitVec 16
  asid : BitVec 16
  detail : BitVec 32
  time : BitVec 64
  prev : BitVec 384
  arg : BitVec 448
  deriving DecidableEq, Repr, Inhabited

/-- A peer (12 R270, 21 R413). -/
structure Peer where
  up : Bool := false
  incarnation : BitVec 16 := 0
  enrolled : Bool := false
  deriving DecidableEq, Repr, Inhabited

/-- A Zilost Link port (21 R410-R412). -/
structure ZPort where
  up : Bool := false
  lanes : Nat := 8
  peer : Nat := 0
  allow : Vector Nat 4 := .replicate 4 0
  heardAt : Nat := 0
  sentAt : Nat := 0
  /-- Since when the message that has waited longest for an allowance waits (21 R412). -/
  waitingSince : Option Nat := none
  /-- Messages to send, each with the cycle it came in. -/
  outq : List (Nat × LinkMsg) := []
  resent : Nat := 0
  /-- Allowances the device owes per channel and does not grant while it is frozen (19 R385). -/
  withheld : Vector Nat 4 := .replicate 4 0
  deriving DecidableEq, Repr, Inhabited

/-- The SPDM session of a link (21 R417). -/
inductive SpdmStage where
  | start | version | capabilities | negotiated | exchanged | session
  deriving DecidableEq, Repr, Inhabited
structure Spdm where
  stage : SpdmStage := .start
  /-- The last response: its kind, and what it carries. -/
  reply : Option (Nat × List Byte) := none
  deriving DecidableEq, Repr, Inhabited

/-- A leave request that waits (06 R135): who, units, priority. -/
inductive LeaveFor where
  | cfgArm (t : ThreadId) (r : ResId)
  | pwrAsk (t : ThreadId) (r : ResId)
  | arm (r : ResId)
  deriving DecidableEq, Repr, Inhabited
structure LeaveReq where
  who : LeaveFor
  units : Nat
  /-- Explicit leave that a `CFG.ARM` draws beside them (06 R141). -/
  drawn : Nat := 0
  prio : Nat
  granted : Bool := false
  deriving DecidableEq, Repr, Inhabited

structure Front where
  hcqBase : BitVec 64 := 0
  hcqSize : BitVec 64 := 0
  hcqProd : BitVec 32 := 0
  hcqCons : BitVec 32 := 0
  /-- The host record at the ring's head that waits for its queue, as it was read, and the die chosen for it (06 R130). -/
  hcqHeld : Option (Nat × Line) := none
  hwin : BitVec 64 := 0
  /-- The bytes the last host read through BAR2 returned (21 R405). -/
  bar2 : List Byte := []
  /-- Spores handed to the host with interrupt 9: the cell's physical address, the spore record (15 R321). -/
  hostSpores : List (Nat × Line) := []
  dbg : Debug := {}
  triggers : List Trigger := []
  audit : List AuditEntry := []
  auditMirror : Nat × Nat := (0, 0)
  mr : Vector (BitVec 384) 8 := .replicate 8 0
  pwr : BitVec 16 := 0
  tout : BitVec 8 := 0
  /-- HELD and LEVEL as PWRSTAT showed them at its last update (21 R418). -/
  shownHeld : Nat := 0
  shownLevel : Nat := 0
  level : Nat := 0
  levelSince : Nat := 0
  /-- How far the controller has lowered A, summed over PRIO 3, 2 and 1 (06 R137). -/
  rateCut : Nat := 0
  pool : Nat := 0
  poolFree : Nat := 0
  leaveReqs : List LeaveReq := []
  /-- MSI-X: is it enabled in each function, the table both share, the vectors signalled, oldest first, each with the link it
went by (21 R406, Table 21-1). -/
  msixOn : Vector Bool 2 := .replicate 2 false
  msixTable : Vector (BitVec 128) 16 := .replicate 16 0
  irqs : List (Nat × Nat) := []
  /-- The registers that answer in recovery (21 R415). -/
  recoveryRegs : FMap Nat (BitVec 64) := []
  ide : FMap (Nat × Nat) (BitVec 256) := []
  spdm : Vector Spdm 2 := .replicate 2 {}
  cxl : Vector Bool 24 := .replicate 24 true
  /-- Bytes behind each pool port, as firmware enumerated them at boot (21 R408). -/
  portCap : Vector Nat 24 := .replicate 24 0
  /-- Where the pool ends, and where the tag side-table at its top begins (12 R266; 21 R409). -/
  poolEnd : Nat := 0
  tagTable : Nat := 0
  lostPorts : List Nat := []
  /-- CXL ports lost at run time: the next reset excludes them (20 R401). -/
  excludePorts : List Nat := []
  zports : Vector ZPort 12 := .replicate 12 {}
  peers : Vector Peer 64 := .replicate 64 {}
  lto : Nat := 10000
  quantum : Nat := 1000
  gclk : Nat := 0
  bootCount : BitVec 16 := 0
  lastPwrstat : Nat := 0
  bootTime : Nat := 0
  deriving DecidableEq, Repr, Inhabited

/-- The device. -/
structure State where
  /-- (model) Turns to take next, before the schedule's own (log entry 1). -/
  agenda : List Turn := []
  /-- (model) Whose control instruction, element instruction or record exec runs. -/
  curThread : ThreadId := ⟨0, 0, 1⟩
  curFe : FeId := ⟨0, 0, 0⟩
  curMtu : Nat := 0
  /-- (model) The number of this step: names its free values. -/
  tick : Nat := 0
  booted : Bool := false
  recovery : Bool := false
  cyc : Nat := 0
  mem : Memory := []
  tags : FMap Nat (BitVec 2) := []
  poison : List Nat := []
  l2 : FMap (Nat × Nat) (List L2Line) := []
  rdc : List RdcLine := []
  tlb : List TlbEntry := []
  tent : List Tentative := []
  /-- Parked accesses that have returned and whose requesters have not taken the value yet: requester, line. -/
  returns : List (Requester × Nat × Returned) := []
  sent : List Sent := []
  heldReqs : List HeldReq := []
  code : FMap CodeKey CodeLine := []
  lmem : Memory := []
  roots : FMap (BitVec 16) Nat := []
  ctxAreas : FMap (BitVec 16) (Nat × Nat) := []
  threads : FMap ThreadId Thread := []
  fes : FMap FeId Fe := []
  islands : FMap (Nat × Nat × Nat × Nat) Island := []
  routes : FMap (Nat × Nat × Nat × Nat) Line := []
  latches : FMap LatchKey Token := []
  dies : Vector Die 4 := .replicate 4 {}
  front : Front := {}
  deriving DecidableEq, Repr, Inhabited

/-- The device right after device reset, before BOOT: every field at the value of its declaration. -/
def State.reset : State := {}

end Sys2Proof.Machine
end

