-- ==== Sys2Proof/Machine/Home.lean ====
section
/-! DEFINITION. Accessors of the state, the geometry of the die, homing, windows, translation, and what a line does at
its home slice (01 R16-R26; 04 R105; 12 R254-R267). -/

namespace Sys2Proof.Machine

/-! ### Plain helpers -/

/-- Entry `i` of a vector; an entry outside it reads as the default record. -/
def vget {α : Type} {n : Nat} [Inhabited α] (v : Vector α n) (i : Nat) : α := v.toList.getD i default

/-- Replace entry `i` of a vector, if it has one. -/
def vset {α : Type} {n : Nat} (v : Vector α n) (i : Nat) (x : α) : Vector α n := v.setIfInBounds i x

/-- Change entry `i` of a vector, if it has one. -/
def vmod {α : Type} {n : Nat} [Inhabited α] (v : Vector α n) (i : Nat) (f : α → α) : Vector α n :=
  vset v i (f (vget v i))

/-- The line that 64 bytes make, byte 0 lowest (00 R6). -/
def lineOf (bs : List Byte) : Line := BitVec.ofNat 512 (leNat bs)

/-- The 64 bytes of a line. -/
def lineBytes (l : Line) : List Byte := leBytes 64 l.toNat

/-- `n` bytes of a line from byte `off`. -/
def lineSlice (l : Line) (off n : Nat) : List Byte := ((lineBytes l).drop off).take n

/-- A line with bytes replaced from byte `off` upward. -/
def lineWith (l : Line) (off : Nat) (bs : List Byte) : Line :=
  let old := lineBytes l
  lineOf (old.take off ++ bs ++ old.drop (off + bs.length))

/-- The mask of bytes `off` to `off + n - 1` of a line. -/
def byteMask (off n : Nat) : BitVec 64 := BitVec.ofNat 64 ((2 ^ n - 1) * 2 ^ off)

/-- `new` where `mask` is set, `old` elsewhere. -/
def mergeLine (old new : Line) (mask : BitVec 64) : Line :=
  lineOf (((lineBytes old).zip (lineBytes new)).zipIdx.map fun p => if bitOf mask p.2 then p.1.2 else p.1.1)

/-- Word `k` of 64 bits of a line. -/
def lineWord (l : Line) (k : Nat) : Word := BitVec.ofNat 64 (fldN l (64 * k) 64)

/-- The 8 words of a record as a line, word 0 lowest. -/
def recLine (r : Rec8) : Line := BitVec.ofNat 512 (leNat (r.toList.flatMap fun w => leBytes 8 w.toNat))

/-- A record from its words; missing words are zero. -/
def rec8 (ws : List Word) : Rec8 := Vector.ofFn fun (i : Fin 8) => ws.getD i.val 0

/-- The numbers of 18 Table 18-1 and 06 Table 6-2. -/
def codeNum : Code → Nat
  | .cfgImage => 0x1 | .cfgShape => 0x2 | .loadRange => 0x3 | .cfgEncoding => 0x4 | .cfgRoute => 0x5
  | .cfgFormat => 0x6 | .cfgBank => 0x7 | .cfgSpace => 0x8 | .rotDepth => 0x9 | .cfgBusy => 0xA
  | .bankBusy => 0xB | .gangPeerLost => 0xC | .launchBad => 0xD
  | .illegal => 0x10 | .misaligned => 0x11 | .badWindow => 0x12 | .windowCross => 0x13 | .page => 0x14
  | .access => 0x15 | .poison => 0x16 | .argRange => 0x17 | .qwaitTimeout => 0x18 | .user => 0x19
  | .brk => 0x1A | .peerGone => 0x1B
  | .sporeUntagged => 0x20 | .sporeBusy => 0x21 | .sporeSelf => 0x22 | .sporeCycle => 0x23
  | .sporeTimeout => 0x24 | .sporeFailed => 0x25
  | .arithOvf => 0x30 | .badBlock => 0x31 | .rotSlip => 0x32 | .overrun => 0x33 | .killed => 0x34
  | .uncorrected => 0x40

/-! ### Units of the state -/

def State.die (s : State) (d : Nat) : Die := vget s.dies d
def State.modDie (s : State) (d : Nat) (f : Die → Die) : State := { s with dies := vmod s.dies d f }
def State.thr (s : State) (t : ThreadId) : Thread := mapGet {} s.threads t
def State.modThr (s : State) (t : ThreadId) (f : Thread → Thread) : State :=
  { s with threads := mapSet s.threads t (f (s.thr t)) }
def State.fe (s : State) (f : FeId) : Fe := mapGet {} s.fes f
def State.modFe (s : State) (f : FeId) (g : Fe → Fe) : State := { s with fes := mapSet s.fes f (g (s.fe f)) }
def State.res (s : State) (r : ResId) : Residency := mapGet {} (s.die r.die).res r.idx
def State.hasRes (s : State) (r : ResId) : Bool := (mapFind (s.die r.die).res r.idx).isSome
def State.modRes (s : State) (r : ResId) (f : Residency → Residency) : State :=
  if s.hasRes r then s.modDie r.die fun d => { d with res := mapSet d.res r.idx (f (s.res r)) } else s
/-- Add `n` to counter `i` of a die (20 Table 20-6). -/
def State.count (s : State) (d i n : Nat) : State :=
  s.modDie d fun x => { x with counters := vmod x.counters i fun c => c + BitVec.ofNat 64 n }
/-- The link an MSI-X vector goes by: link 0 if both functions have MSI-X enabled, else the one that has (21 R406). -/
def Front.msixLink (x : Front) : Option Nat := (List.range 2).find? fun l => vget x.msixOn l
/-- Signal an MSI-X vector (21 R406). -/
def State.irq (s : State) (v : Nat) : State :=
  { s with front := { s.front with irqs := s.front.irqs ++ (s.front.msixLink.map fun l => (l, v)).toList } }
/-- Does a stream carry host accesses: one of IDE only while it is secure, its keys programmed (21 R404, R407)? -/
def State.carries (s : State) (v : Via) : Bool := decide (v.link < 2) && match v.stream with
  | none => true
  | some k => (mapFind s.front.ide (v.link, k)).isSome
/-- Does a host access reach the registers and the memory: in recovery none does (21 R415)? -/
def State.hostReaches (s : State) (v : Via) : Bool := s.carries v && !s.recovery
/-- The residencies of all dies. -/
def State.allRes (s : State) : List (ResId × Residency) :=
  (List.range 4).flatMap fun d => (s.die d).res.map fun p => (⟨d, p.1⟩, p.2)

/-- The residency a thread works for, if it has one (09 R174-R180). -/
def Role.res : Role → Option ResId
  | .none => Option.none
  | .control r => some r
  | .task r _ => r
  | .evaluator _ _ => Option.none
  | .urgent r => some r

/-! ### Geometry (01 R16-R25) -/

/-- Column within the page of FE position `pos` (R19). -/
def posCol (pos : Nat) : Nat := if pos % 6 < 3 then pos % 6 else pos % 6 + 1
/-- Row of an FE's site on its die. -/
def feRow (f : FeId) : Nat := f.page / 8 * 4 + f.pos / 6
/-- Column of an FE's site on its die. -/
def feCol (f : FeId) : Nat := f.page % 8 * 8 + posCol f.pos
/-- The FE at a site, if the site holds one (R16). -/
def feAt (die row col : Nat) : Option FeId :=
  let c := col % 8
  if row < 24 ∧ col < 64 ∧ c ≠ 3 ∧ c ≠ 7 then
    some ⟨die, row / 4 * 8 + col / 8, row % 4 * 6 + (if c < 3 then c else c - 1)⟩
  else none
/-- Page number of page (band, group). -/
def pageNum (band group : Nat) : Nat := band * 8 + group
/-- The pages of a residency, by local page index (R24, R25). -/
def Residency.pages (x : Residency) : List Nat :=
  (List.range (x.h * x.w)).map fun k => pageNum (x.band0 + k / x.w) (x.group0 + k % x.w)
/-- The FE with pitch index `i` (R25). -/
def feOfIndex (r : ResId) (x : Residency) (i : Nat) : FeId := ⟨r.die, x.pages.getD (i / 24) 0, i % 24⟩
/-- Local page index of a page of the pitch. -/
def Residency.localPage (x : Residency) (page : Nat) : Nat := (page / 8 - x.band0) * x.w + (page % 8 - x.group0)
/-- Pitch index of an FE (R25). -/
def Residency.index (x : Residency) (f : FeId) : Nat := 24 * x.localPage f.page + f.pos
/-- The FEs of a pitch in ascending pitch index. -/
def pitchFes (r : ResId) (x : Residency) : List FeId := (List.range (24 * x.h * x.w)).map (feOfIndex r x)
/-- The planes a residency uses: plane 5 for an urgent one, 0-4 otherwise (05 R111); of two that are spliced, the
successor the planes its image writes and the predecessor the rest (06 R138). -/
def Residency.usesPlane (x : Residency) (p : Nat) : Bool :=
  if x.urgent then p = 5
  else decide (p < 5) && !x.lent.contains p && (x.predecessor.isNone || x.image.planes.contains p)
/-- The residency that owns a plane of an FE: the armed one on its page that uses it (05 R109; 06 R138; 18 R375). -/
def State.planeOwner (s : State) (f : FeId) (plane : Nat) : Option ResId :=
  ((s.die f.die).res.find? fun p =>
    p.2.pages.contains f.page && decide (p.2.state = .armed) && p.2.usesPlane plane).map fun p => ⟨f.die, p.1⟩
/-- The residency that owns an FE's active plane. -/
def State.owner (s : State) (f : FeId) : Option ResId := s.planeOwner f (s.fe f).active

/-- Is an FE still to pass to a spliced successor (06 R138)? -/
def State.spliceWaits (s : State) (r : ResId) (f : FeId) : Bool := (s.res r).predecessor.isSome && !(s.fe f).switched
/-- The plane whose ports a residency's streams meet at an FE: plane 5 for an urgent one; of two that are spliced its own, whichever
the FE runs; else the active plane, or the one that plane 5 holds beneath it (06 R138, R141; 18 R375). -/
def State.portPlane (s : State) (r : ResId) (f : FeId) : Nat :=
  let x := s.res r
  if x.urgent then 5
  else if s.spliceWaits r f || (x.successor.isSome && (s.fe f).switched) then x.plane
  else match (s.fe f).beneath with
    | some p => p
    | none => (s.fe f).active

/-! ### Stream patterns (13 Table 13-2) -/

/-- CNT of dimension `k`. -/
def patCnt (p : Line) (k : Nat) : Nat := fldN p (64 + 32 * k) 32
/-- STR of dimension `k`. -/
def patStr (p : Line) (k : Nat) : Int := (fld p (192 + 64 * k) 64).toInt
/-- The place of an element in its pattern's order. -/
def patElem (p : Line) (c : Vector Nat 4) : Nat :=
  vget c 0 + patCnt p 0 * (vget c 1 + patCnt p 1 * (vget c 2 + patCnt p 2 * vget c 3))

/-! ### Homing (04 R105) -/

/-- The page that holds a slice (R17, R18). -/
def slicePage (n : Nat) : Nat := n / 8 / 4 * 8 + n % 8
/-- Fabric dies that are not excluded, ascending. -/
def State.liveDies (s : State) : List Nat := (List.range 4).filter fun d => (s.die d).live
def Die.pageLive (x : Die) (p : Nat) : Bool := decide ((vget x.pages p).state ≠ .excluded)
/-- Pages of a die that are not excluded, ascending. -/
def Die.livePages (x : Die) : List Nat := (List.range 48).filter x.pageLive
/-- Slices of a die that are not excluded, ascending. -/
def Die.liveSlices (x : Die) : List Nat := (List.range 192).filter fun n => x.pageLive (slicePage n)
/-- `HomeSlice` of a physical address (R105). -/
def State.homeSlice (s : State) (pa : Nat) : Nat × Nat :=
  let x := pa / 64 % 2 ^ 49
  let f := (x % 2 ^ 16) ^^^ (x / 2 ^ 16 % 2 ^ 16) ^^^ (x / 2 ^ 32 % 2 ^ 16) ^^^ (x / 2 ^ 48 * 2 ^ 15)
  let ds := s.liveDies
  let d := ds.getD (f % ds.length) 0
  let ss := (s.die d).liveSlices
  (d, ss.getD (f / ds.length % ss.length) 0)
/-- The L2 set of a line number (12 R260). -/
def l2Set (x : Nat) : Nat :=
  (x % 2 ^ 13) ^^^ (x / 2 ^ 13 % 2 ^ 13) ^^^ (x / 2 ^ 26 % 2 ^ 13) ^^^ (x / 2 ^ 39 % 2 ^ 10)

/-! ### Physical lines -/

/-- Tag of a line (12 R266): VALUE unless listed. -/
def State.tag (s : State) (line : Nat) : BitVec 2 := mapGet 0 s.tags line
def State.setTag (s : State) (line : Nat) (t : BitVec 2) : State :=
  { s with tags := if t = 0 then mapErase s.tags line else mapSet s.tags line t }
def State.poisoned (s : State) (line : Nat) : Bool := s.poison.contains line
def State.setPoison (s : State) (line : Nat) (p : Bool) : State :=
  { s with poison := if p then (if s.poison.contains line then s.poison else s.poison ++ [line])
                     else s.poison.filter fun x => decide (x ≠ line) }
/-- The 64 bytes of a line as its home slice holds them. -/
def State.line (s : State) (line : Nat) : Line := lineOf (s.mem.readBytes (line * 64) 64)

/-- Is a line the target of a copy in flight (12 R267)? -/
def State.copyTarget (s : State) (line : Nat) : Bool := s.threads.any fun t => t.2.ce.running.any fun c => c.lines.contains line
/-- Is a line of a set exempt from replacement (12 R267)? -/
def State.pinned (s : State) (x : L2Line) : Bool :=
  decide (0 < x.pins) || s.copyTarget x.line || decide (s.tag x.line = 2)

/-- Put a message on the first port that reaches a peer (21 R411). -/
def State.peerSend (s : State) (peer : Nat) (m : LinkMsg) : State :=
  match (List.range 12).find? fun i => (vget s.front.zports i).up && (vget s.front.zports i).peer = peer with
  | none => s
  | some i => { s with front := { s.front with
      zports := vmod s.front.zports i fun z => { z with outq := z.outq ++ [(s.cyc, m)] } } }
/-- Send a request to a peer, to be answered. -/
def State.ask (s : State) (x : Sent) : State := { s.peerSend x.peer x.msg with sent := s.sent ++ [x] }
/-- Is a peer UP (12 R270)? -/
def State.peerUp (s : State) (p : Nat) : Bool := (vget s.front.peers p).up
/-- Tell every UP peer to drop its copies of a line (R261); who waits for the answers, if anyone does. -/
def State.invalidatePeers (s : State) (who : Option Requester) (line : Nat) : State :=
  ((List.range 64).filter s.peerUp).foldl (fun s p =>
    s.ask { who, peer := p, line, kind := .inv, asks := who.isSome, msg := .inv p line }) s
/-- Has a peer that may hold a line still to drop it? Until then the line's new bytes have not performed (R261; 17 R350). -/
def State.recalling (s : State) (line : Nat) : Bool :=
  s.sent.any fun x => decide (x.line = line ∧ x.kind = .inv) && !x.answered

/-- The ways of a line's set that lines and tentative copies take (12 R260, R267; 07 R150). -/
def State.setLines (s : State) (line : Nat) : List L2Line :=
  (mapGet [] s.l2 (s.homeSlice (line * 64))).filter fun x => decide (l2Set x.line = l2Set line)
def State.setCopies (s : State) (line : Nat) : Nat :=
  (s.tent.filter fun t => decide (s.homeSlice (t.line * 64) = s.homeSlice (line * 64) ∧ l2Set t.line = l2Set line)).length
/-- The way that a line would take in a full set: the least recently used eligible one (R267). -/
def State.victim (s : State) (line : Nat) : Option L2Line := (s.setLines line).reverse.find? fun x => !s.pinned x
/-- Have a way of a line's set free: a full set evicts its least recently used eligible way, whose copies in remote-data caches go
first, at peers too; none while no way is eligible or peers have yet to answer (12 R260, R261, R267). -/
def State.l2Way (s : State) (line : Nat) : Option State :=
  if (s.setLines line).length + s.setCopies line < 16 then some s
  else match s.victim line with
    | none => none
    | some v =>
      if v.peerBit || s.recalling v.line then none
      else
        let k := s.homeSlice (line * 64)
        some { s with
          l2 := mapSet s.l2 k ((mapGet [] s.l2 k).filter fun y => decide (y.line ≠ v.line))
          rdc := s.rdc.filter fun c => decide (c.line ≠ v.line ∨ c.peer.isSome) }
/-- Bring a line into its slice as its latest used; none while its set has no way for it (12 R260, R267). -/
def State.l2Bring (s : State) (line : Nat) : Option State :=
  let k := s.homeSlice (line * 64)
  let ls := mapGet [] s.l2 k
  match ls.find? fun x => decide (x.line = line) with
  | some x => some { s with l2 := mapSet s.l2 k (x :: ls.filter fun y => decide (y.line ≠ line)) }
  | none => (s.l2Way line).map fun s' => { s' with l2 := mapSet s'.l2 k ({ line := line } :: mapGet [] s'.l2 k) }

/-- A request is held at a slice: it counts once, from when it first came (12 R267; 15 R319, R326). -/
def State.holdReq (s : State) (q : Requester) (line : Nat) (k : HeldFor) : State :=
  if s.heldReqs.any fun h => decide (h.who = q ∧ h.line = line ∧ h.cause = k) then s
  else
    let s := { s with heldReqs := s.heldReqs ++ [⟨q, line, k, s.cyc⟩] }
    match k with
    | .way => s.count (s.homeSlice (line * 64)).1 3 1
    | .growth => s.count (s.homeSlice (line * 64)).1 8 1
    | .entry => s
/-- A request is held no more. -/
def State.unholdReq (s : State) (q : Requester) (line : Nat) : State :=
  { s with heldReqs := s.heldReqs.filter fun h => decide (¬(h.who = q ∧ h.line = line)) }
/-- Since when a request on a line counts: since it was first held there, or now (15 R326). -/
def State.heldSince (s : State) (q : Requester) (line : Nat) : Nat :=
  (s.heldReqs.filter fun h => decide (h.who = q ∧ h.line = line)).foldl (fun m h => min m h.since) s.cyc

/-- Change what the slice keeps of a line it holds. -/
def State.modL2 (s : State) (line : Nat) (f : L2Line → L2Line) : State :=
  let k := s.homeSlice (line * 64)
  { s with l2 := mapSet s.l2 k ((mapGet [] s.l2 k).map fun x => if x.line = line then f x else x) }
/-- A request waits for a way of its line's set: it counts if no way is eligible; a way that peers hold copies of is asked of
them first (12 R261, R267). -/
def State.holdWay (s : State) (q : Requester) (line : Nat) : State :=
  match s.victim line with
  | none => s.holdReq q line .way
  | some v => if v.peerBit then (s.invalidatePeers none v.line).modL2 v.line fun x => { x with peerBit := false } else s
/-- A line is written under an ASID: its owner tag (20 R397). -/
def State.ownLine (s : State) (line : Nat) (asid : BitVec 16) : State := s.modL2 line fun x => { x with owner := asid }
/-- Bring a line into its slice for an access under an ASID, whose tag a fill takes (20 R397). -/
def State.l2For (s : State) (line : Nat) (asid : BitVec 16) : Option State :=
  (s.l2Bring line).map fun s' => if (mapGet [] s.l2 (s.homeSlice (line * 64))).any fun x => decide (x.line = line) then s'
    else s'.ownLine line asid
/-- One pin of a line falls, never below zero (12 R267, 13 R285); a residency's own account of it first. -/
def State.unpin (s : State) (r : Option ResId) (line : Nat) : State :=
  let s := s.modL2 line fun y => { y with pins := y.pins - 1 }
  let rs := (match r with
    | some r => [r]
    | none => []) ++ s.allRes.map (·.1)
  match rs.find? fun r => (s.res r).pins.contains line with
  | none => s
  | some r => s.modRes r fun x => { x with pins := x.pins.erase line }
def State.l2Find (s : State) (line : Nat) : Option L2Line :=
  (mapGet [] s.l2 (s.homeSlice (line * 64))).find? fun x => decide (x.line = line)

/-- The CXL port behind a line (21 R409), if any port is live. -/
def State.portOf (s : State) (pa : Nat) : Option Nat :=
  let live := (List.range 24).filter fun i => vget s.front.cxl i
  live[pa / 4096 % live.length]?
/-- Is a line behind a lost port? -/
def State.portLost (s : State) (pa : Nat) : Bool := match s.portOf pa with
  | none => false
  | some p => s.front.lostPorts.contains p
/-- Is a line behind a lost port, and not served from a clean copy in L2 (12 R271)? -/
def State.portGone (s : State) (pa : Nat) : Bool :=
  match s.portOf pa with
  | none => false
  | some p => s.front.lostPorts.contains p &&
      match s.l2Find (pa / 64) with
      | some x => x.dirty
      | none => true

/-! ### Windows (12 R254-R256) -/

inductive Window where
  | glob | pitch | loc
  deriving DecidableEq, Repr, Inhabited

def pitchBase : Nat := 0xFFFFFFFFE0000000
def localBase : Nat := 0xFFFFFFFFFFFE0000

/-- The window a byte lies in (Table 12-1). -/
def windowOf (a : Nat) : Option Window :=
  if a < 0x80000000000000 then some .glob
  else if pitchBase ≤ a ∧ a < localBase then some .pitch
  else if localBase ≤ a ∧ a < 2 ^ 64 then some .loc
  else none

/-! ### Translation (12 R263-R265) -/

/-- The permission an access needs; `none` for an address that is only named. -/
inductive Need where
  | none | r | w | x | rw
  deriving DecidableEq, Repr, Inhabited

/-- What a walk found: the leaf, the lines of the entries it read, and whether the leaf maps a block. -/
structure Walk where
  leaf : Leaf
  made : List Nat
  block : Bool
  deriving DecidableEq, Repr, Inhabited

/-- A malformed entry at `level` (R263). -/
def pteMalformed (e : Word) (level : Nat) : Bool :=
  fldN e 14 2 ≠ 0 || fldN e 55 9 ≠ 0 ||
  (if bitOf e 1 then
    level = 2 || (bitOf e 5 && bitOf e 6) || (!bitOf e 6 && fldN e 8 6 ≠ 0) || (level = 1 && fldN e 16 13 ≠ 0)
  else level = 0 || fldN e 2 6 ≠ 0 || fldN e 8 6 ≠ 0)

/-- The leaf an entry gives for `va` at `level`. -/
def pteLeaf (e : Word) (level va : Nat) : Leaf :=
  let frame := fldN e 16 39 * 2 ^ 16
  { pa := frame + (if level = 1 then va % 2 ^ 29 else va % 2 ^ 16)
    r := bitOf e 2, w := bitOf e 3, x := bitOf e 4, t := bitOf e 5, p := bitOf e 6, nc := bitOf e 7
    peer := fldN e 8 6 }

/-- Does a byte lie in the tag side-table, which no ASID can map (R266; 21 R409)? -/
def State.inTagTable (s : State) (pa : Nat) : Bool := decide (s.front.tagTable ≤ pa ∧ pa < s.front.poolEnd)
/-- Does a byte lie beyond the pool that firmware enumerated at boot (21 R408, R409)? -/
def State.offPool (s : State) (pa : Nat) : Bool := s.booted && decide (s.front.poolEnd ≤ pa)

/-- Walk from a table at `level` down (R263, R264, R320). The tag side-table does not translate (R266), and an address beyond the pool, for
which the manual gives no outcome, does not either (DESIGN CHOICE, log entry 83). -/
def State.walkFrom (s : State) (va : Nat) : Nat → Nat → List Nat → Except Code Walk
  | level, table, made =>
    let idx := va / 2 ^ (16 + 13 * level) % 2 ^ 13
    let ea := table + 8 * idx
    let line := ea / 64
    let e : Word := BitVec.ofNat 64 (leNat (s.mem.readBytes ea 8))
    if s.poisoned line || s.tag line ≠ 0 || s.portGone ea || s.offPool ea || !bitOf e 0 || pteMalformed e level then .error .page
    else if bitOf e 1 then
      let l := pteLeaf e level va
      if !l.p && (s.inTagTable l.pa || s.offPool l.pa) then .error .page else .ok ⟨l, made ++ [line], decide (level = 1)⟩
    else match level with
      | 0 => .error .page
      | l + 1 => s.walkFrom va l (fldN e 16 39 * 2 ^ 16) (made ++ [line])

/-- The walk of a global virtual address under an ASID. -/
def State.walk (s : State) (asid : BitVec 16) (va : Nat) : Except Code Walk :=
  match mapFind s.roots asid with
  | none => .error .page
  | some root => s.walkFrom va 2 root []

/-- The TLB tile of a die that holds the translation of `va` (R265). -/
def State.tlbTile (s : State) (die va : Nat) : Nat :=
  let v := va / 2 ^ 16
  let h := (v % 2 ^ 13) ^^^ (v / 2 ^ 13 % 2 ^ 13) ^^^ (v / 2 ^ 26 % 2 ^ 13)
  let live := (s.die die).livePages
  live.getD (h % live.length) 0

/-- The leaf a TLB tile holds for `va`, at the byte `va` names (R265, R270). -/
def State.tlbHit (s : State) (die : Nat) (asid : BitVec 16) (va : Nat) : Option Leaf :=
  let tile := s.tlbTile die va
  (s.tlb.find? fun e => decide (e.die = die ∧ e.tile = tile ∧ e.asid = asid ∧
      e.vpn = (if e.block then va / 2 ^ 29 else va / 2 ^ 16)) &&
      (!e.leaf.p || decide (e.incarnation = (vget s.front.peers e.leaf.peer).incarnation.toNat))).map fun e =>
    { e.leaf with pa := e.leaf.pa + (if e.block then va % 2 ^ 29 else va % 2 ^ 16) }

/-- Translate a byte: the entry a TLB tile holds, else a walk (R263-R265). -/
def State.translate (s : State) (die : Nat) (asid : BitVec 16) (va : Nat) : Except Code Leaf :=
  match s.tlbHit die asid va with
  | some l => .ok l
  | none => (s.walk asid va).map (·.leaf)

def Leaf.allows (l : Leaf) : Need → Bool
  | .none => true
  | .r => l.r
  | .w => l.w
  | .x => l.x
  | .rw => l.r && l.w

/-- Translate a byte and check the permission of its leaf (R264). -/
def State.translateFor (s : State) (die : Nat) (asid : BitVec 16) (va : Nat) (n : Need) : Except Code Leaf :=
  match s.translate die asid va with
  | .error c => .error c
  | .ok l => if l.allows n then .ok l else .error .access

/-! ### Wait events of launch records (06 R131) -/

/-- Test one wait event: none when the counter's address lies outside the GLOBAL window, does not translate or may not be
read. It stays unmet on a poisoned
line, on a cell that is not VALUE, on a line that cannot be reached (12 R270, R271), and while a peer has still to drop the line (17 R350);
a peer's counter holds what the peer stores. -/
def State.waitTest (s : State) (die : Nat) (asid : BitVec 16) (addr tgt : Nat) : Option Bool :=
  if windowOf addr ≠ some .glob || windowOf (addr + 7) ≠ some .glob then none
  else match s.translateFor die asid addr .r with
  | .error _ => none
  | .ok l =>
    if l.p then some (s.peerUp l.peer && decide (tgt ≤ leNat ((List.range 8).map fun i => Config.peerByte s.tick (l.pa + i))))
    else some (!s.poisoned (l.pa / 64) && (!l.t || decide (s.tag (l.pa / 64) = 0)) && !s.portGone l.pa && !s.recalling (l.pa / 64) &&
      decide (tgt ≤ leNat (s.mem.readBytes l.pa 8)))

/-- The line a counter lies on now. -/
def State.counterLine (s : State) (die : Nat) (asid : BitVec 16) (addr : Nat) : Option Nat :=
  match s.translate die asid addr with
  | .error _ => none
  | .ok l => if l.p then none else some (l.pa / 64)

/-- Test the wait events of a record that lie on `line`, or lay on it when they were last tested, or all of them when no line
is named. A counter of a peer is read again each time. -/
def State.testRec (s : State) (die : Nat) (line : Option Nat) (q : QRec) : QRec :=
  let here (addr : Nat) (last : Option Nat) : Bool :=
    match line with
    | none => true
    | some n => decide (last = some n) || match s.translate die q.asid addr with
      | .ok l => l.p || decide (l.pa / 64 = n)
      | .error _ => false
  let one (addr tgt : Nat) (last : Option Nat) (met failed : Bool) : Bool × Bool :=
    if met then (true, failed)
    else if addr = 0 then (true, failed)
    else if !here addr last then (false, failed)
    else match s.waitTest die q.asid addr tgt with
      | none => (false, true)
      | some b => (b, failed)
  let (a0, a1) := (fldN q.record 128 64, fldN q.record 192 64)
  let m0 := one a0 (fldN q.record 256 32) q.line0 q.met0 q.failed
  let m1 := one a1 (fldN q.record 288 32) q.line1 q.met1 m0.2
  { q with met0 := m0.1, met1 := m1.1, failed := m1.2
           line0 := if here a0 q.line0 then s.counterLine die q.asid a0 else q.line0
           line1 := if here a1 q.line1 then s.counterLine die q.asid a1 else q.line1
           since := if m0.1 && m1.1 && q.since.isNone then some s.cyc else q.since }

/-- Test again, after a store on `line`, the records that wait on a counter there. -/
def State.retest (s : State) (line : Nat) : State :=
  { s with dies := Vector.ofFn fun (d : Fin 4) =>
      let x := s.die d.val
      if x.queues.all fun q => q.isEmpty then x
      else { x with queues := x.queues.map fun q => q.map (s.testRec d.val (some line)) } }

/-! ### What a thread's fetch may see (09 R178) -/

/-- The agent a requester stands for: an FE port, a binding and a command are one agent each (17 R347). -/
def agentOf : Requester → Requester
  | .thread t => .thread t
  | .fePort f _ => .fePort f 0
  | .binding r k _ => .binding r k 0
  | .engine t u q => .engine t u q

/-- A store takes its place after those listed: the unfenced bytes its agent has stored to the line move with it. -/
def CodeLine.add (c : CodeLine) (x : CodeStore) : CodeLine :=
  let mine (y : CodeStore) : Bool := decide (y.who = x.who) && y.fenced.isNone
  let rest := c.stores.filter fun y => !mine y
  match c.stores.find? mine with
  | none => { c with stores := rest ++ [x] }
  | some y =>
    let newer := ((c.stores.dropWhile fun z => !mine z).drop 1).foldl (fun m z => m ||| z.mask) 0
    let keep := y.mask &&& ~~~newer &&& ~~~x.mask
    { c with stores := rest ++ [{ x with data := mergeLine x.data y.data keep, mask := x.mask ||| keep }] }

/-- Does an agent execute a `FENCE`: a thread or an FE port? -/
def canFence : Requester → Bool
  | .thread _ => true
  | .fePort _ _ => true
  | .binding _ _ _ => false
  | .engine _ _ _ => false
/-- A store as fetches will see it. One by what can execute no `FENCE` counts as fenced as it is made (log entry 72). -/
def State.codeStore (s : State) (who : Option Requester) (pa : Nat) (bs : List Byte) : CodeStore :=
  { who := who.map agentOf, done := s.tick, fenced := if who.any canFence then none else some s.tick
    data := lineWith 0 (pa % 64) bs, mask := byteMask (pa % 64) bs.length }
/-- Note a store to a line that held `before` (R178). -/
def State.noteCodeAt (s : State) (key : CodeKey) (before : Line) (x : CodeStore) : State :=
  { s with code := mapSet s.code key ((mapGet { base := before } s.code key).add x) }
/-- Note a store at home by an agent, or by a unit that is none. -/
def State.noteCode (s : State) (who : Option Requester) (before : Line) (pa : Nat) (bs : List Byte) : State :=
  s.noteCodeAt (.home (pa / 64)) before (s.codeStore who pa bs)
/-- What was noted of a line in a bank or of a tentative copy. -/
def State.codeStores (s : State) (key : CodeKey) : List CodeStore := ((mapFind s.code key).map (·.stores)).getD []
def State.dropCode (s : State) (p : CodeKey → Bool) : State := { s with code := s.code.filter fun x => !p x.1 }

/-- An agent's stores to a line that have no fence yet take one. -/
def CodeLine.fence (c : CodeLine) (who : Requester) (now : Nat) : CodeLine :=
  let f (y : CodeStore) : CodeStore := if y.who = some who ∧ y.fenced = none then { y with fenced := some now } else y
  { c with stores := c.stores.map f }
/-- An agent's fence: the stores it has made may reach the fetch of threads that acquire after it (R178). -/
def State.fenceCode (s : State) (who : Requester) : State :=
  { s with code := s.code.map fun (p : CodeKey × CodeLine) => (p.1, p.2.fence (agentOf who) s.tick) }

/-- Must a thread's fetch see a store: its own from before its last fence, another agent's whose fence comes before the thread's last
acquire, which for a thread that has made none is its start (R178; log entry 72)? -/
def CodeStore.seenBy (y : CodeStore) (t : ThreadId) (x : Thread) : Bool :=
  if y.who = some (.thread t) && decide (x.born ≤ y.done) then decide (y.done ≤ x.fencedAt)
  else y.fenced.any fun n => decide (n ≤ max x.born x.acquiredAt)

/-- A line as a thread's fetch sees it, where it holds `now` (R178). -/
def State.codeView (s : State) (t : ThreadId) (key : CodeKey) (now : Line) : Line :=
  match mapFind s.code key with
  | none => now
  | some c =>
    let x := s.thr t
    if c.stores.all fun y => y.seenBy t x then now
    else c.stores.foldl (fun l y => if y.seenBy t x then mergeLine l y.data y.mask else l) c.base
/-- A line as a thread's fetch sees it at its home. -/
def State.codeLine (s : State) (t : ThreadId) (line : Nat) : Line := s.codeView t (.home line) (s.line line)

/-! ### Stores at home (12 R260-R262, R265, R266) -/

/-- A line that changes at its home is dirty there, and no other cache holds it. -/
def State.dirtied (s : State) (before : Line) (poison : Bool) (line : Nat) : State :=
  match s.l2Bring line with
  | some s' => s'.modL2 line fun x =>
      { x with dirty := true, backing := if x.dirty then x.backing else before
               backPoison := if x.dirty then x.backPoison else poison, vec := 0, peerBit := false }
  | none => s
/-- What every change of a line at its home slice entails beside the bytes: copies in remote-data caches and at peers are
invalidated, translations made from it are dropped, it becomes dirty, records that wait on it are tested. Behind a lost
port it can never be written back: it is poisoned and counted (R271). `before` and `poison` are what it held and whether it was
poisoned. -/
def State.touched (s : State) (before : Line) (poison : Bool) (line : Nat) : State :=
  let peers := (s.l2Find line).any (·.peerBit)
  let s := s.dirtied before poison line
  let s := if peers then s.invalidatePeers none line else s
  let s := { s with rdc := s.rdc.filter fun c => decide (c.line ≠ line ∨ c.peer.isSome)
                    tlb := s.tlb.filter fun e => !e.made.contains line }
  let s := if s.portLost (line * 64) then (s.setPoison line true).count (s.homeSlice (line * 64)).1 1 1 else s
  s.retest line

/-- Write bytes into one line at its home, whatever its tag; a whole line clears poison (R262). -/
def State.homeWriteBy (s : State) (who : Option Requester) (pa : Nat) (bs : List Byte) : State :=
  let line := pa / 64
  let before := s.line line
  let poison := s.poisoned line
  let s := ({ s with mem := s.mem.writeBytes pa bs }).noteCode who before pa bs
  let s := if bs.length = 64 then s.setPoison line false else s
  s.touched before poison line
/-- A write by a unit that is no program's. -/
def State.homeWrite (s : State) (pa : Nat) (bs : List Byte) : State := s.homeWriteBy none pa bs
/-- Bytes that others have stored become a line's at its home, with its poison (R258, R262; 07 R151); what fetches know of those
stores comes with them (09 R178). -/
def State.homeMerge (s : State) (line : Nat) (l : Line) (mask : BitVec 64) (poison : Bool) (codes : List CodeStore) : State :=
  let before := s.line line
  let was := s.poisoned line
  let codes := if codes.isEmpty then [{ s.codeStore none (line * 64) (lineBytes l) with mask }] else codes
  let s := { s with mem := s.mem.writeBytes (line * 64) (lineBytes (mergeLine before l mask)) }
  let s := codes.foldl (fun s x => s.noteCodeAt (.home line) before x) s
  (s.setPoison line (poison || (was && decide (mask ≠ BitVec.allOnes 64)))).touched before was line

/-- A store at its home through a mapping with or without tags: a SPORE or FAILED cell of a tagged page becomes VALUE
with its other bytes zero; through an untagged mapping the cell becomes VALUE (R266, R328). -/
def State.homeStoreBy (s : State) (who : Option Requester) (pa : Nat) (tagged : Bool) (bs : List Byte) : State :=
  let line := pa / 64
  if s.tag line = 0 then s.homeWriteBy who pa bs
  else
    let s' := if tagged then { s with mem := s.mem.writeBytes (line * 64) (List.replicate 64 0) } else s
    (s'.setTag line 0).homeWriteBy who pa bs
/-- A store by a unit that is no program's. -/
def State.homeStore (s : State) (pa : Nat) (tagged : Bool) (bs : List Byte) : State := s.homeStoreBy none pa tagged bs

/-- Write any number of bytes at physical addresses, line by line. -/
def State.physWrite (s : State) (pa : Nat) (bs : List Byte) : State :=
  match bs with
  | [] => s
  | _ =>
    let pieces := (List.range ((pa % 64 + bs.length + 63) / 64)).map fun k =>
      let lo := if k = 0 then pa else (pa / 64 + k) * 64
      let hi := min ((pa / 64 + k + 1) * 64) (pa + bs.length)
      (lo, (bs.drop (lo - pa)).take (hi - lo))
    pieces.foldl (fun s p => s.homeStore p.1 false p.2) s

end Sys2Proof.Machine
end

