-- ==== Sys2Proof/Machine/Debug.lean ====
section
/-! DEFINITION. Breakpoint hits, the freeze they start, and trace records (19 R380-R390). -/

namespace Sys2Proof.Machine

/-- Does an entry obey 19 Table 19-1? -/
def bpValid (e : BitVec 256) : Bool :=
  let kind := fldN e 0 2
  let dir := fldN e 4 2
  fldN e 38 26 = 0 && fldN e 96 32 = 0 && fldN e 198 58 = 0 &&
  (match kind with
   | 1 => dir < 2 && (feAt (fldN e 22 2) (fldN e 24 5) (fldN e 29 6)).isSome
   | 2 => dir = 0 && fldN e 128 2 = 0
   | 3 => dir ≠ 0 && fldN e 128 6 = 0 && windowOf (fldN e 128 64) = some .glob
   | _ => false)

/-- An entry that is armed and valid. -/
def bpArmed (e : BitVec 256) : Bool := bitOf e 2 && bpValid e

/-- Entry `k` hits at CYC `at_`: latched; the first hit starts the freeze; a hit disarms the entry unless REARM
(R380, R383). -/
def State.bpHit (s : State) (k : Nat) (unit : Option Stopped) : State :=
  let d := s.front.dbg
  if d.frozen then s
  else
    let e := vget d.bps k
    let d := { d with
      hits := d.hits ||| BitVec.ofNat 16 (2 ^ k)
      hitAt := if d.hitAt.contains s.cyc then d.hitAt else s.cyc :: d.hitAt
      bps := if bitOf e 3 then d.bps else vset d.bps k (e &&& ~~~(4 : BitVec 256))
      stopped := match unit with
        | some u => if d.stopped.contains u then d.stopped else d.stopped ++ [u]
        | none => d.stopped }
    let d := if d.freezeAt.any fun c => decide (c ≤ s.cyc) then d else { d with freezeAt := some s.cyc, first := k, firstV := true }
    { s with front := { s.front with dbg := d } }

/-- A freeze that no breakpoint entry starts: `BRK`, a trigger, a cut (R383, Table 19-4). The earliest origin sets C
(R386, R389). -/
def State.startFreeze (s : State) (origin : Nat) (unit : Option Stopped) : State :=
  let d := s.front.dbg
  let d := { d with stopped := match unit with
    | some u => if d.stopped.contains u then d.stopped else d.stopped ++ [u]
    | none => d.stopped }
  let d := if d.frozen || d.freezeAt.any fun c => decide (c ≤ origin) then d
    else { d with freezeAt := some origin, firstV := false, first := 0 }
  { s with front := { s.front with dbg := d } }

/-- Is the device stopped for a thread, which `ibkdb` may step (R384, R387)? -/
def State.stoppedThread (s : State) (t : ThreadId) : Bool :=
  let d := s.front.dbg
  (d.frozen && match d.step with
    | some (u, _, _) => decide (u ≠ t)
    | none => true) || (!d.frozen && d.stopped.contains (.thread t))

/-- A thread issues the instruction of its step, if it steps. -/
def State.noteStep (s : State) : State :=
  { s with front := { s.front with dbg := { s.front.dbg with step := s.front.dbg.step.map fun p => (p.1, p.2.1, true) } } }

/-- Is the device stopped for an FE? -/
def State.stoppedFe (s : State) (f : FeId) : Bool := s.front.dbg.frozen || s.front.dbg.stopped.contains (.fe f)

/-- Does a port hold its token for the debugger (R381)? -/
def State.stoppedPort (s : State) (f : FeId) (port : Nat) (out : Bool) : Bool :=
  s.front.dbg.frozen || s.front.dbg.stopped.contains (.port f port out)

/-- The armed entries that name an attached ASID (R379, R380). -/
def State.armedFor (s : State) (asid : BitVec 16) : List Nat :=
  if s.front.dbg.attached.contains asid then (List.range 16).filter fun k => !bitOf s.front.dbg.ignored k else []

/-- The watch entries an access hits: ASID, class, bytes on the watched lines (R382). -/
def State.watchHits (s : State) (asid : BitVec 16) (pa len : Nat) (store : Bool) : List Nat :=
  (s.armedFor asid).filter fun k =>
    let e := vget s.front.dbg.bps k
    bpArmed e && fldN e 0 2 = 3 && bitOf e (if store then 5 else 4) && decide (fld e 6 16 = asid) &&
    match mapFind s.front.dbg.watchPa k with
    | none => false
    | some base => decide (base < pa + len ∧ pa < base + 64 * (fldN e 192 6 + 1))

/-- An access that performs at home meets the watch entries. -/
def State.watch (s : State) (asid : BitVec 16) (pa len : Nat) (store : Bool) (unit : Option Stopped) : State :=
  (s.watchHits asid pa len store).foldl (fun s k => s.bpHit k unit) s

/-- The token entries that a port's action on a token with ordinal `ord` hits (R381). -/
def State.tokenHits (s : State) (asid : BitVec 16) (f : FeId) (port : Nat) (out : Bool) (ord : BitVec 32) : List Nat :=
  (s.armedFor asid).filter fun k =>
    let e := vget s.front.dbg.bps k
    bpArmed e && fldN e 0 2 = 1 && fldN e 4 2 = (if out then 0 else 1) && decide (fld e 6 16 = asid) &&
    feAt (fldN e 22 2) (fldN e 24 5) (fldN e 29 6) = some f && fldN e 35 3 = port && fld e 64 32 = ord

/-- A port acts on a token: a hit holds the token at the port and stops the FE (R381, R383). -/
def State.tokenWatch (s : State) (asid : BitVec 16) (f : FeId) (port : Nat) (out : Bool) (ord : BitVec 32) : State :=
  (s.tokenHits asid f port out ord).foldl (fun s k => (s.bpHit k (some (.port f port out))).bpHit k (some (.fe f))) s

/-- The PC entries that match an instruction about to issue (R382). -/
def State.pcHits (s : State) (asid : BitVec 16) (pc : Word) : List Nat :=
  (s.armedFor asid).filter fun k =>
    let e := vget s.front.dbg.bps k
    bpArmed e && fldN e 0 2 = 2 && decide (fld e 6 16 = asid) && decide (fld e 128 64 = pc)

/-- Does an event of a class fit a filter? -/
def Filter.fits (f : Filter) (cls : Nat) (asid : BitVec 16) (r : Option Nat) : Bool :=
  decide (f.asid = asid) && bitOf f.classes cls && match f.res with
    | none => true
    | some k => decide (r = some k)
/-- Was a residency placed while its own queue captured through the trace doorbell (R391)? -/
def State.throughDoor (s : State) (r : Option ResId) : Bool := match r with
  | none => false
  | some r => (s.die r.die).trace.door.contains r.idx
/-- Is capture on at a die for a class of event of a residency, or for one that the doorbell covers (R389, R391)? -/
def Die.captures (x : Die) (cls : Nat) (asid : BitVec 16) (r : Option Nat) (door : Bool) : Bool :=
  !x.trace.stopped && x.trace.ring &&
  (door || ((x.trace.log.find? fun f => f.2.fits cls asid r).map (·.1)).getD false)

/-- A trace record arises at a die (R390, Table 19-2). -/
def State.traceRec (s : State) (d cls : Nat) (asid : BitVec 16) (r : Option Nat) (door : Bool) (page site plane : Nat)
    (a b : Word) : State :=
  if !(s.die d).captures cls asid r door then s
  else
    let w1 := cls + page * 8 + site * 2 ^ 9 + plane * 2 ^ 14
    let bytes := leBytes 8 s.cyc ++ leBytes 8 w1 ++ leBytes 8 a.toNat ++ leBytes 8 b.toNat
    s.modDie d fun x => { x with trace := { x.trace with due := x.trace.due ++ [(page, bytes)] } }

/-- Write one record to a die's ring: a full ring stops capture in mode 0, loses its oldest in mode 1. -/
def State.traceOut (s : State) (d : Nat) (bytes : List Byte) : State :=
  let t := (s.die d).trace
  let size := 2 ^ t.k
  let full := decide (size ≤ t.written)
  if full && t.mode = 0 then
    (s.modDie d fun x => { x with trace := { x.trace with stopped := true } }).count d 16 1
  else
    let s := if full then s.count d 16 1 else s
    let s := s.physWrite (t.base + 32 * (t.written % size)) bytes
    s.modDie d fun x => { x with trace := { x.trace with written := x.trace.written + 1 } }

/-- The records of a cycle go out, in ascending page order (R390). -/
def State.traceFlush (s : State) (d : Nat) : State :=
  match (s.die d).trace.due with
  | [] => s
  | l =>
    let s := s.modDie d fun x => { x with trace := { x.trace with due := [] } }
    ((List.range 48).flatMap fun p => l.filter fun q => decide (q.1 = p)).foldl (fun s q => s.traceOut d q.2) s
/-- The records of the last cycle go out on every die. -/
def State.traceAll (s : State) : State := (List.range 4).foldl (fun s d => s.traceFlush d) s

end Sys2Proof.Machine
end

