-- ==== Sys2Proof/Machine/Mem.lean ====
section
/-! DEFINITION. Accesses as agents make them: windows and pieces, fabric-cache banks, tentative copies, spore cells,
loads, stores and AMOs (12 R254-R271; 07 R148-R150; 13 R289-R295; 15 R317-R328). -/

namespace Sys2Proof.Machine

/-- Who accesses memory: its name as a requester, its ASID, the die it stands on, its residency, the FE whose scratch is
its LOCAL window, since when it has tried (15 R326), whether it stores past a marker cut in progress (17 R357), and whether
it is a store buffer, whose store to a peer has left it once it is sent (17 R358): which store it is. -/
structure Agent where
  who : Requester
  asid : BitVec 16
  die : Nat
  res : Option ResId := none
  fe : Option FeId := none
  since : Nat := 0
  past : Bool := false
  posted : Option Buffered := none
  deriving DecidableEq, Repr, Inhabited

/-- What stops an access: the code, words 1 to 3 of its record, and whether a pool port is lost (12 R271). -/
structure Stop where
  code : Code
  w1 : Word := 0
  w2 : Word := 0
  w3 : Word := 0
  port : Bool := false
  deriving DecidableEq, Repr, Inhabited

/-- A part of an access that lies on one line of one target. -/
structure Piece where
  va : Nat
  len : Nat
  target : Target
  deriving DecidableEq, Repr, Inhabited

def wordN (n : Nat) : Word := BitVec.ofNat 64 n

/-! ### Windows and pieces -/

/-- Cut `[a, a + n)` at multiples of 64. -/
def linePieces (a n : Nat) : List (Nat × Nat) :=
  (List.range ((a % 64 + n + 63) / 64)).map fun k =>
    let lo := if k = 0 then a else (a / 64 + k) * 64
    (lo, min ((a / 64 + k + 1) * 64) (a + n) - lo)

/-- Bytes of scratch of an FE (05 R124). -/
def State.scratchLen (s : State) (f : FeId) : Nat := (s.fe f).scratch

/-- The checks of R254-R256 on the window of an access, and where its scratch bytes lie. -/
def State.window (s : State) (ag : Agent) (a n : Nat) : Except Stop (Window × Option (FeId × Nat)) :=
  let stop (c : Code) : Except Stop (Window × Option (FeId × Nat)) := .error { code := c, w1 := wordN a }
  match windowOf a with
  | none => stop .badWindow
  | some w =>
    if w = .loc && ag.fe.isNone then stop .badWindow
    else if windowOf (a + n - 1) ≠ some w then stop .windowCross
    else match w with
      | .glob => .ok (.glob, none)
      | .pitch =>
        let i := (a - pitchBase) / 0x20000
        let off := (a - pitchBase) % 0x20000
        if 0x20000 < off + n then stop .windowCross
        else match ag.res with
          | none => stop .access
          | some r =>
            let x := s.res r
            let f := feOfIndex r x i
            if !s.hasRes r || x.urgent || decide (24 * x.h * x.w ≤ i) || decide (s.scratchLen f < off + n) then stop .access
            else .ok (.pitch, some (f, off))
      | .loc =>
        match ag.fe with
        | none => stop .badWindow
        | some f =>
          let off := a - localBase
          let urgent := match ag.res with
            | none => false
            | some r => (s.res r).urgent
          if urgent || decide (s.scratchLen f < off + n) then stop .access else .ok (.loc, some (f, off))

/-- Where each line of an access goes: windows first, then PAGE of any line, then ACCESS of any line (09 R181). -/
def State.resolve (s : State) (ag : Agent) (a n : Nat) (need : Need) : Except Stop (List Piece) :=
  if n = 0 then .ok []
  else match s.window ag a n with
    | .error x => .error x
    | .ok (_, some (f, off)) =>
      .ok ((linePieces a n).map fun p => ⟨p.1, p.2, .scratch f (off + (p.1 - a))⟩)
    | .ok (_, none) =>
      let ps := linePieces a n
      let tr := ps.map fun p => (p, s.translate ag.die ag.asid p.1)
      match tr.find? fun x => match x.2 with | .error _ => true | .ok _ => false with
      | some x => .error { code := .page, w1 := wordN x.1.1 }
      | none =>
        match tr.find? fun x => match x.2 with | .error _ => true | .ok l => !l.allows need with
        | some x => .error { code := .access, w1 := wordN x.1.1 }
        | none => .ok (tr.filterMap fun x => match x.2 with
          | .error _ => none
          | .ok l => some ⟨x.1.1, x.1.2, .glob l.pa l x.1.1⟩)

/-- Address of byte 0 of an FE's local memory in `lmem`. -/
def feBase (f : FeId) : Nat := ((f.die * 48 + f.page) * 24 + f.pos) * 131072

/-! ### Peers and lost ports (12 R270, R271) -/

/-- What a new access to a line meets first: a peer that is DOWN or not enrolled, or a lost pool port. -/
def State.gone (s : State) (l : Leaf) (va : Nat) : Option Stop :=
  if l.p then
    if s.peerUp l.peer then none else some { code := .peerGone, w1 := wordN va }
  else if s.portGone l.pa then some { code := .peerGone, w1 := wordN va, port := true }
  else none

/-- The line a leaf leads to, by a number of its own: a peer's lines are numbered apart from the device's. -/
def Leaf.line (l : Leaf) (pa : Nat) : Nat := if l.p then (l.peer + 1) * 2 ^ 49 + pa / 64 else pa / 64

/-- The line a peer returns now (log entry 9). -/
def State.peerLine (s : State) (pa : Nat) : Line :=
  lineOf ((List.range 64).map fun i => Config.peerByte s.tick (pa / 64 * 64 + i))

/-! ### Remote-data caches (12 R261, R270; 17 R350) -/

/-- The bank of a die's remote-data cache that holds a line: a fold of the line number modulo 16, over the banks in use
(R261; 20 R401). The manual names the fold and does not write it out (DESIGN CHOICE, log entry 68). -/
def State.rdcBank (s : State) (die line : Nat) : Option Nat :=
  let f := (List.range 13).foldl (fun x k => x ^^^ (line / 16 ^ k % 16)) 0
  let live := (s.die die).rdcBanks
  live[f % live.length]?

/-- The copy a die holds of a line of the device, or of a peer in its present incarnation. -/
def State.rdcFind (s : State) (die line : Nat) (peer : Option Nat) : Option RdcLine :=
  s.rdc.find? fun c => decide (c.die = die ∧ c.line = line) && decide (c.peer = peer.map fun p =>
    (p, (vget s.front.peers p).incarnation.toNat))

/-- Put a copy into its bank, as its latest used: 262,144 lines fill a bank (01 Table 1-3). -/
def State.rdcPut (s : State) (x : RdcLine) : State :=
  match s.rdcBank x.die x.line with
  | none => s
  | some b =>
    let rest := s.rdc.filter fun c => decide (¬(c.die = x.die ∧ c.line = x.line ∧ c.peer.map (·.1) = x.peer.map (·.1)))
    let same := rest.filter fun c => decide (c.die = x.die ∧ s.rdcBank c.die c.line = some b)
    let rest := if same.length < 262144 then rest else match same.getLast? with
      | none => rest
      | some v => rest.erase v
    { s with rdc := x :: rest }

/-- The stores to a peer's line that the peer has not answered: the die's copy of it is pending (17 R350). -/
def State.pendingAt (s : State) (peer line : Nat) : List Sent :=
  s.sent.filter fun x => decide (x.peer = peer ∧ x.line = line ∧ (x.kind = .write ∨ x.kind = .amo)) && !x.answered

/-- A requester's own request on a line, of a kind, that it asks after. -/
def State.askedFor (s : State) (q : Requester) (peer line : Nat) (k : SentKind) : Option Sent :=
  s.sent.find? fun x => decide (x.who = some q ∧ x.peer = peer ∧ x.line = line ∧ x.kind = k) && x.asks
/-- Is a request of it on a line, at one peer or at any, one that it asks after? -/
def Sent.of (x : Sent) (q : Requester) (peer : Option Nat) (line : Nat) (k : SentKind) : Bool :=
  decide (x.who = some q ∧ x.line = line ∧ x.kind = k) && x.asks && peer.all fun p => decide (x.peer = p)
/-- Is it answered? None when it has asked none. -/
def State.answer (s : State) (q : Requester) (peer : Option Nat) (line : Nat) (k : SentKind) : Option Bool :=
  let mine := s.sent.filter fun x => x.of q peer line k
  if mine.isEmpty then none else some (mine.all (·.answered))
def State.dropSent (s : State) (q : Requester) (peer : Option Nat) (line : Nat) (k : SentKind) : State :=
  { s with sent := s.sent.filter fun x => !x.of q peer line k }
/-- The requests of a requester that their peer's fall has ended are forgotten (R270). -/
def State.dropLost (s : State) (q : Requester) : State :=
  { s with sent := s.sent.filter fun x => !(decide (x.who = some q) && x.lost) }
/-- What an access to a line meets: as `gone`, or its own request was in flight as the peer fell (R270). -/
def State.goneFor (s : State) (q : Requester) (l : Leaf) (pa va : Nat) : Option Stop :=
  if l.p && s.sent.any fun x => decide (x.who = some q ∧ x.peer = l.peer ∧ x.line = pa / 64) && x.lost then
    some { code := .peerGone, w1 := wordN va }
  else s.gone l va

/-- A line as a load at its slice, its cache or its peer gets it: the bytes, whether it is poisoned, and whether the load performed at
the device's own home slice. -/
structure Served where
  line : Line
  poison : Bool
  home : Bool
  deriving DecidableEq, Repr, Inhabited

/-- A load of a peer's line past the caches: it is sent, and waits for the answer, behind the requester's own store or AMO of the line
(R261, R270; 21 R411, R413). The answer stands until the requester's access is over. -/
def State.peerLoad (s : State) (ag : Agent) (pa : Nat) (l : Leaf) (cache : Bool) : Option Served × State :=
  let line := pa / 64
  match s.askedFor ag.who l.peer line .read with
  | some x =>
    if !x.answered then (none, s)
    else (some ⟨x.data, false, false⟩, if cache && !x.stale then
        s.rdcPut { die := ag.die, line, data := x.data, owner := ag.asid
                   peer := some (l.peer, (vget s.front.peers l.peer).incarnation.toNat) }
      else s)
  | none =>
    if (s.pendingAt l.peer line).any fun x => decide (x.who = some ag.who) then (none, s)
    else (none, s.ask { who := some ag.who, peer := l.peer, line, kind := .read, asks := true, msg := .read l.peer (line * 64) 64 })
/-- Loads of a peer's line that are in flight bring what no cache may keep: the line changes. -/
def State.staleReads (s : State) (peer line : Nat) : State :=
  { s with sent := s.sent.map fun x => if x.peer = peer ∧ x.line = line ∧ x.kind = .read then { x with stale := true } else x }

/-- A load at the home slice or in the die's remote-data cache (R260, R261), or none while it waits: for a way, for a pending copy, for
peers to drop the line (17 R350), for a peer's answer. A line that the agent holds a tentative copy of, and one that must not be
cached, goes home. -/
def State.sliceLoad (s : State) (ag : Agent) (pa : Nat) (l : Leaf) (own : Bool) : Option Served × State :=
  let line := pa / 64
  if l.p then
    match (if l.nc || own then none else s.rdcFind ag.die line (some l.peer)) with
    | some c =>
      if (s.pendingAt l.peer line).any fun x => decide (x.who ≠ some ag.who) then (none, s)
      else (some ⟨c.data, c.poison, false⟩, s)
    | none => s.peerLoad ag pa l (!l.nc && !own)
  else if s.sent.any fun x => decide (x.line = line ∧ x.kind = .inv ∧ x.who ≠ some ag.who) && !x.answered then (none, s)
  else
    let remote := decide ((s.homeSlice pa).1 ≠ ag.die) && !l.nc && !own && decide (s.tag line = 0)
    match (if remote then s.rdcFind ag.die line none else none) with
    | some c => (some ⟨c.data, c.poison, false⟩, s)
    | none => match s.l2For line ag.asid with
      | none => (none, s.holdWay ag.who line)
      | some s' =>
        let s' := s'.unholdReq ag.who line
        let got : Served := ⟨s'.line line, s'.poisoned line, true⟩
        (some got, if remote then
            (s'.modL2 line fun x => { x with vec := x.vec ||| BitVec.ofNat 4 (2 ^ ag.die) }).rdcPut
              { die := ag.die, line, data := got.line, poison := got.poison, owner := ag.asid }
          else s')

/-- A die's own copy of a peer's line takes the bytes that one of its agents stores (R261). -/
def State.rdcStore (s : State) (die peer line : Nat) (l : Line) (mask : BitVec 64) (asid : BitVec 16) : State :=
  let s := s.staleReads peer line
  match s.rdcFind die line (some peer) with
  | none => s
  | some c => s.rdcPut { c with data := mergeLine c.data l mask, owner := asid }
/-- A store to a peer's line: it is sent, the die's own copy takes the bytes, and it has performed once the peer has answered
(R261, R270; 17 R350). -/
def State.peerSent (s : State) (ag : Agent) (peer pa : Nat) (bs : List Byte) (asks : Bool) : State :=
  let line := pa / 64
  (s.ask { who := some ag.who, peer, line, asks, note := ag.posted, msg := .write peer pa bs.length (lineOf bs) }).rdcStore ag.die peer line
    (lineWith 0 (pa % 64) bs) (byteMask (pa % 64) bs.length) ag.asid

/-! ### Tentative copies (07 R148-R150, 17 R357) -/

/-- Whose tentative copies an agent's reads see. -/
def State.tentReads (s : State) (r : Option ResId) : Option TentOwner :=
  match r with
  | none => none
  | some r =>
    let x := s.res r
    match x.guard with
    | .surrogate e t => some (.tile r.die e t)
    | .checker e t => some (.tile r.die e t)
    | .exact _ _ => none
    | .none => if x.snap then some (.snap r) else none

/-- Whose tentative copies an agent's stores become. -/
def State.tentWrites (s : State) (r : Option ResId) : Option TentOwner :=
  match r with
  | none => none
  | some r =>
    let x := s.res r
    match x.guard with
    | .surrogate e t => some (.tile r.die e t)
    | .checker _ _ => none
    | .exact _ _ => none
    | .none => if x.snap then some (.snap r) else none

/-- A line as an owner's reads see it: its tentative bytes merged over VALUE (R149). -/
def State.view (s : State) (own : Option TentOwner) (line : Nat) : Line :=
  match own with
  | none => s.line line
  | some o => match s.tent.find? fun t => decide (t.owner = o ∧ t.line = line) with
    | none => s.line line
    | some t => mergeLine (s.line line) t.data t.mask

/-- Is a line poisoned as an owner's reads see it? -/
def State.viewPoison (s : State) (own : Option TentOwner) (line : Nat) : Bool :=
  match own with
  | none => s.poisoned line
  | some o => match s.tent.find? fun t => decide (t.owner = o ∧ t.line = line) with
    | none => s.poisoned line
    | some t => t.poison || (s.poisoned line && decide (t.mask ≠ BitVec.allOnes 64))

/-- An owner's copy of a line. -/
def State.tentCopy (s : State) (own : Option TentOwner) (line : Nat) : Option Tentative :=
  match own with
  | none => none
  | some o => s.tent.find? fun t => decide (t.owner = o ∧ t.line = line)
/-- A line, and whether it is poisoned, under an owner's copy of it (07 R149). -/
def overTent (c : Option Tentative) (l : Line) (poison : Bool) : Line × Bool :=
  match c with
  | none => (l, poison)
  | some t => (mergeLine l t.data t.mask, t.poison || (poison && decide (t.mask ≠ BitVec.allOnes 64)))

def State.guardTile (s : State) (die entry tile : Nat) : Option GTile :=
  match vget (s.die die).guards entry with
  | none => none
  | some g => some (mapGet {} g.tiles tile)
def GuardEntry.modTile (g : GuardEntry) (tile : Nat) (f : GTile → GTile) : GuardEntry :=
  { g with tiles := mapSet g.tiles tile (f (mapGet {} g.tiles tile)) }
def State.modTile (s : State) (die entry tile : Nat) (f : GTile → GTile) : State :=
  s.modDie die fun d => { d with guards := vmod d.guards entry (Option.map fun g => g.modTile tile f) }

/-- Is a store of a tile within its output range (07 R144, R148)? -/
def State.inRange (s : State) (die entry tile va len : Nat) : Bool :=
  match vget (s.die die).guards entry with
  | none => false
  | some g =>
    let lo := fldN g.record 192 64 + tile * fldN g.record 256 32
    decide (lo ≤ va ∧ va + len ≤ lo + fldN g.record 288 32)

/-- May a set take one more tentative copy (R150)? -/
def State.tentRoom (s : State) (line : Nat) : Bool := decide (s.setCopies line < 4)

/-- Put bytes into a part of a copy. -/
def TentPart.put (h : TentPart) (off : Nat) (bs : List Byte) : TentPart :=
  { data := lineWith h.data off bs, mask := h.mask ||| byteMask off bs.length, poison := h.poison && bs.length ≠ 64 }

/-- Put bytes into a copy. Bytes `past` a marker cut in progress leave what is held for that cut as it was (17 R357). -/
def Tentative.put (t : Tentative) (past t0 : Bool) (off : Nat) (bs : List Byte) : Tentative :=
  let old : TentPart := ⟨t.data, t.mask, t.poison⟩
  let new := old.put off bs
  let m := byteMask off bs.length
  { t with data := new.data, mask := new.mask, poison := new.poison, untagged := t.untagged || t0, gone := false
           late := if past then t.late ||| m else t.late &&& ~~~m
           held := if past then some (t.held.getD old) else t.held.map fun h => h.put off bs }

/-- Put bytes into an owner's copy of a line, making the copy if there is none. -/
def State.tentPut (s : State) (o : TentOwner) (who : Requester) (past t0 : Bool) (pa : Nat) (bs : List Byte) : State :=
  let line := pa / 64
  let off := pa % 64
  let has := s.tent.any fun t => decide (t.owner = o ∧ t.line = line)
  let s := if has then s else s.dropCode fun k => decide (k = .tent o line)
  let s := s.noteCodeAt (.tent o line) 0 (s.codeStore (some who) pa bs)
  if has then
    { s with tent := s.tent.map fun t => if t.owner = o ∧ t.line = line then { t.put past t0 off bs with since := s.tick } else t }
  else { s with tent := s.tent ++ [{ ({ owner := o, line, data := 0, mask := 0 } : Tentative).put past t0 off bs with since := s.tick }] }

/-- Is a requester past the marker cut in progress of its pitch: an FE port whose FE has taken it (18 R368)? -/
def State.pastCut (s : State) : Requester → Bool
  | .thread _ => false
  | .engine _ _ _ => false
  | .fePort f _ => (s.fe f).cutTaken.any fun c => !c.2
  | .binding _ _ _ => false

/-! ### Fabric-cache banks (12 R257, R258) -/

/-- The residency whose binding an FE's bank carries: the owner of its active plane, or of the plane that plane 5 holds beneath
it; an urgent residency binds none, and of two that are spliced each has the FEs it runs (R257; 06 R138; 18 R376). -/
def State.bankOwner (s : State) (f : FeId) : Option ResId := s.planeOwner f ((s.fe f).beneath.getD (s.fe f).active)

/-- The FE of the agent's residency whose bank serves a line (R257). -/
def State.bankOf (s : State) (r : Option ResId) (va : Nat) : Option (FeId × Bank) :=
  match r with
  | none => none
  | some r => s.fes.findSome? fun p => match p.2.bank with
    | none => none
    | some b => if b.base ≤ va ∧ va < b.base + b.len ∧ s.bankOwner p.1 = some r then some (p.1, b) else none

def State.setBank (s : State) (f : FeId) (b : Bank) : State := s.modFe f fun x => { x with bank := some b }

/-- The ASID an FE's bank works under. -/
def State.bankAsid (s : State) (f : FeId) : BitVec 16 :=
  match s.bankOwner f with
  | none => 0
  | some r => (s.res r).asid
/-- The runs of set bits of a mask: where each begins and how long it is. -/
def maskRuns (m : BitVec 64) : List (Nat × Nat) :=
  (List.range 64).foldl (fun (r : List (Nat × Nat)) k =>
    if !bitOf m k then r
    else match r.getLast? with
      | some (o, n) => if o + n = k then r.dropLast ++ [(o, n + 1)] else r ++ [(k, 1)]
      | none => [(k, 1)]) []
/-- Send the bytes of a line under a mask from a die to the peer that homes it, as a unit that waits for no answer; agents whose
stores they are wait in their fences (17 R349). A peer that is gone takes none (R270). -/
def State.peerPut (s : State) (die : Nat) (owes : List Requester) (asid : BitVec 16) (peer pa : Nat) (l : Line) (m : BitVec 64) : State :=
  let line := pa / 64
  if !s.peerUp peer then s
  else
    let put (s : State) (r : Nat × Nat) : State :=
      s.ask { who := none, peer, line, owes, msg := .write peer (line * 64 + r.1) r.2 (lineOf (lineSlice l r.1 r.2)) }
    ((maskRuns m).foldl put s).rdcStore die peer line l m asid

/-- Trace an access at home (19 Table 19-2): kind 0 read-class, 1 store-class. -/
def State.traceHome (s : State) (asid : BitVec 16) (r : Option ResId) (pa kind : Nat) : State :=
  s.traceRec (s.homeSlice pa).1 3 asid (r.map (·.idx)) (s.throughDoor r) (slicePage (s.homeSlice pa).2) 0 0
    (wordN (pa / 64 * 64 + kind)) (wordN asid.toNat)

/-- Write a bank line's dirty bytes at its home slice, where it is a store (R328): a SPORE or FAILED cell becomes VALUE, a GROWING
one takes none of them, and watch entries and the trace see it (19 R382, R390). -/
def State.bankFlush (s : State) (f : FeId) (b : BankLine) : State :=
  let key : CodeKey := .bank f (b.pa / 64)
  let codes := s.codeStores key
  let s := s.dropCode fun k => decide (k = key)
  let asid := s.bankAsid f
  if b.dirty = 0 then s
  else match b.peer with
  | some p => s.peerPut f.die b.writers asid p b.pa b.data b.dirty
  | none =>
    let line := b.pa / 64
    if s.tag line = 2 then s
    else
      let s := if s.tag line = 0 then s
        else ({ s with mem := s.mem.writeBytes (line * 64) (List.replicate 64 0) } : State).setTag line 0
      let s := (s.homeMerge line b.data b.dirty b.poison codes).ownLine line asid
      (s.watch asid b.pa 64 true (some (.fe f))).traceHome asid (s.bankOwner f) b.pa 1

/-- Write back every dirty line of an FE's bank and empty it (R258). -/
def State.bankWriteBack (s : State) (f : FeId) : State :=
  match (s.fe f).bank with
  | none => s
  | some b => (b.lines.foldl (fun s p => s.bankFlush f p.2) s).setBank f { b with lines := [] }

/-- The bank line that holds `va`, after a fill from its home slice or its peer if it was missing (R257): the line it displaces goes
first. None while the fill waits. -/
def State.bankFill (s : State) (ag : Agent) (f : FeId) (b : Bank) (l : Leaf) (pa va : Nat) : Option BankLine × State :=
  let i := va / 64 % b.n
  let fresh (s : State) : Option BankLine × State :=
    match s.sliceLoad ag pa l true with
    | (none, s) => (none, s)
    | (some g, s) =>
      let x : BankLine := { va := va / 64 * 64, pa := pa / 64 * 64, dirty := 0, peer := if l.p then some l.peer else none
                            data := g.line, poison := g.poison }
      let b := ((s.fe f).bank).getD b
      (some x, (s.setBank f { b with lines := mapSet b.lines i x }).dropCode fun k => decide (k = .bank f (pa / 64)))
  match mapFind b.lines i with
  | none => fresh s
  | some x => if x.va = va / 64 * 64 then (some x, s)
    else fresh ((s.bankFlush f x).setBank f { b with lines := mapErase b.lines i })

/-- Does a bank serve this access: a bound range, a cacheable leaf, a VALUE cell (R257)? -/
def State.bankServes (s : State) (r : Option ResId) (l : Leaf) (va : Nat) : Option (FeId × Bank) :=
  if l.nc || (!l.p && decide (s.tag (l.pa / 64) ≠ 0)) then none else s.bankOf r va

/-- The bank line that serves an access now, without a fill. -/
def State.bankHeld (s : State) (r : Option ResId) (l : Leaf) (va : Nat) : Option BankLine :=
  match s.bankServes r l va with
  | none => none
  | some (_, b) => (mapFind b.lines (va / 64 % b.n)).filter fun (x : BankLine) => decide (x.va = va / 64 * 64)

/-- The line that a read of a residency's agent gets, whether it is poisoned, and what the caches then hold: a bank, filled if it
misses; else the home slice or the remote-data cache. Of a bound line that has a tentative copy of the agent's own the bank takes
no fill (07 R148), and the agent reads the copy over what stands (R149). None while the read waits. -/
def State.readLine (s : State) (ag : Agent) (pa : Nat) (l : Leaf) (va : Nat) : Option Served × State :=
  let copy := s.tentCopy (s.tentReads ag.res) (l.line pa)
  let laid (a : Line) (q h : Bool) : Served := ⟨(overTent copy a q).1, (overTent copy a q).2, h⟩
  match s.bankServes ag.res l va, copy, s.bankHeld ag.res l va with
  | some (f, b), none, _ =>
    let (x, s') := s.bankFill ag f b l pa va
    (x.map fun x => ⟨x.data, x.poison, false⟩, s')
  | some _, some _, some x => (some (laid x.data x.poison true), s)
  | some _, some _, none
  | none, _, _ =>
    let (got, s') := s.sliceLoad ag pa l copy.isSome
    (got.map fun g => laid g.line g.poison g.home, s')

/-! ### Spore cells (15 R317-R328) -/

/-- The ASID of a cell that is not VALUE (Tables 15-2 to 15-4). -/
def cellAsid (t : BitVec 2) (l : Line) : BitVec 16 :=
  if t = 1 then fld l 144 16 else fld l 48 16

/-- Write a cell's 64 bytes and its tag at its home; banks never hold a cell that is not VALUE (R317). -/
def State.setCell (s : State) (line : Nat) (l : Line) (t : BitVec 2) : State :=
  let before := s.line line
  let poison := s.poisoned line
  let was := s.tag line
  let s := if t = 0 then s else { s with fes := s.fes.map fun (p : FeId × Fe) => (p.1, { p.2 with bank := p.2.bank.map fun b =>
    { b with lines := b.lines.filter fun x => decide (x.2.pa ≠ line * 64) } }) }
  let s := ({ s with mem := s.mem.writeBytes (line * 64) (lineBytes l) }.setTag line t).setPoison line false
  let s := (s.noteCode none before (line * 64) (lineBytes l)).touched before poison line
  if t ≠ 0 then s.ownLine line (cellAsid t l) else if was ≠ 0 then s.ownLine line (cellAsid was before) else s

/-- Change the words of a growth record without any other effect. -/
def State.growth (s : State) (line : Nat) (f : Line → Line) : State :=
  if s.tag line = 2 then { s with mem := s.mem.writeBytes (line * 64) (lineBytes (f (s.line line))) } else s

/-- Replace field `[lo + len - 1 : lo]` of a line. -/
def putFld (l : Line) (lo len v : Nat) : Line :=
  (l &&& ~~~(BitVec.ofNat 512 ((2 ^ len - 1) * 2 ^ lo))) ||| BitVec.ofNat 512 (v % 2 ^ len * 2 ^ lo)

def State.slot (s : State) (line : Nat) : Nat × Nat := s.homeSlice (line * 64)
def State.waitersAt (s : State) (k : Nat × Nat) : List Waiter := mapGet [] (s.die k.1).waiters k.2
def State.setWaiters (s : State) (k : Nat × Nat) (ws : List Waiter) : State :=
  s.modDie k.1 fun d => { d with waiters := mapSet d.waiters k.2 ws }

/-- WCOUNT and HEAD of a growth record follow the waiter store (Table 15-3). -/
def State.syncGrowth (s : State) (line : Nat) : State :=
  let mine := (s.waitersAt (s.slot line)).filter fun w => decide (w.cell = line)
  s.growth line fun l => putFld (putFld l 32 7 mine.length) 40 7 ((mine.head?.map (·.entry)).getD 127)

/-- The growth record's fields. -/
def growerOf (l : Line) : BitVec 32 := fld l 0 32

/-- The command of an engine of a thread that has a number. -/
def Thread.cmd (x : Thread) (u : Unit3) (seq : Nat) : Option EngineCmd :=
  let q := match u with
    | .se => x.se
    | .tf => x.tf
    | .ce => x.ce
  (q.running ++ q.waiting).find? fun c => decide (c.seq = seq)

/-- Does GROWER name the task that was the `n`-th to start on a thread (R322)? -/
def growerIs (g : BitVec 32) (t : ThreadId) (n : Nat) : Bool :=
  decide (fldN g 30 2 = 0 ∧ t.die = fldN g 28 2 ∧ t.page = fldN g 22 6 ∧ t.tid = fldN g 19 3 ∧ t.tid ≠ 0 ∧
    n % 2 ^ 19 = fldN g 0 19)

/-- The cell a requester grows as a task, or for the task that queued it, while the cell's GROWER still names that task
(R322). -/
def State.growsCell (s : State) (q : Requester) : Option Nat :=
  let still (t : ThreadId) (n c : Nat) : Option Nat :=
    if s.tag c = 2 && growerIs (growerOf (s.line c)) t n then some c else none
  match q with
  | .thread t => match (s.thr t).role with
    | .evaluator c _ => still t (s.thr t).startSeq c
    | .none => none
    | .control _ => none
    | .task _ _ => none
    | .urgent _ => none
  | .engine t u k => match (s.thr t).cmd u k with
    | none => none
    | some c => c.cell.bind (still t c.start)
  | .fePort _ _ => none
  | .binding _ _ _ => none

/-- Set WAITON of the cell a requester grows (R324, R325). -/
def State.waitOn (s : State) (q : Requester) (line : Nat) : State :=
  match s.growsCell q with
  | none => s
  | some c => s.growth c fun l => putFld l 64 64 (line * 64)

/-- Take a waiter out of its slice; its grower waits on nothing any more. -/
def State.dropWaiter (s : State) (w : Waiter) : State :=
  let k := s.slot w.cell
  let s := s.setWaiters k ((s.waitersAt k).filter fun x => decide (x.entry ≠ w.entry))
  (s.waitOn w.who 0).syncGrowth w.cell

/-- A requester gives up every access it has under way: its waiter entries, requests held at slices, answers from peers (09 R182,
15 R326). -/
def State.unparkWho (s : State) (q : Requester) : State :=
  let all := (List.range 4).flatMap fun d => (s.die d).waiters.flatMap fun p => p.2.filter fun w => decide (w.who = q)
  all.foldl (fun s w => s.dropWaiter w) { s with
    returns := s.returns.filter fun r => decide (r.1 ≠ q)
    heldReqs := s.heldReqs.filter fun h => decide (h.who ≠ q)
    sent := (s.sent.filter fun x => !(decide (x.who = some q) && (x.answered || x.lost))).map fun x =>
      if x.who = some q ∧ x.note = none then
        { x with who := none, asks := false, owes := if x.kind = .write ∨ x.kind = .amo then [agentOf q] else [] } else x }

/-- A binding gives up every access of its elements. -/
def State.unparkBinding (s : State) (r : ResId) (k : Nat) : State :=
  let mine (q : Requester) : Bool := match q with
    | .binding r' k' _ => decide (r' = r ∧ k' = k)
    | _ => false
  let all := s.sent.filterMap (·.who) ++ s.heldReqs.map (·.who) ++ s.dies.toList.flatMap fun d => d.waiters.flatMap fun p => p.2.map (·.who)
  (all.filter mine).foldl State.unparkWho s

/-- Is a requester parked on a line? It stays so whatever becomes of the cell but a fill or a failure (R327, R328). -/
def State.parkedAt (s : State) (q : Requester) (line : Nat) : Bool :=
  (s.waitersAt (s.slot line)).any fun w => decide (w.who = q ∧ w.cell = line)
/-- Is a requester parked on any cell? -/
def State.parkedOn (s : State) (q : Requester) : Option Nat :=
  (List.range 4).findSome? fun d => (s.die d).waiters.findSome? fun p =>
    (p.2.find? fun w => decide (w.who = q)).map (·.cell)

/-- `old` and the new word of an AMO on a `w`-byte word (13 R290). -/
def amoWord (op : BitVec 3) (w : Nat) (signed : Bool) (old b c : Nat) : Option Nat :=
  let m := 2 ^ (8 * w)
  let sg (x : Nat) : Int := if signed && decide (m / 2 ≤ x) then (x : Int) - m else x
  match op.toNat with
  | 0 => some ((old + b) % m)
  | 1 => some b
  | 2 => if old = c then some b else none
  | 3 => some (if sg old ≤ sg b then old else b)
  | 4 => some (if sg old ≥ sg b then old else b)
  | 5 => some (old &&& b)
  | 6 => some (old ||| b)
  | _ => some (old ^^^ b)

/-- The words an AMO stores into a line, each with its byte offset (13 R290, R295). -/
def amoWrites (a : Acc) (l : Line) : List (Nat × List Byte) :=
  match a with
  | .load => []
  | .amo op w n off signed b c =>
    (List.range n).filterMap fun i =>
      let old := leNat (lineSlice l (off + i * w) w)
      match amoWord op w signed old (leNat (lineSlice b (i * w) w)) (leNat (lineSlice c (i * w) w)) with
      | none => none
      | some v => some (off + i * w, leBytes w v)

/-- The unit that a watch hit stops: a binding's is its owner's stream engine (19 R383). -/
def State.reqUnit (s : State) : Requester → Stopped
  | .thread t => .thread t
  | .engine t _ _ => .engine t
  | .fePort f _ => .fe f
  | .binding r k _ => match mapFind (s.res r).binds k with
    | none => .engine ⟨r.die, 0, 0⟩
    | some b => .engine b.owner

/-- Trace an agent's access at home. -/
def State.traceAccess (s : State) (ag : Agent) (pa kind : Nat) : State := s.traceHome ag.asid ag.res pa kind

/-- What a store of a piece comes to. -/
inductive Put where
  | done
  | stop (x : Stop)
  | wait
  deriving DecidableEq, Repr, Inhabited

/-- A tentative copy takes a store's bytes; a new copy takes a way of its set first (R267; 07 R150). -/
def State.tentTake (s : State) (o : TentOwner) (ag : Agent) (has : Bool) (l : Leaf) (at_ : Nat) (bs : List Byte) : Put × State :=
  match (if has then some s else s.l2Way (at_ / 64)) with
  | none => (.wait, s.holdWay ag.who (at_ / 64))
  | some s => (.done, (s.unholdReq ag.who (at_ / 64)).tentPut o ag.who (ag.past || s.pastCut ag.who) (!l.t && !l.p) at_ bs)

/-- A store that a tile's surrogate or a SNAP residency makes (R148, R150, R357, Table 15-5). The lines of the store that
meets the limit are judged each on its own. A store through a leaf with P = 1 makes its copy in this device, in the set its line would have
here, and the peer takes the bytes at the commit (DESIGN CHOICE, log entry 81): R148 names the home slice, and keeps copies out of peers. -/
def State.tentStore (s : State) (o : TentOwner) (ag : Agent) (pa : Nat) (l : Leaf) (va : Nat) (bs : List Byte) :
    Put × State :=
  let line := l.line pa
  let at_ := line * 64 + pa % 64
  let cell := l.t && !l.p && s.tag line ≠ 0
  let other := cell && cellAsid (s.tag line) (s.line line) ≠ ag.asid
  let has := s.tent.any fun t => decide (t.owner = o ∧ t.line = line)
  match o with
  | .tile d e t =>
    match s.guardTile d e t with
    | none => (.done, s)
    | some g =>
      if g.state ≠ .running && g.limitAt ≠ some s.tick then (.done, s)
      else if other then (.stop { code := .access, w1 := wordN va }, s)
      else if !s.inRange d e t va bs.length || cell then (.done, s.modTile d e t fun g => { g with marked := true })
      else if !has && !s.tentRoom line then
        (.done, s.modTile d e t fun g => { g with state := .fallback, limitAt := some s.tick })
      else s.tentTake o ag has l at_ bs
  | .snap _ =>
    if other then (.stop { code := .access, w1 := wordN va }, s)
    else if cell then (.done, s)
    else if !has && !s.tentRoom line then (.wait, s)
    else s.tentTake o ag has l at_ bs

/-- Store bytes of a released AMO into its cell: tentatively if its requester's stores are (07 R148, 17 R357). -/
def State.releaseStore (s : State) (ag : Agent) (line : Nat) (va : Word) (p : Nat × List Byte) : Put × State :=
  match s.tentWrites ag.res with
  | some o => s.tentStore o ag (line * 64 + p.1) { t := true } va.toNat p.2
  | none => (.done, (s.homeWriteBy (some ag.who) (line * 64 + p.1) p.2).ownLine line ag.asid)

/-- One released waiter performs its access on the filled cell, as its requester sees it (R327; 07 R149). An AMO that finds no
room for its tentative copy is left to its requester, who makes the access again. -/
def State.releaseOne (s : State) (line : Nat) (w : Waiter) : State :=
  let s := s.waitOn w.who 0
  let ag : Agent := { who := w.who, asid := w.asid, die := (s.slot line).1, res := w.res, since := w.since }
  let l := s.view (s.tentReads w.res) line
  let out := (amoWrites w.acc l).foldl (fun (r : Put × State) p => match r.1 with
    | .done => r.2.releaseStore ag line w.va p
    | .stop _ => r
    | .wait => r) (.done, s)
  match out.1 with
  | .done =>
    let s : State := { out.2 with returns := out.2.returns ++ [(w.who, line, Returned.line l)] }
    let s := (s.watch w.asid (line * 64 + w.off) w.len false (some (s.reqUnit w.who))).traceAccess ag (line * 64) 0
    match w.acc with
    | .load => s
    | .amo _ _ _ _ _ _ _ =>
      (s.watch w.asid (line * 64 + w.off) w.len true (some (s.reqUnit w.who))).traceAccess ag (line * 64) 1
  | .stop _ => s
  | .wait => s

/-- Release the waiters of a cell in arrival order: each performs its access on the cell, or takes the failure
(R327). -/
def State.release (s : State) (line : Nat) (fail : Bool) : State :=
  let k := s.slot line
  let mine := (s.waitersAt k).filter fun w => decide (w.cell = line)
  let s := s.setWaiters k ((s.waitersAt k).filter fun w => decide (w.cell ≠ line))
  let (f0, f1) := (lineWord (s.line line) 0, lineWord (s.line line) 1)
  mine.foldl (fun s w =>
    if fail then { s.waitOn w.who 0 with returns := s.returns ++ [(w.who, line, Returned.failed f0 f1)] }
    else s.releaseOne line w) s

/-- Fill a cell: 64 bytes, VALUE, waiters released if it was GROWING (R327, R328). -/
def State.fillCell (s : State) (line : Nat) (l : Line) : State :=
  let growing := s.tag line = 2
  let s := s.setCell line l 0
  if growing then s.release line false else s

/-- Fail a cell: failure record with the cell's ASID, FAILED, waiters fail if it was GROWING (R327, R328). -/
def State.failCell (s : State) (line : Nat) (l : Line) (asid : BitVec 16) : State :=
  let t := s.tag line
  let a := if t = 0 then asid else cellAsid t (s.line line)
  let s := s.setCell line (putFld l 48 16 a.toNat) 3
  if t = 2 then s.release line true else s

/-- A device failure: CODE, DETAIL = GROWER, INFO zero (R155, R321, R322). For the `SPORE.FAIL` that a guard performs with its status the
manual gives no DETAIL and INFO of its own: the model's are these (DESIGN CHOICE, log entry 80). -/
def State.failGrowing (s : State) (line : Nat) (code : Nat) : State :=
  if s.tag line = 2 then
    let g := (growerOf (s.line line)).toNat
    s.failCell line (putFld (putFld 0 0 16 code) 16 32 g) 0
  else s

/-- Does a piece lie on a line that no new access reaches (R270, R271)? -/
def State.pieceGone (s : State) (p : Piece) : Bool :=
  match p.target with
  | .scratch _ _ => false
  | .glob _ l va => (s.gone l va).isSome

/-- A read of a record by a unit that is no program (15 R320): VALUE cells, not poisoned, on lines that can be reached. -/
def State.unitRead (s : State) (die : Nat) (asid : BitVec 16) (a n : Nat) (need : Need) : Except Code (List Byte) :=
  let ag : Agent := { who := .engine ⟨0, 0, 0⟩ .se 0, asid, die }
  match s.resolve ag a n need with
  | .error x => .error (if x.code = .access then .access else .page)
  | .ok ps =>
    let bad := ps.any fun p => match p.target with
      | .glob pa l _ => l.t && s.tag (pa / 64) ≠ 0
      | .scratch _ _ => true
    let poison := ps.any fun p => match p.target with
      | .glob pa l _ => !l.p && s.poisoned (pa / 64)
      | .scratch _ _ => false
    if bad then .error .access
    else if poison then .error .poison
    else if ps.any (s.pieceGone) then .error .peerGone
    else .ok (ps.flatMap fun p => match p.target with
      | .glob pa l _ => if l.p then (List.range p.len).map fun i => Config.peerByte s.tick (pa + i)
                        else s.mem.readBytes pa p.len
      | .scratch _ _ => [])

/-- A write by a unit that is no program: the bytes perform at their homes; a refusal writes nothing. -/
def State.unitWrite (s : State) (die : Nat) (asid : BitVec 16) (a : Nat) (bs : List Byte) : Except Code State :=
  let ag : Agent := { who := .engine ⟨0, 0, 0⟩ .se 0, asid, die }
  match s.resolve ag a bs.length .w with
  | .error x => .error (if x.code = .access then .access else .page)
  | .ok ps => if ps.any (s.pieceGone) then .error .peerGone else .ok ((ps.foldl (fun (r : State × List Byte) p => match p.target with
    | .scratch _ _ => (r.1, r.2.drop p.len)
    | .glob pa l _ => (if l.p then r.1.peerPut die [] asid l.peer pa (lineWith 0 (pa % 64) (r.2.take p.len)) (byteMask (pa % 64) p.len)
                       else (r.1.homeStore pa l.t (r.2.take p.len)).ownLine (pa / 64) asid, r.2.drop p.len)) (s, bs)).1)

/-- A guard record that breaks 07 R144. -/
def guardBad (g : Line) : Bool :=
  let surr := fldN g 0 64
  let check := fldN g 64 64
  let exact := fldN g 128 64
  let obase := fldN g 192 64
  let ostride := fldN g 256 32
  let olen := fldN g 288 32
  let tm1 := fldN g 448 16
  let pair := bitOf g 470
  fldN g 473 7 ≠ 0 || surr = 0 || surr % 64 ≠ 0 || exact = 0 || exact % 64 ≠ 0 ||
  (if pair then check = 0 || check % 64 ≠ 0 else check ≠ 0) ||
  obase % 64 ≠ 0 || fldN g 320 64 % 64 ≠ 0 || olen = 0 || olen % 64 ≠ 0 || ostride % 64 ≠ 0 ||
  (decide (0 < tm1) && decide (ostride < olen)) || fldN g 471 2 = 0 ||
  decide (2 ^ 55 < obase + tm1 * ostride + olen)

/-- Put a packet at the end of a core's task queue (08 R169). -/
def State.enqueueTask (s : State) (die page : Nat) (p : Packet) : State :=
  s.modDie die fun d => { d with taskq := mapSet d.taskq page (mapGet [] d.taskq page ++ [p]) }
/-- An evaluator comes to a core's task queue: while the queue holds 32 packets it waits behind it (08 R169; 15 R321). -/
def State.enqueueEval (s : State) (die page : Nat) (p : Packet) : State :=
  if (mapGet [] (s.die die).taskq page).length < 32 then s.enqueueTask die page p
  else s.modDie die fun d => { d with taskWait := mapSet d.taskWait page (mapGet [] d.taskWait page ++ [p]) }
/-- A packet leaves the head of a core's task queue, and the evaluator that has waited longest for its place enters. -/
def State.dequeueTask (s : State) (die page : Nat) : State :=
  s.modDie die fun d =>
    let w := mapGet [] d.taskWait page
    { d with taskq := mapSet d.taskq page ((mapGet [] d.taskq page).drop 1 ++ w.take 1)
             taskWait := if w.isEmpty then d.taskWait else mapSet d.taskWait page (w.drop 1) }

/-- GROWER as a cell germinates (R322). -/
def growerCode (rule guard : Nat) (die page : Nat) (spore : Line) : Nat :=
  if rule = 2 then 2 ^ 30 + fldN spore 160 2 * 2 ^ 28 + fldN spore 162 8 * 2 ^ 20
  else if rule = 3 then 3 * 2 ^ 30
  else if guard = 1 then 2 * 2 ^ 30 + die * 2 ^ 28 + 2 ^ 23
  else die * 2 ^ 28 + page * 2 ^ 22

/-- The page an ARGS spore's task goes to, if ARGP names one (R321, 08 R168). -/
def State.argsPage (s : State) (die : Nat) (asid : BitVec 16) (argp : Nat) : Option (Nat × Nat) :=
  if windowOf argp = some .glob then
    match s.translate die asid argp with
    | .error _ => none
    | .ok l => if l.p then none else some ((s.homeSlice l.pa).1, slicePage (s.homeSlice l.pa).2)
  else none

/-- The VA of the cell an access meets: its first byte's (15 R318). -/
def cellVa (va : Nat) : Word := wordN (va / 64 * 64)

/-- Start the evaluator of a cell that has just germinated (R321, R155). -/
def State.startEvaluator (s : State) (line : Nat) (va : Word) (spore : Line) : State :=
  let k := s.slot line
  let asid := fld spore 144 16
  let rule := fldN spore 128 2
  let argp := lineWord spore 1
  let packet : Packet :=
    { entry := lineWord spore 0, named := va
      args := Vector.ofFn fun (i : Fin 6) => [argp, lineWord spore 5, lineWord spore 6, lineWord spore 7].getD i.val 0
      done := 0, asid, owner := none, cell := some line }
  if rule = 2 then s.modDie k.1 fun d => { d with services := d.services ++ [⟨line, cellVa va.toNat, spore⟩] }
  else if rule = 3 then
    ({ s with front := { s.front with hostSpores := s.front.hostSpores ++ [(line * 64, spore)] } }).irq 9
  else if rule = 1 then
    match s.argsPage k.1 asid argp.toNat with
    | none => s.failGrowing line (codeNum .argRange)
    | some (d, p) => s.enqueueEval d p packet
  else if bitOf spore 130 then
    match s.unitRead k.1 asid (lineWord spore 0).toNat 64 .r with
    | .error c => s.failGrowing line (codeNum c)
    | .ok bs =>
      if guardBad (lineOf bs) then s.failGrowing line (codeNum .argRange)
      else s.modDie k.1 fun d => { d with guardWait := d.guardWait ++ [(lineOf bs, asid, line)] }
  else s.enqueueEval k.1 (slicePage k.2) packet

/-- Does a requester count as the grower named: for a task its thread and the commands that it queued (R322)? -/
def State.isGrower (s : State) (ag : Agent) (g : BitVec 32) : Bool :=
  match fldN g 30 2 with
  | 0 =>
    match ag.who with
    | .thread t => growerIs g t (s.thr t).startSeq
    | .engine t u k => ((s.thr t).cmd u k).any fun c => growerIs g t c.start
    | .fePort _ _ => false
    | .binding _ _ _ => false
  | 1 => ag.res = some ⟨fldN g 28 2, fldN g 20 8⟩
  | 2 => !bitOf g 23 && match ag.res with
    | none => false
    | some r => decide (r.die = fldN g 28 2) && match (s.res r).guard with
      | .none => false
      | .surrogate e _ => e = fldN g 24 4
      | .checker e _ => e = fldN g 24 4
      | .exact e _ => e = fldN g 24 4
  | _ => false

/-- The lowest free entry of a slice's waiter store (R324: 64 entries). -/
def State.freeWaiter (s : State) (k : Nat × Nat) : Option Nat :=
  (List.range 64).find? fun e => !(s.waitersAt k).any fun w => decide (w.entry = e)

/-- Park a requester on a GROWING cell: a waiter entry, WCOUNT, and for a task grower its WAITON and a chase to make
(R324). No free entry: refused, to try again. -/
def State.park (s : State) (ag : Agent) (line : Nat) (va len : Nat) (acc : Acc) : State :=
  let k := s.slot line
  match s.freeWaiter k with
  | none => (s.holdReq ag.who line .entry).count k.1 9 1
  | some e =>
    let w : Waiter := { entry := e, who := ag.who, va := cellVa va, cell := line, acc, asid := ag.asid, res := ag.res
                        since := min (s.heldSince ag.who line) ag.since, off := va % 64, len }
    let s := s.unholdReq ag.who line
    let s := (s.setWaiters k (s.waitersAt k ++ [w])).syncGrowth line
    match s.growsCell ag.who with
    | none => s
    | some _ =>
      let s := s.waitOn ag.who line
      let note (t : ThreadId) : State := s.modThr t fun x => { x with chases := x.chases ++ [(ag.who, line)] }
      match ag.who with
      | .thread t => note t
      | .engine t _ _ => note t
      | .fePort _ _ => s
      | .binding _ _ _ => s

/-- A load-class access meets a SPORE cell of its ASID: germinate and park as one action (R319). -/
def State.germinate (s : State) (ag : Agent) (line va len : Nat) (acc : Acc) : State :=
  let k := s.slot line
  let growing := (s.tags.filter fun p => p.2 = 2 && s.slot p.1 = k).length
  if 16384 ≤ growing then s.holdReq ag.who line .growth
  else if (s.freeWaiter k).isNone then (s.holdReq ag.who line .entry).count k.1 9 1
  else
    let spore := s.line line
    let page := match fldN spore 128 2 with
      | 1 => (s.argsPage k.1 (fld spore 144 16) (lineWord spore 1).toNat).getD (k.1, slicePage k.2)
      | _ => (k.1, slicePage k.2)
    let grower := growerCode (fldN spore 128 2) (fldN spore 130 1) page.1 page.2 spore
    let rec0 := putFld (putFld (putFld (putFld 0 0 32 grower) 40 7 127) 48 16 (fldN spore 144 16)) 128 64 s.cyc
    let s := s.setCell line rec0 2
    let s := s.park ag line va len acc
    s.startEvaluator line (wordN va) spore

/-- What a tagged cell that is not VALUE does to a load-class access (R319, R324, R328): a fault, or it waits. -/
def State.cellLoad (s : State) (ag : Agent) (line va len : Nat) (acc : Acc) : Option Stop × State :=
  let t := s.tag line
  let l := s.line line
  if cellAsid t l ≠ ag.asid then (some { code := .access, w1 := wordN va }, s)
  else if t = 1 then (none, s.germinate ag line va len acc)
  else if t = 2 then
    if s.isGrower ag (growerOf l) then
      (some { code := .sporeSelf, w1 := cellVa va, w2 := wordN (growerOf l).toNat }, s)
    else (none, s.park ag line va len acc)
  else (some { code := .sporeFailed, w1 := cellVa va, w2 := lineWord l 0, w3 := lineWord l 1 }, s)

/-! ### Load-class accesses and stores -/

/-- What a load-class access of one line gets. -/
inductive Got where
  | line (l : Line) (poison : Bool)
  | stop (x : Stop)
  | wait
  deriving DecidableEq, Repr, Inhabited

/-- A load-class access of a piece: scratch; a returned park; a cell that is not VALUE; a bank, a remote-data cache or the home
slice. A requester that is parked on the line stays so, whatever the cell has become (R328). A load that performs at home meets
watch entries and the trace (19 R382, R390). -/
def State.loadPiece (s : State) (ag : Agent) (p : Piece) (acc : Acc) : Got × State :=
  match p.target with
  | .scratch f off => (.line (lineOf (s.lmem.readBytes (feBase f + off / 64 * 64) 64)) false, s)
  | .glob pa l va =>
    match s.goneFor ag.who l pa va with
    | some x => (.stop x, s.dropLost ag.who)
    | none =>
      let line := pa / 64
      match s.returns.find? fun r => decide (r.1 = ag.who ∧ r.2.1 = line ∧ l.p = false) with
      | some (_, _, .failed w0 w1) =>
        (.stop { code := .sporeFailed, w1 := cellVa va, w2 := w0, w3 := w1 },
          { s with returns := s.returns.filter fun r => decide (¬(r.1 = ag.who ∧ r.2.1 = line)) })
      | some (_, _, .line x) => (.line x false, s)
      | none =>
        if l.t && !l.p && s.parkedAt ag.who line then (.wait, s)
        else if l.t && !l.p && s.tag line ≠ 0 then
          if (s.parkedOn ag.who).isSome then (.wait, s)
          else match s.l2For line ag.asid with
            | none => (.wait, s.holdWay ag.who line)
            | some s => match s.cellLoad ag line va p.len acc with
              | (some x, s') => (.stop x, s')
              | (none, s') => (.wait, s')
        else
          match s.readLine ag pa l va with
          | (none, s') => (.wait, s')
          | (some g, s') =>
            (.line g.line g.poison, if g.home then
              (s'.watch ag.asid pa p.len false (some (s'.reqUnit ag.who))).traceAccess ag pa 0 else s')

/-- A store into a bound range that its bank does not take: the bank's line is dropped, with what it noted (R258). -/
def State.bankDrop (s : State) (r : Option ResId) (va : Nat) : State :=
  match s.bankOf r va with
  | none => s
  | some (f, b) => s.setBank f { b with lines := b.lines.filter fun x => decide (x.2.va ≠ va / 64 * 64) }

/-- Before a store at home performs, the copies that peers may hold are invalidated and their answers awaited (R261): false
while they are. -/
def State.askPeers (s : State) (q : Requester) (line : Nat) : Bool × State :=
  match s.answer q none line .inv with
  | some false => (false, s)
  | some true => (true, s.dropSent q none line .inv)
  | none =>
    if (s.l2Find line).any (·.peerBit) && (List.range 64).any s.peerUp then
      (false, (s.invalidatePeers (some q) line).modL2 line fun x => { x with peerBit := false })
    else (true, s)

/-- A store at a line's home: a peer that answers, or a slice that has a way for the line (R260, R261, R266, R267). The
storer's own die keeps its copy, with the new bytes. A store buffer's store to a peer has left it once it is sent; another agent's
waits for the answer (17 R358). -/
def State.sliceStore (s : State) (ag : Agent) (l : Leaf) (pa : Nat) (bs : List Byte) : Put × State :=
  let line := pa / 64
  if l.p then
    if ag.posted.isSome then (.done, s.peerSent ag l.peer pa bs false)
    else match s.answer ag.who (some l.peer) line .write with
    | some true => (.done, s.dropSent ag.who (some l.peer) line .write)
    | some false => (.wait, s)
    | none => (.wait, s.peerSent ag l.peer pa bs true)
  else match s.askPeers ag.who line with
    | (false, s) => (.wait, s)
    | (true, s) =>
      if (s.l2Bring line).isNone then (.wait, s.holdWay ag.who line)
      else
        let had := s.rdcFind ag.die line none
        let s := ((s.unholdReq ag.who line).homeStoreBy (some ag.who) pa l.t bs).ownLine line ag.asid
        let s := match had with
          | none => s
          | some c => (s.modL2 line fun x => { x with vec := x.vec ||| BitVec.ofNat 4 (2 ^ ag.die) }).rdcPut
              { c with data := s.line line, poison := s.poisoned line, owner := ag.asid }
        (.done, (s.watch ag.asid pa bs.length true (some (s.reqUnit ag.who))).traceAccess ag pa 1)

/-- Are a residency's stores kept out of its banks though they are not tentative: those of a guard's checker and exact
residencies (R258)? -/
def State.passesBank (s : State) (r : Option ResId) : Bool := match r with
  | none => false
  | some r => decide ((s.res r).guard ≠ .none)

/-- Put bytes into a bank line. -/
def BankLine.take (x : BankLine) (who : Requester) (now va : Nat) (bs : List Byte) : BankLine :=
  { x with data := lineWith x.data (va % 64) bs, dirty := x.dirty ||| byteMask (va % 64) bs.length
           poison := x.poison && bs.length ≠ 64, since := now
           writers := if x.writers.contains (agentOf who) then x.writers else agentOf who :: x.writers }

/-- A plain store of a piece (Table 15-5, R257, R266, R270). -/
def State.storePiece (s : State) (ag : Agent) (p : Piece) (bs : List Byte) : Put × State :=
  match p.target with
  | .scratch f off => (.done, { s with lmem := s.lmem.writeBytes (feBase f + off) bs })
  | .glob pa l va =>
    match s.goneFor ag.who l pa va with
    | some x => (.stop x, s.dropLost ag.who)
    | none =>
      let line := pa / 64
      match s.tentWrites ag.res with
      | some o =>
        match (s.bankDrop ag.res va).tentStore o ag pa l va bs with
        | (.done, s') => (.done, if l.p then s'
            else (s'.watch ag.asid pa bs.length true (some (s'.reqUnit ag.who))).traceAccess ag pa 1)
        | x => x
      | none =>
        if l.t && !l.p && s.tag line ≠ 0 && cellAsid (s.tag line) (s.line line) ≠ ag.asid then
          (.stop { code := .access, w1 := wordN va }, s)
        else if l.t && !l.p && s.tag line = 2 then
          (.stop { code := .sporeBusy, w1 := cellVa va, w2 := wordN (growerOf (s.line line)).toNat }, s)
        else if s.passesBank ag.res then (s.bankDrop ag.res va).sliceStore ag l pa bs
        else match s.bankServes ag.res l va with
          | some (f, b) => match s.bankFill ag f b l pa va with
            | (none, s') => (.wait, s')
            | (some x, s') =>
              let b' := ((s'.fe f).bank).getD b
              let s' := s'.noteCodeAt (.bank f line) x.data (s.codeStore (some ag.who) pa bs)
              (.done, s'.setBank f { b' with lines := mapSet b'.lines (va / 64 % b.n) (x.take ag.who s.tick va bs) })
          | none => s.sliceStore ag l pa bs

/-- The part of a piece's target at byte `k` of its line. -/
def Piece.at (p : Piece) (k n : Nat) : Piece :=
  match p.target with
  | .scratch f off => ⟨p.va / 64 * 64 + k, n, .scratch f (off / 64 * 64 + k)⟩
  | .glob pa l va => ⟨va / 64 * 64 + k, n, .glob (pa / 64 * 64 + k) l (va / 64 * 64 + k)⟩

/-- An AMO on a line that a peer homes, and that no bank and no tentative copy serves: it is sent behind the requester's own stores to
the line, and the peer performs it as one access and answers with the old words (R290, R295; 17 R351; 21 R411). The die's copy of the
line goes. -/
def State.peerAmo (s : State) (ag : Agent) (pa : Nat) (l : Leaf) (acc : Acc) : Got × State :=
  let line := pa / 64
  match s.askedFor ag.who l.peer line .amo with
  | some x => if x.answered then (.line x.data false, s) else (.wait, s)
  | none =>
    if (s.pendingAt l.peer line).any fun x => decide (x.who = some ag.who) then (.wait, s)
    else match acc with
    | .load => (.wait, s)
    | .amo op w n off signed b c =>
      let s := s.ask { who := some ag.who, peer := l.peer, line, kind := .amo, asks := true, off
                       msg := .amo l.peer (line * 64 + off) op w n signed b c }
      let s := s.staleReads l.peer line
      (.wait, { s with rdc := s.rdc.filter fun c => decide (¬(c.line = line ∧ c.peer.map (·.1) = some l.peer)) })
/-- Does a peer perform an AMO on a piece? -/
def State.amoAtPeer (s : State) (ag : Agent) (p : Piece) : Option (Nat × Leaf) :=
  match p.target with
  | .scratch _ _ => none
  | .glob pa l va =>
    if l.p && (s.goneFor ag.who l pa va).isNone && (s.tentWrites ag.res).isNone && (s.passesBank ag.res || (s.bankServes ag.res l va).isNone)
    then some (pa, l) else none

/-- An AMO that stores nothing meets the watch entries of the store class, if it has performed at a home slice, and the records that
wait on its line are tested (06 R131). -/
def State.amoWatch (s : State) (ag : Agent) (p : Piece) : State :=
  match p.target with
  | .scratch _ _ => s
  | .glob pa l va => if l.p || (s.bankServes ag.res l va).isSome then s
      else (s.watch ag.asid pa p.len true (some (s.reqUnit ag.who))).retest (pa / 64)

/-- An AMO on one line: the load, and unless the line is poisoned the stores, as one action (R290, R295). A park that
has returned has stored already (R327). An AMO is of the store class to a watch entry whether it stores or not (19 R382). -/
def State.amoPiece (s : State) (ag : Agent) (p : Piece) (acc : Acc) : Got × State :=
  match s.amoAtPeer ag p with
  | some (pa, l) => s.peerAmo ag pa l acc
  | none =>
  let back : Bool := match p.target with
    | .scratch _ _ => false
    | .glob pa _ _ => s.returns.any fun r => decide (r.1 = ag.who ∧ r.2.1 = pa / 64)
  match s.loadPiece ag p acc with
  | (.line l false, s') =>
    if back then (.line l false, s')
    else
      let ws := amoWrites acc l
      let out := ws.foldl (fun (r : Put × State) w => match r.1 with
        | .done => r.2.storePiece ag (p.at w.1 w.2.length) w.2
        | .stop _ => r
        | .wait => r) (.done, s')
      match out with
      | (.done, s'') => (.line l false, if ws.isEmpty then s''.amoWatch ag p else s'')
      | (.stop x, s'') => (.stop x, s'')
      | (.wait, s'') => (.wait, s'')
  | x => x

/-- Forget the returns and the answers of peers that an access has used. -/
def State.tookReturns (s : State) (q : Requester) : State :=
  { s with returns := s.returns.filter fun r => decide (r.1 ≠ q)
           sent := s.sent.filter fun x => !(decide (x.who = some q ∧ (x.kind = .read ∨ x.kind = .amo)) && x.answered) }

/-- Forget those of the lines of pieces alone: an access of one piece has used them (15 R327). -/
def State.tookPieces (s : State) (q : Requester) (ps : List Piece) : State :=
  let on (peer : Option Nat) (line : Nat) : Bool := ps.any fun p => match p.target with
    | .scratch _ _ => false
    | .glob pa l _ => decide (pa / 64 = line ∧ peer = if l.p then some l.peer else none)
  { s with returns := s.returns.filter fun r => !(decide (r.1 = q) && on none r.2.1)
           sent := s.sent.filter fun x => !(decide (x.who = some q ∧ (x.kind = .read ∨ x.kind = .amo)) && x.answered && on (some x.peer) x.line) }

/-- Bytes of a piece in its line. -/
def Piece.bytes (p : Piece) (l : Line) : List Byte :=
  match p.target with
  | .scratch _ off => lineSlice l (off % 64) p.len
  | .glob pa _ _ => lineSlice l (pa % 64) p.len

/-- Load all pieces: the bytes and whether any line is poisoned, a fault of the first piece that has one, or a wait. -/
def State.loadPieces (s : State) (ag : Agent) : List Piece → (Except Stop (Option (List Byte × Bool))) × State
  | [] => (.ok (some ([], false)), s)
  | p :: ps =>
    match s.loadPiece ag p .load with
    | (.stop x, s') => (.error x, s')
    | (.wait, s') => (.ok none, s')
    | (.line l q, s') =>
      match s'.loadPieces ag ps with
      | (.ok (some (bs, q')), s'') => (.ok (some (p.bytes l ++ bs, q || q')), s'')
      | (.ok none, s'') => (.ok none, s'')
      | (.error x, s'') => (.error x, s'')

/-- Would a store of a piece fault now? -/
def State.storeStop (s : State) (ag : Agent) (p : Piece) (bs : List Byte) : Option Stop :=
  match (s.storePiece ag p bs).1 with
  | .stop x => some x
  | .done => none
  | .wait => none

/-- Store bytes into pieces: no part is performed when a piece faults. -/
def State.storePieces (s : State) (ag : Agent) (ps : List Piece) (bs : List Byte) : Put × State :=
  let parts := (ps.foldl (fun (r : List (Piece × List Byte) × List Byte) p =>
    (r.1 ++ [(p, r.2.take p.len)], r.2.drop p.len)) ([], bs)).1
  match parts.findSome? fun x => s.storeStop ag x.1 x.2 with
  | some x => (.stop x, s)
  | none =>
    if parts.any fun x => (s.storePiece ag x.1 x.2).1 = .wait then
      (.wait, parts.foldl (fun s x => match s.storePiece ag x.1 x.2 with
        | (.wait, s') => s'
        | (.done, _) => s
        | (.stop _, _) => s) s)
    else (.done, parts.foldl (fun s x => (s.storePiece ag x.1 x.2).2) s)

/-- What a record read of pieces gets (R320): every cell VALUE, no line poisoned, and then every line within reach (09 R181). Its reads
are as its agent's loads are but that no cell germinates: a bank, its slice or a cache serves each, and may have it wait (R257, R260,
R261, R267). None while it waits. -/
def State.recordPieces (s : State) (ag : Agent) : List Piece → Except Stop (Option (List Byte)) × State
  | [] => (.ok (some []), s)
  | p :: ps =>
    match p.target with
    | .scratch f off => match s.recordPieces ag ps with
      | (.error x, s') => (.error x, s')
      | (.ok r, s') => (.ok (r.map fun bs => s.lmem.readBytes (feBase f + off) p.len ++ bs), s')
    | .glob pa l va =>
      if l.t && !l.p && s.tag (pa / 64) ≠ 0 then (.error { code := .access, w1 := wordN va }, s)
      else match s.goneFor ag.who l pa va with
      | some x =>
        if !l.p && s.poisoned (pa / 64) then (.error { code := .poison, w1 := wordN va }, s)
        else match (s.dropLost ag.who).recordPieces ag ps with
          | (.error y, s') => (.error (if y.code = .peerGone then x else y), s')
          | (.ok _, s') => (.error x, s')
      | none => match s.readLine ag pa l va with
        | (none, s') => (.ok none, s')
        | (some g, s') =>
          if g.poison then (.error { code := .poison, w1 := wordN va }, s')
          else match (if g.home then s'.traceAccess ag pa 0 else s').recordPieces ag ps with
            | (.error x, s'') => (.error x, s'')
            | (.ok r, s'') => (.ok (r.map fun bs => lineSlice g.line (pa % 64) p.len ++ bs), s'')

/-- A read of a record by a program's instruction or an engine (R320), and what it leaves in the caches. -/
def State.recordRead (s : State) (ag : Agent) (a n : Nat) (need : Need := .r) : Except Stop (Option (List Byte)) × State :=
  match s.resolve ag a n need with
  | .error x => (.error x, s)
  | .ok ps => match s.recordPieces ag ps with
    | (.ok none, s') => (.ok none, s')
    | (.ok (some bs), s') => (.ok (some bs), s'.tookReturns ag.who)
    | (.error x, s') => (.error x, s'.tookReturns ag.who)

end Sys2Proof.Machine
end

