-- ==== Sys2Proof/Machine/Ops.lean ====
section
/-! DEFINITION. Threads: registers, token FIFOs, store buffer; deliveries, freezes, the ending of threads and
residencies; taking a trap and returning from one (09 R174-R197; 18 R359-R366; 06 R141). -/

namespace Sys2Proof.Machine

/-! ### Registers -/

/-- Read a general register: g0 reads zero (09 R175). -/
def Thread.reg (x : Thread) (r : BitVec 5) : Word := if r = 0 then 0 else vget x.g r.toNat
/-- Write a general register: g0 discards the write (09 R175). -/
def Thread.setReg (x : Thread) (r : BitVec 5) (v : Word) : Thread := if r = 0 then x else { x with g := vset x.g r.toNat v }

/-- The thread whose instruction runs. -/
def State.cur (s : State) : Thread := s.thr s.curThread
def State.modCur (s : State) (f : Thread → Thread) : State := s.modThr s.curThread f
def State.rd (s : State) (r : BitVec 5) : Word := s.cur.reg r
def State.wr (s : State) (r : BitVec 5) (v : Word) : State := s.modCur fun x => x.setReg r v

/-- The residency of the thread whose instruction runs. -/
def State.curRes (s : State) : Option ResId := s.cur.role.res

/-- A thread as an agent of memory. -/
def State.agent (s : State) (t : ThreadId) : Agent :=
  let x := s.thr t
  { who := .thread t, asid := x.asid, die := t.die, res := x.role.res, since := s.cyc }
def State.curAgent (s : State) : Agent := s.agent s.curThread

/-- Does a thread run a task, spawned or evaluating (09 R176)? -/
def Role.isTask : Role → Bool
  | .none => false
  | .control _ => false
  | .task _ _ => true
  | .evaluator _ _ => true
  | .urgent _ => false

/-! ### Token FIFOs (01 R21, 09 R182, R183) -/

/-- The FIFO from unit `u` to unit `v`: CC 0, SE 1, TF 2, CE 3 (Table 9-3). -/
def fifoIdx (u v : Nat) : Nat := 3 * u + (if v < u then v else v - 1)
def unitNum : Unit3 → Nat
  | .se => 1
  | .tf => 2
  | .ce => 3

/-- Take a token, if the FIFO holds one; a token given back to the full FIFO then enters (R182). -/
def Thread.popTok (x : Thread) (i : Nat) : Option Thread :=
  let n := vget x.fifo i
  if n = 0 then none
  else if 0 < vget x.returned i then some { x with returned := vmod x.returned i (· - 1) }
  else some { x with fifo := vset x.fifo i (n - 1) }
/-- Add a token, if the FIFO holds fewer than 16 and none given back waits for it. -/
def Thread.pushTok (x : Thread) (i : Nat) : Option Thread :=
  if vget x.fifo i < 16 ∧ vget x.returned i = 0 then some { x with fifo := vmod x.fifo i (· + 1) } else none
/-- Give a popped token back (R182). -/
def Thread.giveBack (x : Thread) (i : Nat) : Thread :=
  if vget x.fifo i < 16 then { x with fifo := vmod x.fifo i (· + 1) } else { x with returned := vmod x.returned i (· + 1) }

/-! ### Fault record queue, reports and deliveries -/

/-- Origin word (18 Table 18-2). -/
def originWord (die page res : Nat) (asid : BitVec 16) (cls thread : Nat) : Word :=
  wordN (die + page * 4 + res * 2 ^ 8 + asid.toNat * 2 ^ 16 + cls * 2 ^ 32 + thread * 2 ^ 34)
def originRes (r : Option ResId) : Nat := match r with
  | none => 0xFF
  | some r => r.idx

/-- A record becomes due at a die's fault record queue (18 R365): class 0 report, 1 replayable, 2 fatal. -/
def State.frqDue (s : State) (die : Nat) (r : Rec8) (cls : Nat) (src : Option Requester) : State :=
  s.modDie die fun d => { d with frq := { d.frq with due := d.frq.due ++ [(r, cls, src)] } }

/-- Discard the replayable records, due or waiting, of a residency (18 R366). -/
def State.dropReplays (s : State) (r : ResId) : State :=
  let mine (w : Rec8) : Bool := fldN (vget w 7) 8 8 = r.idx
  s.modDie r.die fun d => { d with frq := { d.frq with
    due := d.frq.due.filter fun x => !(decide (x.2.1 = 1) && mine x.1)
    waiting := d.frq.waiting.filter fun w => !mine w.words } }

/-! ### Store buffer (13 R289, R440) -/

/-- A name for byte `i` of a target: equal names, same byte. -/
def targetByte (x : Target) (i : Nat) : Nat × Nat :=
  match x with
  | .glob pa l _ => (if l.p then 1 + l.peer else 0, pa + i)
  | .scratch f off => (100, feBase f + off + i)

/-- Word 2 of a record with the pool-port mark (12 R271). -/
def portMark (w : Word) (port : Bool) : Word := if port then w ||| (1 <<< 63) else w

/-- The record of a store that faults as it performs (R440). -/
def storeFaultRec (s : State) (t : ThreadId) (b : Buffered) (y : Stop) : Rec8 :=
  let x := s.thr t
  rec8 [wordN (codeNum y.code + 2 ^ 16), b.va, portMark b.pc y.port, wordN b.word.toNat, 0, 0, 0,
    originWord t.die t.page (originRes x.role.res) x.asid 0 t.tid]

/-- A store that its thread has fenced since is within the fence as it performs (09 R178). -/
def State.noteFenced (s : State) (t : ThreadId) (b : Buffered) : State :=
  if b.fenced then (s.fenceCode (.thread t)).modThr t fun x => { x with fencedAt := s.tick } else s

/-- Perform the oldest buffered store; a fault is delivered to the thread and the store is not performed. False when
the store cannot perform now. -/
def State.performStore (s : State) (t : ThreadId) : Bool × State :=
  match (s.thr t).sbuf with
  | [] => (true, s)
  | b :: bs =>
    let rest (s : State) : State := s.modThr t fun x => { x with sbuf := bs }
    match s.storePiece { s.agent t with posted := some b } ⟨b.va.toNat, b.len, b.target⟩ (leBytes b.len b.data.toNat) with
    | (.done, s') => (true, (rest s').noteFenced t b)
    | (.wait, s') => (false, s')
    | (.stop x, s') => (true, (rest s').modThr t fun y =>
        { y with held := y.held ++ [{ words := storeFaultRec s t b x, freezes := false }] })

/-- Perform buffered stores, oldest first, at most `n` of them. -/
def State.drainN (s : State) (t : ThreadId) : Nat → State
  | 0 => s
  | n + 1 =>
    match s.performStore t with
    | (true, s') => s'.drainN t n
    | (false, s') => s'
/-- Perform every buffered store. -/
def State.drain (s : State) (t : ThreadId) : State := s.drainN t (s.thr t).sbuf.length
def State.drained (s : State) (t : ThreadId) : Bool := (s.thr t).sbuf.isEmpty

/-- Perform the buffered stores up to the last one to a line (R290). -/
def State.drainLine (s : State) (t : ThreadId) (key : Nat × Nat) : State :=
  let sb := (s.thr t).sbuf
  let n := (sb.zipIdx.filter fun b =>
    let k := targetByte b.1.target 0
    decide (k.1 = key.1 ∧ k.2 / 64 = key.2 / 64)).foldl (fun m b => max m (b.2 + 1)) 0
  s.drainN t n

/-- The value a thread's own buffer gives byte `i` of a target, if it gives one: the latest store to it (R289). -/
def Thread.buffered (x : Thread) (tg : Target) (i : Nat) : Option Byte :=
  let key := targetByte tg i
  x.sbuf.foldl (fun r b =>
    let k := targetByte b.target 0
    if k.1 = key.1 ∧ k.2 ≤ key.2 ∧ key.2 < k.2 + b.len then (leBytes b.len b.data.toNat)[key.2 - k.2]? else r) none

/-- The value that the thread's buffered stores of before its last fence give a byte, to its own fetch (09 R178). -/
def Thread.fencedByte (x : Thread) (tg : Target) (i : Nat) : Option Byte :=
  ({ x with sbuf := x.sbuf.filter (·.fenced) } : Thread).buffered tg i

/-! ### The pitch: discarding and ending (06 R141, 09 R180) -/

/-- A plane with no token in any port. -/
def Plane.emptied (p : Plane) : Plane :=
  { p with inp := p.inp.map fun q => { q with fifo := [], resident := none, owed := 0, headSeen := false, eosOut := q.eosIn }
           outp := p.outp.map fun q => { q with reg := [], eos := false } }

/-- A store that has issued performs whatever becomes of its firing (18 R362). -/
def MemOp.lingers (o : MemOp) : Bool :=
  decide (o.stage = .issued) && match o.kind with
    | .store _ _ => true
    | .stt _ _ => true
    | .null => false
    | .load _ => false
    | .amo _ _ _ => false
    | .fence _ => false
    | .ldt _ => false

/-- An FE with the tokens and the work of a residency's planes discarded. -/
def Fe.emptied (f : Fe) (x : Residency) : Fe :=
  { f with planes := Vector.ofFn fun (i : Fin 6) =>
             let p := vget f.planes i.val
             if x.usesPlane i.val then p.emptied else p
           firing := f.firing.filter fun g => !x.usesPlane g.plane
           firingBelow := f.firingBelow.filter fun g => !x.usesPlane g.plane
           port := f.port.filter fun o => !x.usesPlane o.plane || o.lingers
           mtu := f.mtu.filter fun o => !x.usesPlane o.plane
           mtuOut := f.mtuOut.filter fun o => !x.usesPlane o.plane
           cutTaken := none }

/-- Is a site inside the pitch's rectangle? -/
def Residency.covers (x : Residency) (row col : Nat) : Bool := x.pages.contains (row / 4 * 8 + col / 8)

def unitQueue (u : Unit3) (x : Thread) : EngineQueue := match u with
  | .se => x.se
  | .tf => x.tf
  | .ce => x.ce
def modUnit (u : Unit3) (x : Thread) (f : EngineQueue → EngineQueue) : Thread := match u with
  | .se => { x with se := f x.se }
  | .tf => { x with tf := f x.tf }
  | .ce => { x with ce := f x.ce }

/-- Remove a binding with its command, its parked elements and its replayable record; no push is made (13 R273). -/
def State.dropBinding (s : State) (r : ResId) (k : Nat) : State :=
  match mapFind (s.res r).binds k with
  | none => s
  | some b =>
    let s := s.unparkBinding r k
    let s := s.modThr b.owner fun x => { x with se := { x.se with
      running := x.se.running.filter fun c => decide (c.seq ≠ b.cmd.seq) } }
    let s := s.modDie r.die fun d => { d with frq := { d.frq with
      waiting := d.frq.waiting.filter fun w => match w.src with
        | .binding r' k' _ => !decide (r' = r ∧ k' = k)
        | .thread _ => true
        | .fePort _ _ => true
        | .engine _ _ _ => true } }
    s.modRes r fun x => { x with binds := mapErase x.binds k }

/-- Empty the fabric of a pitch: tokens in ports, on tracks and on the page network, firings, port accesses, tile
operations and bindings (06 R141). -/
def State.discardFabric (s : State) (r : ResId) : State :=
  let x := s.res r
  let s := x.binds.foldl (fun s b => s.dropBinding r b.1) s
  let mine (f : FeId) : Bool := decide (f.die = r.die) && x.pages.contains f.page
  let s := s.fes.foldl (fun s p =>
    if mine p.1 then p.2.port.foldl (fun s o => if x.usesPlane o.plane && !o.lingers then s.unparkWho (.fePort p.1 o.id) else s) s
    else s) s
  let fes := s.fes.map fun (p : FeId × Fe) => if mine p.1 then (p.1, p.2.emptied x) else p
  let latches := s.latches.filter fun (p : LatchKey × Token) =>
    !(decide (p.1.die = r.die ∧ p.1.p5 = x.urgent) && x.covers p.1.row p.1.col)
  let s := { s with fes, latches }
  s.modRes r fun y => { y with
    edges := y.edges.map fun e => { e with netq := [], credits := 0 }
    rots := y.rots.map fun q => { q with
      slots := q.slots.map fun z => { z with inflight := false, queue := [], notice := none }
      saving := none, notices := [] }
    cut := none }

/-- Write back the banks of a pitch (12 R258). -/
def State.writeBackBanks (s : State) (r : ResId) : State :=
  let x := s.res r
  (s.fes.filter fun p => decide (p.1.die = r.die) && x.pages.contains p.1.page && p.2.bank.isSome).foldl
    (fun s p => s.bankWriteBack p.1) s

/-- End a residency as `CFG.FREE` ends it, with a status; the first ending stands (06 R141). -/
def State.endRes (s : State) (r : ResId) (status : Nat) : State :=
  if (s.res r).freed || !s.hasRes r then s
  else
    let s := s.dropReplays r
    let s := if (s.res r).state = .armed then (s.discardFabric r).writeBackBanks r else s
    s.modRes r fun x => { x with freed := true, status, switch := none, ringRun := false }

/-- A thread's request for leave is withdrawn; units granted already go back to the pool (06 R135; 09 R182). -/
def State.cancelLeave (s : State) (t : ThreadId) : State :=
  let mine (q : LeaveReq) : Bool := match q.who with
    | .cfgArm u _ => u = t
    | .pwrAsk u _ => u = t
    | .arm _ => false
  let back := ((s.front.leaveReqs.filter fun q => mine q && q.granted).map (·.units)).foldl (· + ·) 0
  { s with front := { s.front with leaveReqs := s.front.leaveReqs.filter fun q => !mine q
                                   poolFree := s.front.poolFree + back } }

/-- A plane switch that waits for its conditions is abandoned with its thread (09 R182). -/
def State.dropSwitch (s : State) (t : ThreadId) : State :=
  match (s.thr t).role.res with
  | none => s
  | some r => s.modRes r fun x => { x with switch := x.switch.filter fun w => decide (w.asker ≠ some t) }

/-- A save revolution is abandoned with its thread: entry resumes, and the slot-fault records it kept are due
(11 R244, R251). -/
def State.dropSaving (s : State) (t : ThreadId) : State :=
  match (s.thr t).role.res with
  | none => s
  | some r =>
    let recs := (s.res r).rots.flatMap fun q => match q.saving with
      | none => []
      | some v => if v.who = t then v.recs else []
    let s := s.modRes r fun x => { x with rots := x.rots.map fun q => { q with saving := q.saving.filter fun v => decide (v.who ≠ t) } }
    if recs.isEmpty then s
    else s.modThr t fun x => { x with held := x.held ++ recs.map fun w => { words := w } }

/-- A thread gives up what it waits for: its waiter entries, its request for leave, its plane switch, its save revolution
(09 R182). -/
def State.giveUp (s : State) (t : ThreadId) : State :=
  (((s.unparkWho (.thread t)).cancelLeave t).dropSwitch t).dropSaving t

/-- A cell that a task was growing fails as the task ends; a cell it has filled, failed or set anew is no longer its
own (15 R322). -/
def State.growerEnds (s : State) (t : ThreadId) (cell code : Nat) : State :=
  if s.tag cell = 2 && growerIs (growerOf (s.line cell)) t (s.thr t).startSeq then s.failGrowing cell code else s

/-- What is left of an engine queue as its thread ends: its FIFOs go, and with them the pushes; a command that is complete but for
its push has nothing left to do (09 R180, R195). -/
def EngineQueue.left (q : EngineQueue) : EngineQueue :=
  let mute (c : EngineCmd) : EngineCmd := { c with push := 0 }
  { waiting := q.waiting.map mute, running := (q.running.filter fun c => !c.done).map mute }
/-- What is left of a thread that ends: its coordinates' start count and its engines' queues (09 R180, R195). -/
def Thread.scrubbed (x : Thread) : Thread :=
  { startSeq := x.startSeq, se := x.se.left, tf := x.tf.left, ce := x.ce.left, cmdSeq := x.cmdSeq, fetched := x.fetched, asid := x.asid, paused := x.paused }

/-- `EndThread` (09 R180, 15 R322) of a thread whose buffered stores have performed: the record goes to the die's queue as a
report, and the thread's work ends. Word 0 is the code alone, with ASYNC in a record that had it (13 Table 13-1). Records
that are held with it, of stores that faulted as they performed, find no handler either (R182). -/
def State.threadEnds (s : State) (t : ThreadId) (words : Rec8) (rest : List Rec8) : State :=
  let x := s.thr t
  let code := fldN (vget words 0) 0 16
  let org := originWord t.die t.page (originRes x.role.res) x.asid 0 t.tid
  let post (s : State) (w : Rec8) : State := s.frqDue t.die (vset (vset w 0 (wordN (fldN (vget w 0) 0 17))) 7 org) 0 none
  let s := (words :: rest).foldl post s
  let s := s.modThr t Thread.scrubbed
  match x.role with
  | .none => s
  | .control r => (s.endRes r (code + 0x100)).modRes r fun y => { y with halted := true, thread := Option.none }
  | .urgent r => (s.endRes r (code + 0x100)).modRes r fun y => { y with halted := true, thread := Option.none }
  | .task (some r) _ => s.modRes r fun y => { y with tasks := y.tasks - 1, status := if y.freed then y.status else code + 0x100 }
  | .task Option.none _ => s
  | .evaluator c _ => s.growerEnds t c code

/-- `EndThread` (09 R179, R180): buffered stores perform first, in order; while one cannot, the thread waits to end. -/
def State.endThread (s : State) (t : ThreadId) (words : Rec8) : State :=
  let n := if (s.thr t).ending.isSome then 0 else (s.thr t).held.length
  let s := (s.giveUp t).drain t
  if s.drained t then s.threadEnds t words (((s.thr t).held.drop n).map (·.words))
  else s.modThr t fun x => { x with ending := some words, held := x.held.drop n, status := .stalled }

/-- A record is delivered to a residency's control thread: held until a boundary; kept for a thread that has not
started; with the thread halted the residency ends (09 R182). A freezing delivery freezes the pitch (18 R362). -/
def State.deliver (s : State) (r : ResId) (d : Delivery) : State :=
  if (s.res r).freed || !s.hasRes r then s
  else
    let s := if d.freezes then s.modRes r fun x => { x with freeze := x.freeze + 1 } else s
    let d := if d.freezes then { d with at_ := s.cyc } else d
    let x := s.res r
    match x.thread with
    | some t => s.modThr t fun y => { y with held := y.held ++ [d] }
    | none =>
      if x.halted then
        let code := fldN (vget d.words 0) 0 16
        (s.frqDue r.die (vset d.words 0 (wordN code)) 0 none).endRes r (code + 0x100)
      else s.modRes r fun x => { x with early := x.early ++ [d] }

/-- The FABRIC delivery of a fault at a slot of an FE (10 R206, 18 R361). -/
def State.fabricFault (s : State) (r : ResId) (f : FeId) (plane block slot : Nat) (ordinal : Nat) (x : Stop) (w4 : Nat) :
    State :=
  let y := s.res r
  let w2 := y.index f + plane * 2 ^ 11 + block * 2 ^ 16 + slot * 2 ^ 24
  s.deliver r { freezes := true, words := rec8 [wordN (codeNum x.code + 2 ^ 16), x.w1, portMark (wordN w2) x.port,
    wordN ordinal, wordN w4, 0, 0, originWord f.die f.page r.idx y.asid 0 0] }

/-! ### Traps (09 R179-R182) -/

/-- Give a popped token back and forget a wait. -/
def Thread.resetWait (x : Thread) : Thread :=
  let x := match x.popTaken with
    | none => x
    | some i => x.giveBack i
  { x with popTaken := none, pushOwed := none, waitFrom := none, stage := 0, bar := none, copied := none, status := .ready }

/-- An address that TVEC or TPC holds: bits [1:0] read zero (00 R8, Table 9-2). -/
def codeAddr (a : Word) : Word := a &&& ~~~(3 : Word)

/-- `TakeTrap` (R179): the record, the saved pc and the handler; with no handler, or inside one, `EndThread`. -/
def State.takeTrap (s : State) (t : ThreadId) (code : Code) (w1 w2 w3 : Word) (word : BitVec 32) (pcsave : Word) :
    State :=
  let s := (s.giveUp t).modThr t Thread.resetWait
  let x := s.thr t
  let words := rec8 [wordN (codeNum code + word.toNat * 2 ^ 32), w1, w2, w3]
  if x.intrap || x.tvec = 0 then s.endThread t words
  else s.modThr t fun x => { x with tpc := codeAddr pcsave, trec := words, intrap := true, pc := x.tvec, handlingFreeze := false }

/-- The unit that takes an instruction's pop, as `fifoIdx` numbers it, and the pop code (R183). -/
def popOf : Instr → Nat × BitVec 3
  | .spat _ _ _ p => (1, p)
  | .strmIn _ _ _ p => (1, p)
  | .strmOut _ _ _ p => (1, p)
  | .strmMc _ _ _ _ p => (1, p)
  | .strmResume _ _ _ _ p => (1, p)
  | .strmStop _ _ p => (1, p)
  | .tfetch _ _ _ p => (2, p)
  | .trel _ _ p => (2, p)
  | .copy _ _ _ _ p => (3, p)
  | .pref _ _ _ p => (3, p)
  | .disc _ _ _ p => (3, p)
  | .bar _ p => (0, p)
  | .tokw _ p => (0, p)
  | .launch _ _ p => (0, p)
  | .splice _ _ p => (0, p)
  | .gsl _ _ _ _ p => (0, p)
  | .cfgLoad _ _ _ p => (0, p)
  | .cfgArm _ _ p => (0, p)
  | .cfgSwap _ _ p => (0, p)
  | .cfgSeq _ _ p => (0, p)
  | .cfgFree _ p => (0, p)
  | .pwrAsk _ _ _ p => (0, p)
  | .pwrGive _ _ p => (0, p)
  | .rotJoin _ _ _ _ p => (0, p)
  | .rotLeave _ _ _ _ p => (0, p)
  | .rotSave _ _ _ p => (0, p)
  | .rotLoad _ _ _ _ p => (0, p)
  | .rotClr _ _ _ p => (0, p)
  | .rotStat _ _ _ _ p => (0, p)
  | .sporeSet _ _ _ p => (0, p)
  | .sporeFill _ _ _ p => (0, p)
  | .sporeFail _ _ _ p => (0, p)
  | .sporePeek _ _ _ p => (0, p)
  | .kvt _ _ _ p => (0, p)
  | _ => (0, 0)
/-- The engine that an instruction queues a command for (13 R272). -/
def engineOf (i : Instr) : Option Unit3 := match (popOf i).1 with
  | 1 => some .se
  | 2 => some .tf
  | 3 => some .ce
  | _ => none
/-- Has the instruction that a STALLED thread stands in yet to issue: it waits for its pop, or for room in an engine's queue (R182)? -/
def Thread.unissued (x : Thread) (i : Instr) : Bool := (engineOf i).isSome || ((popOf i).2 ≠ 0 && x.popTaken.isNone)
/-- Are an instruction's pop and its room there (R183; 13 R272)? -/
def Thread.canIssue (x : Thread) (i : Instr) : Bool :=
  ((popOf i).2 = 0 || x.popTaken.isSome || 0 < vget x.fifo (fifoIdx ((popOf i).2.toNat - 1) (popOf i).1)) &&
    (engineOf i).all fun u => decide ((unitQueue u x).waiting.length < 16)
/-- Is every wait of an instruction one that the table of R182 has a delivery abandon? -/
def abandonsAll : Instr → Bool
  | .spat _ _ _ _ => true
  | .strmIn _ _ _ _ => true
  | .strmOut _ _ _ _ => true
  | .strmMc _ _ _ _ _ => true
  | .strmResume _ _ _ _ _ => true
  | .strmStop _ _ _ => true
  | .tfetch _ _ _ _ => true
  | .trel _ _ _ => true
  | .copy _ _ _ _ _ => true
  | .pref _ _ _ _ => true
  | .disc _ _ _ _ => true
  | .bar _ _ => true
  | .tokw _ _ => true
  | .launch _ _ _ => true
  | .splice _ _ _ => true
  | .gsl _ _ _ _ _ => true
  | .spawn _ _ => true
  | .cfgSwap _ _ _ => true
  | .cfgSeq _ _ _ => true
  | .waitq _ _ _ => true
  | .cfgArm _ _ _ => true
  | .pwrAsk _ _ _ _ => true
  | .rotJoin _ _ _ _ _ => true
  | .rotLeave _ _ _ _ _ => true
  | .rotSave _ _ _ _ => true
  | .rotLoad _ _ _ _ _ => true
  | .rotClr _ _ _ _ => true
  | .rotStat _ _ _ _ _ => true
  | .halt => true
  | _ => false
/-- Is a load-class access of a requester parked, or refused a waiter entry or a germination (15 R319, R324)? -/
def State.parkedOrHeld (s : State) (q : Requester) : Bool :=
  (s.parkedOn q).isSome || s.heldReqs.any fun h => decide (h.who = q ∧ h.cause ≠ .way)
/-- Does a delivery abandon what a thread waits for (R182)? Any other wait ends within the instruction, and the delivery waits for it:
a plane switch being made, what `KVT` has begun (stage 2 and on), a store buffer, an access under way. -/
def State.abandons (s : State) (t : ThreadId) : Bool :=
  let x := s.thr t
  x.status ≠ .stalled || x.pushOwed.isSome || s.parkedOrHeld (.thread t) || match decodeControl x.word with
    | .ok i => abandonsAll i || x.unissued i
    | .error _ => true
/-- May a thread take a delivery at this boundary: it handles none, what it waits for may be abandoned, it is neither PAUSED nor FROZEN
nor SAVED (R174), and it is not about to complete with what a parked access has returned? A fabric fault that arrives with a hit is
delivered after the resume (19 R386). -/
def State.mayDeliver (s : State) (t : ThreadId) : Bool :=
  let x := s.thr t
  !x.intrap && x.stage < 2 && s.abandons t && x.paused.isNone && x.status ≠ .saved && x.ending.isNone && !s.stoppedThread t &&
  !(s.returns.any fun r => decide (r.1 = .thread t)) &&
  !(x.held.head?.any fun d => d.freezes && s.front.dbg.hitAt.contains d.at_)

/-- Asynchronous delivery at an instruction boundary (R182): a waiting instruction is abandoned, but a plane switch whose
wait is over is made first. -/
def State.takeDelivery (s : State) (t : ThreadId) : State :=
  let x := s.thr t
  match x.held with
  | [] => s
  | d :: _ =>
    if !s.mayDeliver t then s
    else
      let s := (s.giveUp t).modThr t fun x => { x.resetWait with held := x.held.drop 1 }
      if x.tvec = 0 then s.endThread t d.words
      else s.modThr t fun x => { x with tpc := codeAddr x.pc, trec := d.words, intrap := true, pc := x.tvec
                                        handlingFreeze := d.freezes }

/-- Thaw by one: the answer of a freezing delivery (18 R363). -/
def State.thaw (s : State) (r : ResId) : State := s.modRes r fun x => { x with freeze := x.freeze - 1 }

/-! ### The frame of a control instruction -/

/-- What the body of a control instruction comes to: it retires, retires elsewhere, traps at its own address or with the
address after it saved (`TRAP`), leaves the thread to another pc or to nothing (`RTE`, `HALT`), or must wait. -/
inductive Ctl where
  | retire (s : State)
  | jump (s : State) (pc : Word)
  | trap (s : State) (x : Stop)
  | trapPast (s : State) (x : Stop)
  | ended (s : State)
  | wait (s : State)
  deriving DecidableEq, Repr, Inhabited

/-- The pop of a control instruction at issue, executed by unit `u` (CC 0, SE 1, TF 2, CE 3): none while its FIFO is empty
(R183). -/
def State.issue (s : State) (pop : BitVec 3) (u : Nat := 0) : Option State :=
  if pop = 0 || s.cur.popTaken.isSome then some s
  else
    let i := fifoIdx (pop.toNat - 1) u
    (s.cur.popTok i).map fun x => s.modCur fun _ => { x with popTaken := some i }

/-- Retire at a pc: the wait ends, and the push is made or owed (R183). -/
def State.retireAt (s : State) (push : BitVec 3) (pc : Word) : State :=
  s.modCur fun x =>
    let x := { x with pc, popTaken := none, waitFrom := none, stage := 0, bar := none, copied := none, status := .ready }
    if push = 0 then x
    else
      let i := fifoIdx 0 (push.toNat - 1)
      match x.pushTok i with
      | some y => y
      | none => { x with pushOwed := some i, status := .stalled }

/-- The thread waits; since when is noted once. -/
def State.stall (s : State) : State :=
  s.modCur fun x => { x with status := .stalled, waitFrom := some (x.waitFrom.getD s.cyc) }

/-- Complete a control instruction. -/
def State.finish (s0 : State) (push : BitVec 3) (c : Ctl) : State :=
  match c with
  | .retire s => s.retireAt push (s0.cur.pc + 4)
  | .jump s pc => s.retireAt push pc
  | .trap s x => s.takeTrap s.curThread x.code x.w1 (portMark x.w2 x.port) x.w3 s.cur.word s0.cur.pc
  | .trapPast s x => s.takeTrap s.curThread x.code x.w1 (portMark x.w2 x.port) x.w3 s.cur.word (s0.cur.pc + 4)
  | .ended s => s
  | .wait s => s.stall

/-- A control instruction with push and pop clauses, executed by unit `u`. -/
def State.control (s : State) (push pop : BitVec 3) (body : State → Ctl) (u : Nat := 0) : State :=
  match s.issue pop u with
  | none => s.stall
  | some s' => s'.finish push (body s')

/-- A control instruction without clauses. -/
def State.plain (s : State) (body : State → Ctl) : State := s.finish 0 (body s)

/-- A trap of the instruction's own. -/
def trapWith (s : State) (c : Code) (w1 : Word := 0) : Ctl := .trap s { code := c, w1 }

/-- Are a thread's buffered stores to the lines of pieces performed? They are performed first, with those before them: a load returns its
own thread's stores to the bytes it reads, and need not wait for others (17 R358). -/
def State.drainFor (s : State) (t : ThreadId) (ps : List Piece) : Bool × State :=
  let key (x : Target) : Nat × Nat := ((targetByte x 0).1, (targetByte x 0).2 / 64)
  let s := ps.foldl (fun s p => s.drainLine t (targetByte p.target 0)) s
  (!(s.thr t).sbuf.any fun b => ps.any fun p => decide (key p.target = key b.target), s)
/-- Read a record as a load of the thread whose instruction runs, and go on with its bytes; or its fault, or a wait. -/
def State.threadRead (s : State) (a n : Nat) (k : State → List Byte → Ctl) : Ctl :=
  match s.resolve s.curAgent a n .r with
  | .error x => .trap s x
  | .ok ps => match s.drainFor s.curThread ps with
    | (false, s) => .wait s
    | (true, s) => match s.recordRead s.curAgent a n with
      | (.error x, s) => .trap s x
      | (.ok none, s) => .wait s
      | (.ok (some bs), s) => k s bs
/-- A release: the thread's buffered stores perform first (17 R354, Table 17-3). -/
def State.afterStores (s : State) (k : State → Ctl) : Ctl :=
  let s := s.drain s.curThread
  if s.drained s.curThread then k s else .wait s
/-- Use a record that a thread's instruction reads, or take its trap. The record is copied as it is read: an instruction that then
waits reads it no more (06 R142). -/
def State.withRecord (s : State) (a n : Nat) (k : State → List Byte → Ctl) : Ctl :=
  match s.cur.copied with
  | some bs => k s bs
  | none => s.threadRead a n fun s bs => k (s.modCur fun x => { x with copied := some bs }) bs

/-! ### How far an agent's stores have performed (17 R349, R354) -/

/-- Does a bank hold stores of an agent that it has not written back (17 R349)? -/
def State.bankOwes (s : State) (q : Requester) : Bool :=
  s.fes.any fun p => p.2.bank.any fun b => b.lines.any fun x => decide (x.2.dirty ≠ 0) && x.2.writers.contains (agentOf q)
/-- Has a peer stores of an agent to answer, its own or those that a bank has written back (17 R349, R354)? -/
def State.peersOwe (s : State) (q : Requester) : Bool :=
  s.sent.any fun x => (decide (x.who.map agentOf = some (agentOf q)) || x.owes.contains (agentOf q)) &&
    decide (x.kind = .write ∨ x.kind = .amo) && !x.answered
/-- Have an agent's stores, all of which have left its buffer or port, performed at a scope (17 R349): a bank's performs beyond the
pitch when it is written back, a peer's when the peer has answered. -/
def State.performedAt (s : State) (q : Requester) (scope : Nat) : Bool :=
  !(2 ≤ scope && s.bankOwes q) && !(scope = 4 && s.peersOwe q)

/-- Abbreviation for the outcome of every meaning. -/
abbrev Out := Host.Outcome State Fault Refusal

end Sys2Proof.Machine
end

