-- ==== Sys2Proof/Machine/Alu.lean ====
section
/-! DEFINITION. The INT group and the operations with an immediate (09 R186-R189): each writes one register and
retires. -/

namespace Sys2Proof.Machine

/-- An instruction that writes `v` into g[d] and retires. -/
def State.writes (s : State) (d : BitVec 5) (v : Word) : Out := .next (s.plain fun s => .retire (s.wr d v))

/-- The value of ADD (Table 9-5): wrapping sum. -/
def valAdd (a b : Word) : Word := a + b
/-- ADD (R186). -/
def execAdd (d a b : BitVec 5) (s : State) : Out := s.writes d (valAdd (s.rd a) (s.rd b))

/-- The value of SUB (Table 9-5): wrapping difference. -/
def valSub (a b : Word) : Word := a - b
/-- SUB (R186). -/
def execSub (d a b : BitVec 5) (s : State) : Out := s.writes d (valSub (s.rd a) (s.rd b))

/-- The value of AND (Table 9-5): bitwise and. -/
def valAnd (a b : Word) : Word := a &&& b
/-- AND (R186). -/
def execAnd (d a b : BitVec 5) (s : State) : Out := s.writes d (valAnd (s.rd a) (s.rd b))

/-- The value of OR (Table 9-5): bitwise or. -/
def valOr (a b : Word) : Word := a ||| b
/-- OR (R186). -/
def execOr (d a b : BitVec 5) (s : State) : Out := s.writes d (valOr (s.rd a) (s.rd b))

/-- The value of XOR (Table 9-5): bitwise exclusive or. -/
def valXor (a b : Word) : Word := a ^^^ b
/-- XOR (R186). -/
def execXor (d a b : BitVec 5) (s : State) : Out := s.writes d (valXor (s.rd a) (s.rd b))

/-- The value of ANDN (Table 9-5): `A & ~B`. -/
def valAndn (a b : Word) : Word := a &&& ~~~b
/-- ANDN (R186). -/
def execAndn (d a b : BitVec 5) (s : State) : Out := s.writes d (valAndn (s.rd a) (s.rd b))

/-- The value of SHL (Table 9-5): shift left by B[5:0]. -/
def valShl (a b : Word) : Word := a <<< shiftCount b
/-- SHL (R186). -/
def execShl (d a b : BitVec 5) (s : State) : Out := s.writes d (valShl (s.rd a) (s.rd b))

/-- The value of SHR (Table 9-5): logical shift right by B[5:0]. -/
def valShr (a b : Word) : Word := a >>> shiftCount b
/-- SHR (R186). -/
def execShr (d a b : BitVec 5) (s : State) : Out := s.writes d (valShr (s.rd a) (s.rd b))

/-- The value of SHRA (Table 9-5): arithmetic shift right by B[5:0]. -/
def valShra (a b : Word) : Word := a.sshiftRight (shiftCount b)
/-- SHRA (R186). -/
def execShra (d a b : BitVec 5) (s : State) : Out := s.writes d (valShra (s.rd a) (s.rd b))

/-- The value of MUL (Table 9-5): low 64 bits of the product. -/
def valMul (a b : Word) : Word := a * b
/-- MUL (R186). -/
def execMul (d a b : BitVec 5) (s : State) : Out := s.writes d (valMul (s.rd a) (s.rd b))

/-- The value of MULH (Table 9-5): high 64 bits of the signed product. -/
def valMulh (a b : Word) : Word := BitVec.ofInt 64 (a.toInt * b.toInt / 2 ^ 64)
/-- MULH (R186). -/
def execMulh (d a b : BitVec 5) (s : State) : Out := s.writes d (valMulh (s.rd a) (s.rd b))

/-- The value of MULH.z (Table 9-5): high 64 bits of the unsigned product. -/
def valMulhZ (a b : Word) : Word := BitVec.ofNat 64 (a.toNat * b.toNat / 2 ^ 64)
/-- MULH.z (R186). -/
def execMulhZ (d a b : BitVec 5) (s : State) : Out := s.writes d (valMulhZ (s.rd a) (s.rd b))

/-- The value of DIV (Table 9-5): signed quotient, truncated; all ones for a zero divisor. -/
def valDiv (a b : Word) : Word := if b = 0 then BitVec.allOnes 64 else BitVec.ofInt 64 (a.toInt.tdiv b.toInt)
/-- DIV (R186). -/
def execDiv (d a b : BitVec 5) (s : State) : Out := s.writes d (valDiv (s.rd a) (s.rd b))

/-- The value of DIV.z (Table 9-5): unsigned quotient; all ones for a zero divisor. -/
def valDivZ (a b : Word) : Word := if b = 0 then BitVec.allOnes 64 else BitVec.ofNat 64 (a.toNat / b.toNat)
/-- DIV.z (R186). -/
def execDivZ (d a b : BitVec 5) (s : State) : Out := s.writes d (valDivZ (s.rd a) (s.rd b))

/-- The value of REM (Table 9-5): signed remainder of the truncated quotient; the dividend for a zero divisor. -/
def valRem (a b : Word) : Word := if b = 0 then a else BitVec.ofInt 64 (a.toInt - b.toInt * a.toInt.tdiv b.toInt)
/-- REM (R186). -/
def execRem (d a b : BitVec 5) (s : State) : Out := s.writes d (valRem (s.rd a) (s.rd b))

/-- The value of REM.z (Table 9-5): unsigned remainder; the dividend for a zero divisor. -/
def valRemZ (a b : Word) : Word := if b = 0 then a else BitVec.ofNat 64 (a.toNat % b.toNat)
/-- REM.z (R186). -/
def execRemZ (d a b : BitVec 5) (s : State) : Out := s.writes d (valRemZ (s.rd a) (s.rd b))

/-- The value of MIN (Table 9-5): signed lesser. -/
def valMin (a b : Word) : Word := if a.toInt ≤ b.toInt then a else b
/-- MIN (R186). -/
def execMin (d a b : BitVec 5) (s : State) : Out := s.writes d (valMin (s.rd a) (s.rd b))

/-- The value of MAX (Table 9-5): signed greater. -/
def valMax (a b : Word) : Word := if a.toInt ≥ b.toInt then a else b
/-- MAX (R186). -/
def execMax (d a b : BitVec 5) (s : State) : Out := s.writes d (valMax (s.rd a) (s.rd b))

/-- The value of MIN.z (Table 9-5): unsigned lesser. -/
def valMinZ (a b : Word) : Word := if a.toNat ≤ b.toNat then a else b
/-- MIN.z (R186). -/
def execMinZ (d a b : BitVec 5) (s : State) : Out := s.writes d (valMinZ (s.rd a) (s.rd b))

/-- The value of MAX.z (Table 9-5): unsigned greater. -/
def valMaxZ (a b : Word) : Word := if a.toNat ≥ b.toNat then a else b
/-- MAX.z (R186). -/
def execMaxZ (d a b : BitVec 5) (s : State) : Out := s.writes d (valMaxZ (s.rd a) (s.rd b))

/-- The value of SLT (Table 9-5): 1 if signed less. -/
def valSlt (a b : Word) : Word := if a.toInt < b.toInt then 1 else 0
/-- SLT (R186). -/
def execSlt (d a b : BitVec 5) (s : State) : Out := s.writes d (valSlt (s.rd a) (s.rd b))

/-- The value of SLT.z (Table 9-5): 1 if unsigned less. -/
def valSltZ (a b : Word) : Word := if a.toNat < b.toNat then 1 else 0
/-- SLT.z (R186). -/
def execSltZ (d a b : BitVec 5) (s : State) : Out := s.writes d (valSltZ (s.rd a) (s.rd b))

/-- CLZ (R186). -/
def execClz (d a : BitVec 5) (s : State) : Out := s.writes d (leadingZeros (s.rd a))

/-- POPC (R186). -/
def execPopc (d a : BitVec 5) (s : State) : Out := s.writes d (setBits (s.rd a))

/-- LEA (R186): `A + B × 2^s`. -/
def execLea (d a b : BitVec 5) (k : BitVec 2) (s : State) : Out := s.writes d (s.rd a + (s.rd b <<< k.toNat))

/-- ADDI (R187): the immediate is sign-extended. -/
def execAddi (d a : BitVec 5) (i : BitVec 16) (s : State) : Out := s.writes d (s.rd a + i.signExtend 64)

/-- ANDI (R187): the immediate is zero-extended. -/
def execAndi (d a : BitVec 5) (i : BitVec 16) (s : State) : Out := s.writes d (s.rd a &&& i.zeroExtend 64)

/-- ORI (R187). -/
def execOri (d a : BitVec 5) (i : BitVec 16) (s : State) : Out := s.writes d (s.rd a ||| i.zeroExtend 64)

/-- XORI (R187). -/
def execXori (d a : BitVec 5) (i : BitVec 16) (s : State) : Out := s.writes d (s.rd a ^^^ i.zeroExtend 64)

/-- SHI.L (R188). -/
def execShiL (d a : BitVec 5) (n : BitVec 6) (s : State) : Out := s.writes d (s.rd a <<< n.toNat)

/-- SHI.R (R188). -/
def execShiR (d a : BitVec 5) (n : BitVec 6) (s : State) : Out := s.writes d (s.rd a >>> n.toNat)

/-- SHI.RA (R188). -/
def execShiRa (d a : BitVec 5) (n : BitVec 6) (s : State) : Out := s.writes d ((s.rd a).sshiftRight n.toNat)

/-- Part `k` of a register replaced (R189). -/
def insertPart (v : Word) (k : BitVec 2) (i : BitVec 16) : Word :=
  (v &&& ~~~((0xFFFF : Word) <<< (16 * k.toNat))) ||| (i.zeroExtend 64 <<< (16 * k.toNat))

/-- INSI (R189). -/
def execInsi (d : BitVec 5) (k : BitVec 2) (i : BitVec 16) (s : State) : Out := s.writes d (insertPart (s.rd d) k i)

/-- SLTI (R187): signed compare with the sign-extended immediate. -/
def execSlti (d a : BitVec 5) (i : BitVec 16) (s : State) : Out := s.writes d (valSlt (s.rd a) (i.signExtend 64))

/-- SLTI.z (R187): unsigned compare with the zero-extended immediate. -/
def execSltiZ (d a : BitVec 5) (i : BitVec 16) (s : State) : Out := s.writes d (valSltZ (s.rd a) (i.zeroExtend 64))

end Sys2Proof.Machine
end

