-- ==== Sys2Proof/Machine/Audit.lean ====
section
/-! DEFINITION. The audit chain of the root of trust (20 R399, R400). -/

namespace Sys2Proof.Machine

/-- The 128 bytes of an entry (Table 20-3). -/
def AuditEntry.bytes (e : AuditEntry) : List Byte :=
  leBytes 8 e.seq ++ leBytes 2 e.event.toNat ++ leBytes 2 e.asid.toNat ++ leBytes 4 e.detail.toNat ++
  leBytes 8 e.time.toNat ++ leBytes 48 e.prev.toNat ++ leBytes 56 e.arg.toNat

/-- SEQ and hash of the newest entry, if there is one (R400). -/
def State.auditHead (s : State) : Option (Nat × BitVec 384) :=
  s.front.audit.getLast?.map fun e => (e.seq, sha384 e.bytes)

/-- The register AUDITHEAD (R400): before the first entry it reads zero (DESIGN CHOICE, log entry 2). -/
def State.auditheadReg (s : State) : Nat × BitVec 384 := s.auditHead.getD (0, 0)

/-- The next entry of the chain (R399). -/
def State.auditNext (s : State) (event asid : BitVec 16) (detail : BitVec 32) (arg : BitVec 448) : AuditEntry :=
  let time := BitVec.ofNat 64 (s.cyc % 2 ^ 48 + s.front.bootCount.toNat * 2 ^ 48)
  match s.auditHead with
  | none => { seq := 0, event, asid, detail, time, prev := 0, arg }
  | some (n, h) => { seq := n + 1, event, asid, detail, time, prev := h, arg }

/-- Append an entry: secure memory keeps the newest 4,096; then the mirror ring takes its copy (R400). -/
def State.audit (s : State) (event asid : BitVec 16) (detail : BitVec 32) (arg : BitVec 448) : State :=
  let e := s.auditNext event asid detail arg
  let l := s.front.audit ++ [e]
  let s := { s with front := { s.front with audit := l.drop (l.length - 4096) } }
  let (base, n) := s.front.auditMirror
  if n = 0 then s else s.physWrite (base + 128 * (e.seq % n)) e.bytes

/-- AUDIT_APPEND: the append port takes firmware's events only (R399). Entry 0 is that of the first boot. -/
def execAuditAppend (event asid : BitVec 16) (detail : BitVec 32) (arg : BitVec 448) (s : State) : Host.Outcome State Fault Refusal :=
  .next (if !s.booted || event.toNat < 0x100 || 0x7FFF < event.toNat then s else s.audit event asid detail arg)

end Sys2Proof.Machine
end

