-- ==== Sys2Proof/Machine/Branch.lean ====
section
/-! DEFINITION. Branches and jumps (09 R190, R191). -/

namespace Sys2Proof.Machine

/-- A conditional branch: PC + 4 × offset when the condition holds, else PC + 4 (R190). -/
def State.branch (s : State) (o : BitVec 16) (taken : Bool) : Out :=
  .next (s.plain fun s => if taken then .jump s (s.cur.pc + 4 * o.signExtend 64) else .retire s)

/-- BEQ (R190). -/
def execBeq (a b : BitVec 5) (o : BitVec 16) (s : State) : Out := s.branch o (decide (s.rd a = s.rd b))

/-- BNE (R190). -/
def execBne (a b : BitVec 5) (o : BitVec 16) (s : State) : Out := s.branch o (decide (s.rd a ≠ s.rd b))

/-- BLT (R190). -/
def execBlt (a b : BitVec 5) (o : BitVec 16) (s : State) : Out := s.branch o (signedLess (s.rd a) (s.rd b))

/-- BGE (R190). -/
def execBge (a b : BitVec 5) (o : BitVec 16) (s : State) : Out := s.branch o (!signedLess (s.rd a) (s.rd b))

/-- BLT.z (R190). -/
def execBltZ (a b : BitVec 5) (o : BitVec 16) (s : State) : Out := s.branch o (unsignedLess (s.rd a) (s.rd b))

/-- BGE.z (R190). -/
def execBgeZ (a b : BitVec 5) (o : BitVec 16) (s : State) : Out := s.branch o (!unsignedLess (s.rd a) (s.rd b))

/-- JAL (R191). -/
def execJal (d : BitVec 5) (o : BitVec 21) (s : State) : Out :=
  .next (s.plain fun s => .jump (s.wr d (s.cur.pc + 4)) (s.cur.pc + 4 * o.signExtend 64))

/-- JR (R191): the target is read before g[d] is written; a misaligned target traps. -/
def execJr (d a : BitVec 5) (s : State) : Out :=
  .next (s.plain fun s =>
    let t := s.rd a
    if fldN t 0 2 ≠ 0 then trapWith s .misaligned t
    else .jump (s.wr d (s.cur.pc + 4)) t)

end Sys2Proof.Machine
end

