-- ==== Sys2Proof/Machine/Num.lean ====
section
/-! DEFINITION. Element types, lane form, exact values of floating-point patterns, and their rounding (02 R34-R52). -/

namespace Sys2Proof.Machine

/-! ### Types and lane form (R34, R35) -/

/-- Width in bits of a type code. -/
def typeBits : Nat → Nat
  | 0 | 1 => 8
  | 2 | 3 | 8 | 9 => 16
  | 6 | 7 | 11 => 64
  | _ => 32
/-- Is a type code a signed integer? -/
def typeSigned (T : Nat) : Bool := T = 0 || T = 2 || T = 4 || T = 6
/-- Is a type code a float? -/
def typeFloat (T : Nat) : Bool := 8 ≤ T && T ≤ 11
/-- Elements per token. -/
def typeElems (T : Nat) : Nat := if typeBits T = 64 then 8 else 16

/-- Lane `i` of a token, unsigned. -/
def lane (x : Line) (i : Nat) : Nat := fldN x (32 * i) 32
/-- A token from its lanes, lane 0 first. -/
def ofLanes (ls : List Nat) : Line := BitVec.ofNat 512 (ls.foldr (fun v acc => v % 2 ^ 32 + acc * 2 ^ 32) 0)
/-- The 64-bit value of lanes 0 and 1. -/
def lane64 (x : Line) : Word := BitVec.ofNat 64 (fldN x 0 64)
/-- The pattern of element `i` in lane form. -/
def elem (T : Nat) (x : Line) (i : Nat) : Nat :=
  if typeBits T = 64 then fldN x (64 * i) 64 else lane x i % 2 ^ typeBits T
/-- The patterns of all elements. -/
def elemsOf (T : Nat) (x : Line) : List Nat := (List.range (typeElems T)).map (elem T x)
/-- The value of an integer pattern. -/
def patInt (T p : Nat) : Int := if typeSigned T && decide (2 ^ (typeBits T - 1) ≤ p) then (p : Int) - 2 ^ typeBits T else p
/-- The lanes that a pattern fills: sign copies above a signed element, zeros above the others (R35). -/
def patLanes (T p : Nat) : List Nat :=
  if typeBits T = 64 then [p % 2 ^ 32, p / 2 ^ 32 % 2 ^ 32]
  else [((patInt T p) % 2 ^ 32).toNat]
/-- A token from element patterns; missing elements are zero. -/
def ofElems (T : Nat) (ps : List Nat) : Line := ofLanes (ps.flatMap (patLanes T))
/-- Wrap an exact integer to a pattern (R36). -/
def wrapInt (T : Nat) (x : Int) : Nat := (x % 2 ^ typeBits T).toNat
/-- Least and greatest value of an integer type (R36). -/
def typeMin (T : Nat) : Int := if typeSigned T then -(2 ^ (typeBits T - 1) : Int) else 0
def typeMax (T : Nat) : Int := if typeSigned T then 2 ^ (typeBits T - 1) - 1 else 2 ^ typeBits T - 1
/-- `Variant(x, T, v)` (R36): wrap, `.sat`, or `.ovt`, which gives nothing out of range. -/
def variant (T v : Nat) (x : Int) : Option Nat :=
  if typeMin T ≤ x ∧ x ≤ typeMax T then some (wrapInt T x)
  else if v = 0 then some (wrapInt T x)
  else if v = 1 then some (wrapInt T (if x < typeMin T then typeMin T else typeMax T))
  else none

/-! ### Exact values (R37) -/

/-- A floating-point format: exponent and fraction widths (Table 2-2). -/
structure FloatFmt where
  ebits : Nat
  fbits : Nat
  deriving DecidableEq, Repr, Inhabited

def fmtOf : Nat → FloatFmt
  | 8 => ⟨5, 10⟩
  | 9 => ⟨8, 7⟩
  | 11 => ⟨11, 52⟩
  | _ => ⟨8, 23⟩

/-- An exact value: NaN, an infinity, or ± m × 2^e, where zero keeps its sign. -/
inductive Val where
  | nan
  | inf (neg : Bool)
  | fin (neg : Bool) (m : Nat) (e : Int)
  deriving DecidableEq, Repr, Inhabited

/-- Exponent of the least normal magnitude: 1 - bias. -/
def FloatFmt.emin (f : FloatFmt) : Int := 2 - 2 ^ (f.ebits - 1)
/-- Pattern of +∞. -/
def FloatFmt.infBits (f : FloatFmt) : Nat := (2 ^ f.ebits - 1) * 2 ^ f.fbits
/-- The sign bit. -/
def FloatFmt.sign (f : FloatFmt) (neg : Bool) : Nat := if neg then 2 ^ (f.ebits + f.fbits) else 0
/-- The canonical NaN (Table 2-4). -/
def FloatFmt.nanBits (f : FloatFmt) : Nat := f.infBits + 2 ^ (f.fbits - 1)

/-- `Val(T, p)`: the exact value of a pattern (R37). -/
def FloatFmt.val (f : FloatFmt) (p : Nat) : Val :=
  let neg := decide (2 ^ (f.ebits + f.fbits) ≤ p)
  let ex := p / 2 ^ f.fbits % 2 ^ f.ebits
  let fr := p % 2 ^ f.fbits
  if ex = 2 ^ f.ebits - 1 then (if fr = 0 then .inf neg else .nan)
  else if ex = 0 then .fin neg fr (f.emin - f.fbits)
  else .fin neg (fr + 2 ^ f.fbits) (f.emin - f.fbits + (ex - 1 : Int))

def Val.isNan : Val → Bool
  | .nan => true
  | .inf _ => false
  | .fin _ _ _ => false
def Val.neg : Val → Bool
  | .nan => false
  | .inf n => n
  | .fin n _ _ => n
def Val.isZero : Val → Bool
  | .nan => false
  | .inf _ => false
  | .fin _ m _ => m = 0
def Val.flip : Val → Val
  | .nan => .nan
  | .inf n => .inf !n
  | .fin n m e => .fin (!n) m e
def Val.abs : Val → Val
  | .nan => .nan
  | .inf _ => .inf false
  | .fin _ m e => .fin false m e
/-- 2^k times a value. -/
def Val.scale (k : Int) : Val → Val
  | .nan => .nan
  | .inf n => .inf n
  | .fin n m e => .fin n m (e + k)
/-- An integer as an exact value; zero is +0. -/
def Val.ofInt (x : Int) : Val := .fin (decide (x < 0)) x.natAbs 0

/-- Number of bits of a Nat; structural on the bound. -/
def bitLenTo : Nat → Nat → Nat
  | 0, _ => 0
  | n + 1, v => if 2 ^ n ≤ v then n + 1 else bitLenTo n v
def bitLen (v : Nat) : Nat := if v = 0 then 0 else Nat.log2 v + 1

/-! ### Rounding (R39-R43): modes 0 RNE, 1 RTZ, 2 RDN, 3 RUP -/

/-- The pattern beyond the largest finite magnitude (Table 2-3). -/
def FloatFmt.overflow (f : FloatFmt) (mode : Nat) (neg : Bool) : Nat :=
  f.sign neg + (if mode = 0 || (mode = 2 && neg) || (mode = 3 && !neg) then f.infBits else f.infBits - 1)

/-- A magnitude cut at the format's quantum: the whole quanta, the rest, and log2 of the rest's unit count. -/
def FloatFmt.cut (f : FloatFmt) (m : Nat) (e : Int) : Nat × Nat × Nat × Int :=
  let top := e + (bitLen m : Int) - 1
  let q := max top f.emin - f.fbits
  if q ≤ e then (m * 2 ^ (e - q).toNat, 0, 0, q)
  else
    let k := (q - e).toNat
    (m / 2 ^ k, m % 2 ^ k, k, q)

/-- The pattern of a whole number of quanta. -/
def FloatFmt.pack (f : FloatFmt) (w : Nat) (q : Int) : Nat :=
  if w < 2 ^ f.fbits then w else (q + f.fbits - f.emin + 1).toNat * 2 ^ f.fbits + (w - 2 ^ f.fbits)

/-- Round ± (m × 2^e, and something less than 2^e more when `sticky`) (R39). -/
def FloatFmt.round (f : FloatFmt) (mode : Nat) (neg : Bool) (m : Nat) (e : Int) (sticky : Bool) : Nat :=
  if m = 0 && !sticky then f.sign neg
  else
    let (w, r, k, q) := f.cut m e
    let inexact := sticky || r ≠ 0
    let up := match mode with
      | 0 => k ≠ 0 && (decide (2 ^ (k - 1) < r) || (r = 2 ^ (k - 1) && (sticky || w % 2 = 1)))
      | 1 => false
      | 2 => neg && inexact
      | _ => !neg && inexact
    let p := f.pack (if up then w + 1 else w) q
    if f.infBits ≤ p then f.overflow mode neg else f.sign neg + p

/-- `RoundTo(T, x, mode)`. -/
def FloatFmt.roundVal (f : FloatFmt) (mode : Nat) : Val → Nat
  | .nan => f.nanBits
  | .inf n => f.sign n + f.infBits
  | .fin n m e => f.round mode n m e false

/-- Does a value lie strictly between two adjacent finite values, so that stochastic rounding draws (R43)? -/
def FloatFmt.draws (f : FloatFmt) : Val → Bool
  | .nan => false
  | .inf _ => false
  | .fin _ m e =>
    let (w, r, _, q) := f.cut m e
    m ≠ 0 && r ≠ 0 && decide (f.pack w q < f.infBits - 1)

/-- Stochastic rounding with u = w[31:8] (R43). -/
def FloatFmt.roundStoch (f : FloatFmt) (u : Nat) : Val → Nat
  | .nan => f.nanBits
  | .inf n => f.sign n + f.infBits
  | .fin n m e =>
    if m = 0 then f.sign n
    else
      let (w, r, k, q) := f.cut m e
      let p := f.pack w q
      if f.infBits - 1 ≤ p then f.sign n + (f.infBits - 1)
      else if r = 0 then f.sign n + p
      else
        let hi := if n then decide (u * 2 ^ k < (2 ^ k - r) * 2 ^ 24) else decide (u * 2 ^ k < r * 2 ^ 24)
        f.sign n + f.pack (if hi = n then w else w + 1) q

/-- Round an exact value to an integer by a mode; infinities and NaN give none. -/
def Val.toIntMode (mode : Nat) : Val → Option Int
  | .nan => none
  | .inf _ => none
  | .fin n m e =>
    if 0 ≤ e then some ((if n then -1 else 1) * (m * 2 ^ e.toNat : Nat))
    else
      let k := (-e).toNat
      let w := m / 2 ^ k
      let r := m % 2 ^ k
      let up := match mode with
        | 0 => decide (2 ^ (k - 1) < r) || (r = 2 ^ (k - 1) && w % 2 = 1)
        | 1 => false
        | 2 => n && r ≠ 0
        | _ => !n && r ≠ 0
      let x : Int := (if up then w + 1 else w : Nat)
      some (if n then -x else x)

/-! ### Exact sums and products (R41, R52) -/

/-- A finite value in units of 2^e0, for e0 at most its exponent. -/
def Val.units (e0 : Int) : Val → Int
  | .nan => 0
  | .inf _ => 0
  | .fin n m e => (if n then -1 else 1) * (m * 2 ^ (e - e0).toNat : Nat)

/-- The exact sum of values, its zero signed by R41 under `mode`. -/
def sumVals (mode : Nat) (vs : List Val) : Val :=
  if vs.any Val.isNan then .nan
  else
    let pinf := vs.any fun v => decide (v = .inf false)
    let ninf := vs.any fun v => decide (v = .inf true)
    if pinf && ninf then .nan
    else if pinf then .inf false
    else if ninf then .inf true
    else
      let e0 : Int := vs.foldl (fun (a : Int) v => match v with
        | .fin _ _ e => min a e
        | .nan => a
        | .inf _ => a) 0
      let t : Int := (vs.map (Val.units e0)).foldl (· + ·) 0
      if t = 0 then
        let allNeg := !vs.isEmpty && vs.all Val.neg
        let mixed := vs.any Val.neg && !vs.all Val.neg
        .fin (allNeg || (mode = 2 && mixed)) 0 0
      else .fin (decide (t < 0)) t.natAbs e0

/-- The exact product of two values. -/
def mulVal (a b : Val) : Val :=
  match a, b with
  | .nan, _ => .nan
  | _, .nan => .nan
  | .inf n, .inf n' => .inf (n != n')
  | .inf n, .fin n' m _ => if m = 0 then .nan else .inf (n != n')
  | .fin n m _, .inf n' => if m = 0 then .nan else .inf (n != n')
  | .fin n m e, .fin n' m' e' => .fin (n != n') (m * m') (e + e')

/-- a ≤ b on values that are no NaN; zeros of either sign are equal. -/
def Val.le (a b : Val) : Bool :=
  match a, b with
  | .nan, _ => false
  | _, .nan => false
  | .inf true, _ => true
  | _, .inf false => true
  | .inf false, _ => false
  | _, .inf true => false
  | .fin n m e, .fin n' m' e' =>
    let e0 := min e e'
    decide ((Val.fin n m e).units e0 ≤ (Val.fin n' m' e').units e0)
def Val.eq (a b : Val) : Bool := a.le b && b.le a
def Val.lt (a b : Val) : Bool := a.le b && !b.le a

/-! ### Quotients, roots, powers and logarithms, rounded once -/

/-- The integer square root of `x`, at most 2^(n+1) - 1. -/
def isqrtTo : Nat → Nat → Nat → Nat
  | 0, x, r => if (r + 1) ^ 2 ≤ x then r + 1 else r
  | n + 1, x, r => isqrtTo n x (if (r + 2 ^ (n + 1)) ^ 2 ≤ x then r + 2 ^ (n + 1) else r)
def isqrt (x : Nat) : Nat := isqrtTo (bitLen x / 2 + 1) x 0

/-- Round(a / b) for finite b ≠ 0 and finite a. -/
def FloatFmt.quot (f : FloatFmt) (mode : Nat) (neg : Bool) (m : Nat) (e : Int) (m' : Nat) (e' : Int) : Nat :=
  let k := bitLen m' + 70
  let n := m * 2 ^ k
  f.round mode neg (n / m') (e - e' - k) (n % m' ≠ 0)

/-- Round(1 / a) (10 Table 10-5). -/
def FloatFmt.rcp (f : FloatFmt) (mode : Nat) : Val → Nat
  | .nan => f.nanBits
  | .inf n => f.sign n
  | .fin n m e => if m = 0 then f.sign n + f.infBits else f.quot mode n 1 0 m e

/-- Round(1 / √a) (10 Table 10-5). -/
def FloatFmt.rsq (f : FloatFmt) (mode : Nat) : Val → Nat
  | .nan => f.nanBits
  | .inf n => if n then f.nanBits else 0
  | .fin n m e =>
    if m = 0 then f.sign n + f.infBits
    else if n then f.nanBits
    else
      let odd := e % 2 ≠ 0
      let m := if odd then 2 * m else m
      let e := if odd then e - 1 else e
      let k := bitLen m / 2 + 70
      let q := isqrt (2 ^ (2 * k) / m)
      f.round mode false q (-(e / 2) - k) (q * q * m ≠ 2 ^ (2 * k))

/-- Bounds of ln 2 in units of 2^-p. -/
def ln2Bounds (p : Nat) : Nat × Nat :=
  let lo := (List.range (p + 4)).foldl (fun a k => a + 2 ^ p / ((k + 1) * 2 ^ (k + 1))) 0
  (lo, lo + p + 6)

/-- Lower and upper bounds of e^y, for y between the bounds given and below 1, all in units of 2^-p. -/
def expBounds (p : Nat) (y : Nat × Nat) : Nat × Nat :=
  let lo := (List.range p).foldl (fun (r : Nat × Nat) k =>
    let t := r.2 * y.1 / ((k + 1) * 2 ^ p)
    (r.1 + t, t)) (2 ^ p, 2 ^ p)
  let hi := (List.range p).foldl (fun (r : Nat × Nat) k =>
    let t := r.2 * y.2 / ((k + 1) * 2 ^ p) + 1
    (r.1 + t, t)) (2 ^ p, 2 ^ p)
  (lo.1, hi.1 + 8 * hi.2 + 8)

/-- Bounds of ln(1 + z') for x = m / 2^k in [1, 2), by 2 artanh((x - 1) / (x + 1)), in units of 2^-p. -/
def lnBounds (p m k : Nat) : Nat × Nat :=
  let num := m - 2 ^ k
  let den := m + 2 ^ k
  let zlo := num * 2 ^ p / den
  let zhi := zlo + 1
  let series (z : Nat) (up : Nat) : Nat :=
    ((List.range p).foldl (fun (r : Nat × Nat) j =>
      (r.1 + r.2 / (2 * j + 1) + up, r.2 * z / 2 ^ p * z / 2 ^ p + 2 * up)) (0, z)).1
  (2 * series zlo 0, 2 * series zhi 1 + 4 * p + 16)

/-- The rounding that both ends of an open interval agree on, at the first precision where they do; undecided values
are free (log entry 7). -/
def firstAgreed (fn bits : Nat) (tries : List Nat) (at_ : Nat → Option Nat) : Nat :=
  match tries with
  | [] => Config.undecidedRounding fn bits
  | p :: ps => match at_ p with
    | some v => v
    | none => firstAgreed fn bits ps at_

/-- The rounding of a magnitude strictly between lo and hi units of 2^-p, if both ends agree. -/
def FloatFmt.agree (f : FloatFmt) (mode : Nat) (neg : Bool) (lo hi : Nat) (e : Int) : Option Nat :=
  let a := f.round mode neg lo e true
  let b := f.round mode neg (max lo (hi - 1)) e true
  if a = b then some a else none

def precisions : List Nat := [160, 320, 640, 1600]

/-- Round(2^a) (10 Table 10-5). -/
def FloatFmt.exp2 (f : FloatFmt) (mode bits : Nat) : Val → Nat
  | .nan => f.nanBits
  | .inf n => if n then 0 else f.infBits
  | .fin n m e =>
    if m = 0 then f.round mode false 1 0 false
    else if 14 < e + (bitLen m : Int) then
      (if n then f.round mode false 1 (-40000) true else f.overflow mode false)
    else
      let k := if e < 0 then (-e).toNat else 0
      let units : Int := (if n then -1 else 1) * (m * 2 ^ (if e < 0 then 0 else e.toNat) : Nat)
      let whole := units / 2 ^ k
      let fr := (units % 2 ^ k).toNat
      if fr = 0 then f.round mode false 1 whole false
      else firstAgreed (f.ebits * 8 + mode * 2) bits precisions fun p =>
        let l := ln2Bounds p
        let flo := fr * 2 ^ p / 2 ^ k
        let y := (flo * l.1 / 2 ^ p, (flo + 1) * l.2 / 2 ^ p + 1)
        let b := expBounds p y
        f.agree mode false b.1 (min b.2 (2 ^ (p + 1))) (whole - p)

/-- Round(log2 a) (10 Table 10-5). -/
def FloatFmt.log2 (f : FloatFmt) (mode bits : Nat) : Val → Nat
  | .nan => f.nanBits
  | .inf n => if n then f.nanBits else f.infBits
  | .fin n m e =>
    if m = 0 then f.sign true + f.infBits
    else if n then f.nanBits
    else
      let k := bitLen m - 1
      let whole : Int := e + k
      if m = 2 ^ k then f.round mode (decide (whole < 0)) whole.natAbs 0 false
      else firstAgreed (f.ebits * 8 + mode * 2 + 1) bits precisions fun p =>
        let ln := lnBounds p m k
        let l := ln2Bounds p
        let qlo : Int := ln.1 * 2 ^ p / l.2
        let qhi : Int := ln.2 * 2 ^ p / l.1 + 1
        let lo := whole * 2 ^ p + max qlo 0
        let hi := whole * 2 ^ p + min qhi (2 ^ p)
        if 0 ≤ whole then f.agree mode false lo.toNat hi.toNat (-p)
        else f.agree mode true (-hi).toNat (-lo).toNat (-p)

/-! ### Block floating point (R45-R50) -/

/-- The exact value of mantissa pattern `m` (width `w`) under exponent byte `E`; VOID reads as NaN (R45). -/
def bfpVal (w E m : Nat) : Val :=
  if E = 0 then .fin false 0 0
  else if E = 0xFF then .nan
  else
    let v : Int := if 2 ^ (w - 1) ≤ m then (m : Int) - 2 ^ w else m
    .fin (decide (v < 0)) v.natAbs ((E : Int) - 127 - ((w : Int) - 1))

/-- A block as a lane-form token (R46). -/
def bfpToken (w E : Nat) (ms : List Nat) : Line :=
  ofLanes (ms.map fun m =>
    (((if 2 ^ (w - 1) ≤ m then (m : Int) - 2 ^ w else m) % 2 ^ 24).toNat + E * 2 ^ 24))
/-- The mantissas and the exponent a consumer reads from a lane-form token (R46). -/
def bfpOfToken (w : Nat) (x : Line) : Nat × List Nat :=
  (lane x 0 / 2 ^ 24, (List.range 16).map fun i => lane x i % 2 ^ w)
/-- Packed mantissas: 2m bytes (R47). -/
def bfpPack (w : Nat) (ms : List Nat) : Nat := (ms.zipIdx.map fun p => p.1 % 2 ^ w * 2 ^ (w * p.2)).foldl (· + ·) 0
def bfpUnpack (w v : Nat) : List Nat := (List.range 16).map fun i => v / 2 ^ (w * i) % 2 ^ w

/-- One Hadamard stage (R50): all sums exact. -/
def butterflyStage (j : Nat) (xs : List Val) : List Val :=
  xs.zipIdx.map fun p =>
    if p.2 / 2 ^ j % 2 = 0 then sumVals 0 [p.1, xs.getD (p.2 + 2 ^ j) .nan]
    else sumVals 0 [xs.getD (p.2 - 2 ^ j) .nan, p.1.flip]

/-- The butterfly pre-stage with `n` stages: one RNE rounding to .f32 at its end (R50). -/
def butterfly (n : Nat) (xs : List Val) : List Val :=
  if n = 0 then xs
  else
    let f := fmtOf 10
    let ys := (List.range n).foldl (fun xs j => butterflyStage j xs) xs
    ys.map fun x =>
      let y := if n % 2 = 0 then x.scale (-(n / 2 : Nat) : Int)
               else mulVal (x.scale (-((n - 1) / 2 : Nat) : Int)) (f.val 0x3F3504F3)
      f.val (f.roundVal 0 y)

/-- The converter's exponent and unit exponent, if the inputs are finite and not all zero (R48). -/
def bfpExp (xs : List Val) : Nat :=
  let e := xs.foldl (fun (a : Int) x => match x with
    | .fin _ m e => if m = 0 then a else max a (e + (bitLen m : Int) - 1)
    | .nan => a
    | .inf _ => a) (-200)
  if e = -200 then 0 else (min (e + 128) 254).toNat

/-- Saturate to m bits, as a pattern (R48). -/
def satS (w : Nat) (q : Int) : Nat :=
  let lo : Int := -(2 ^ (w - 1) : Int)
  let hi : Int := 2 ^ (w - 1) - 1
  ((if q < lo then lo else if hi < q then hi else q) % 2 ^ w).toNat

/-- The BFP converter (R48) on values already flushed and passed through the pre-stage; `rnd` rounds element `i`'s
mantissa quotient to an integer. -/
def bfpConvert (w : Nat) (xs : List Val) (rnd : Nat → Val → Int) : Nat × List Nat :=
  if xs.any fun x => match x with | .fin _ _ _ => false | .nan => true | .inf _ => true then (0xFF, List.replicate 16 0)
  else
    let E := bfpExp xs
    if E = 0 then (0, List.replicate 16 0)
    else (E, xs.zipIdx.map fun p => satS w (rnd p.2 (p.1.scale (-((E : Int) - 127 - ((w : Int) - 1))))))

/-- Read a subnormal pattern as zero (R38, R48). -/
def flushVal (f : FloatFmt) (p : Nat) : Val :=
  if p / 2 ^ f.fbits % 2 ^ f.ebits = 0 then .fin false 0 0 else f.val p

/-- A deterministic rounding to an integer, as the converter uses it. -/
def rndMode (mode : Nat) (_ : Nat) (v : Val) : Int := (v.toIntMode mode).getD 0

end Sys2Proof.Machine
end

