-- ==== Sys2Proof/Machine/Operands.lean ====
section
/-! DEFINITION. Operands and targets of element instructions, what a slot delivers, and the frame that every element
instruction runs in (04 R93-R96; 10 R202-R206; 11 R228, R229, R239). -/

namespace Sys2Proof.Machine

/-! ### Operands and targets of words (04 R93-R96, Table 3-4) -/

/-- Opcode of an element word. -/
def wordOp (w : BitVec 32) : Nat := fldN w 25 7

/-- The target fields of a word, in the order written; fields of zero name nothing. -/
def wordTargets (w : BitVec 32) : List (BitVec 9) :=
  let op := wordOp w
  let t0 := fld w 0 9
  let t1 := fld w 9 9
  let ts :=
    if op = 2 || op = 3 || op = 0x5A || op = 0x5B then []
    else if op = 0x06 || op = 0x08 || (0x46 ≤ op && op ≤ 0x49) || op = 0x4F || op = 0x50 then [t0]
    else if op = 0x52 || op = 0x54 || op = 0x55 then [t0]
    else if op = 0x0A || op = 0x0B || op = 0x53 || op = 0x56 || op = 0x57 || op = 0x5C then []
    else [t0, t1]
  ts.filter fun t => decide (t ≠ 0)

/-- Class and index of a target. -/
def tgtClass (t : BitVec 9) : Nat := fldN t 6 3
def tgtIdx (t : BitVec 9) : Nat := fldN t 0 6
/-- The operand a target of class 001-100 names. -/
def tgtOpnd (t : BitVec 9) : Option Opnd := match tgtClass t with
  | 1 => some .a
  | 2 => some .b
  | 3 => some .q
  | 4 => some .c
  | _ => none

/-- The words of a block that are no literals, with their slots (04 R93). -/
def slotWords : Nat → List (BitVec 32) → List (Nat × BitVec 32)
  | _, [] => []
  | k, [w] => [(k, w)]
  | k, w :: l :: ws => if wordOp w = 7 then (k, w) :: slotWords (k + 2) ws else (k, w) :: slotWords (k + 1) (l :: ws)
def Block.slots (b : Block) : List (Nat × BitVec 32) := slotWords 0 b.words

/-- Does some slot of the block deliver to `.q` of slot `k`? An EM instruction is predicated exactly then (04 R93). -/
def Block.predicated (b : Block) (k : Nat) : Bool :=
  b.slots.any fun p => (wordTargets p.2).any fun t => tgtClass t = 3 && tgtIdx t = k

/-- Is a word of EM format: LD, ST, AMO, LDT, STT, FENCE? -/
def isEm (w : BitVec 32) : Bool := decide (0x52 ≤ wordOp w ∧ wordOp w ≤ 0x57)

/-! ### Loops of rotations (11 R225) -/

/-- The rotation whose loop an FE belongs to in a plane. -/
def State.loopOf (s : State) (f : FeId) (plane : Nat) : Option (ResId × Rotation) :=
  match s.planeOwner f plane with
  | none => none
  | some r => ((s.res r).rots.find? fun q => q.plane = plane && q.loopFes.contains f).map fun q => (r, q)

/-- Does a loop edge enter an input port? -/
def State.loopPort (s : State) (f : FeId) (plane port : Nat) : Bool :=
  match s.planeOwner f plane with
  | none => false
  | some r =>
    let x := s.res r
    x.edges.any fun e => decide (e.plane = plane ∧ e.dst = f ∧ e.dstp = port) &&
      x.rots.any fun q => q.loopEdges.contains e.key

/-- The token a PIN of a port reads now, with its kind: a resident's kind reads 0 (R208, R211). -/
def InPort.reads (q : InPort) : Option (Token × BitVec 3) :=
  match q.resident with
  | some (t, _) => some (t, 0)
  | none => q.fifo.head?.map fun h => (h, h.kind)

/-! ### The firing of a plane -/

/-- The firing of a plane: the one that runs, or the one that plane 5 holds beneath it (18 R375). -/
def Fe.firingOf (x : Fe) (plane : Nat) : Option Firing :=
  match x.firing.filter fun g => g.plane = plane with
  | some g => some g
  | none => x.firingBelow.filter fun g => g.plane = plane
def Fe.modFiring (x : Fe) (plane : Nat) (k : Firing → Firing) : Fe :=
  { x with firing := x.firing.map fun g => if g.plane = plane then k g else g
           firingBelow := x.firingBelow.map fun g => if g.plane = plane then k g else g }
def Fe.modPlane (x : Fe) (p : Nat) (k : Plane → Plane) : Fe := { x with planes := vmod x.planes p k }
def State.modFiring (s : State) (f : FeId) (plane : Nat) (k : Firing → Firing) : State :=
  s.modFe f fun x => x.modFiring plane k
def State.modPlane (s : State) (f : FeId) (plane : Nat) (k : Plane → Plane) : State :=
  s.modFe f fun x => x.modPlane plane k
def State.plane (s : State) (f : FeId) (plane : Nat) : Plane := vget (s.fe f).planes plane

/-- The TAG of a firing: that of the first loop token its PINs read in slot order, already or still to come; none when it
reads no loop token (11 R228). -/
def State.firingTag (s : State) (f : FeId) (g : Firing) : Option (BitVec 8) :=
  if g.tag.isSome then g.tag
  else if (s.loopOf f g.plane).isNone then none
  else match vget (s.plane f g.plane).blocks g.block with
    | none => none
    | some b => b.slots.findSome? fun p =>
        let port := fldN p.2 22 3
        if g.slot ≤ p.1 && wordOp p.2 = 1 && s.loopPort f g.plane port then
          (vget (s.plane f g.plane).inp port).reads.map fun r => r.1.tag
        else none

/-- Mark the last `n` tokens of a list with a firing's TAG and bits. -/
def restampLast (g : Firing) (n : Nat) (ts : List Token) : List Token :=
  ts.zipIdx.map fun p => if ts.length ≤ p.2 + n then { p.1 with tag := g.tag.getD p.1.tag, sf := g.sf, sh := g.sh } else p.1

/-- Give every token of a firing the TAG, SF and SH that hold of the whole firing (11 R228, R229). -/
def State.restamp (s : State) (f : FeId) (plane : Nat) : State :=
  match (s.fe f).firingOf plane with
  | none => s
  | some g => s.modPlane f plane fun p => { p with outp := Vector.ofFn fun (k : Fin 8) =>
      let o := vget p.outp k.val
      { o with reg := restampLast g (g.emitted.filter (· = k.val)).length o.reg } }

/-- The TAG of what a firing emits, known as it emits (11 R228). -/
def State.emitTag (s : State) (f : FeId) (plane : Nat) : BitVec 8 := match (s.fe f).firingOf plane with
  | none => 0
  | some g => (s.firingTag f g).getD 0
/-- The arming number that a spliced successor's tokens carry while its predecessor runs (06 R138). -/
def State.emitNext (s : State) (f : FeId) (plane : Nat) : Option Nat := match s.planeOwner f plane with
  | none => none
  | some r => if (s.res r).predecessor.isSome then some (s.res r).armSeq else none
/-- Emit a token on an output port of a plane: its ordinal, its place, its sideband (05 R115; 10 R205; 11 R228). R115 has a token keep its
ORD across pass-through FEs, and has an FE output port give what it emits afresh that port's own count: no FE passes a token on but by
the words of its blocks, whose output ports emit, and every token they emit has the count of its port (DESIGN CHOICE, log entry 76). -/
def State.emit (s : State) (f : FeId) (plane port : Nat) (kind : BitVec 3) (data : Line) : State :=
  let g := ((s.fe f).firingOf plane).getD default
  let o := vget (s.plane f plane).outp port
  let ord := o.count
  let t : Token := { data, kind, tag := s.emitTag f plane, ord, sf := g.sf, sh := g.sh, late := o.eos, next := s.emitNext f plane }
  let s := s.modPlane f plane fun p => { p with outp := vmod p.outp port fun o =>
    { o with reg := o.reg ++ [t], free := o.free - 1, count := o.count + 1, eos := o.eos || kind = 5 } }
  let s := s.modFiring f plane fun g =>
    { g with emitted := g.emitted ++ [port], eosOut := if kind = 5 then g.eosOut ++ [port] else g.eosOut }
  match s.planeOwner f plane with
  | none => s
  | some r =>
    let a := (s.res r).asid
    let s := s.traceRec f.die 1 a (some r.idx) (s.throughDoor (some r)) f.page f.pos plane (wordN (port + ord.toNat * 2 ^ 32)) 0
    s.tokenWatch a f port true ord

/-! ### Residuals (07 R147, R157) -/

/-- max of the .f32 lanes, NaN if any lane is (R157). -/
def residualOf (x : Line) : BitVec 32 :=
  let f := fmtOf 10
  let ls := (List.range 16).map (lane x)
  if ls.any fun p => (f.val p).isNan then BitVec.ofNat 32 f.nanBits
  else BitVec.ofNat 32 (ls.foldl (fun a p => if (f.val a).lt (f.val p) then p else a) (ls.headD 0))

/-- Deliver a residual to the guard of a residency (R157). -/
def State.deliverResid (s : State) (r : ResId) (v : Line) : State :=
  let m := residualOf v
  let f := fmtOf 10
  let put (e t : Nat) : State := s.modTile r.die e t fun g =>
    if g.state ≠ .running then g
    else if !g.deliv then { g with res := m, deliv := true }
    else if !(f.val g.res.toNat).isNan && ((f.val m.toNat).isNan || (f.val g.res.toNat).lt (f.val m.toNat)) then
      { g with res := m }
    else g
  match (s.res r).guard with
  | .surrogate e t => put e t
  | .checker e t => put e t
  | .exact _ _ => s
  | .none => s

/-! ### Delivery -/

/-- Deliver to a sink now (R205). -/
def State.sinkNow (s : State) (f : FeId) (plane : Nat) (k : Sink) (v : Line) : State :=
  match k with
  | .kind p c => s.emit f plane p c v
  | .tgt t => match tgtClass t with
    | 5 => s.emit f plane (tgtIdx t) 0 v
    | 6 => s.modPlane f plane fun p => { p with e := vset p.e (tgtIdx t) v }
    | 7 =>
      if tgtIdx t = 1 then s.modFiring f plane fun g => { g with selp := some (BitVec.ofNat 3 (lane v 0)) }
      else if tgtIdx t = 2 then match s.planeOwner f plane with
        | none => s
        | some r => s.deliverResid r v
      else s
    | _ => s

/-- Let results go that no earlier slot holds back. -/
def State.flushLate (s : State) (f : FeId) (plane : Nat) : List Late → State
  | [] => s.modFiring f plane fun g => { g with late := [] }
  | l :: ls => match l.value with
    | none => s.modFiring f plane fun g => { g with late := l :: ls }
    | some v => (s.sinkNow f plane l.sink v).flushLate f plane ls

/-- Deliver a slot's result to a sink, behind earlier slots' results that are to come. -/
def State.sink (s : State) (f : FeId) (plane slot : Nat) (k : Sink) (v : Line) : State :=
  let late := (((s.fe f).firingOf plane).map (·.late)).getD []
  if late.isEmpty then s.sinkNow f plane k v
  else s.modFiring f plane fun g => { g with late := late ++ [⟨slot, k, some v⟩] }

/-- Deliver a slot's result to one target. -/
def State.deliverTo (s : State) (f : FeId) (plane slot : Nat) (v : Line) (t : BitVec 9) : State :=
  if t = 0 then s
  else match tgtOpnd t with
    | some o => s.modFiring f plane fun g => { g with dels := mapSet g.dels (tgtIdx t, o) (.value v) }
    | none => s.sink f plane slot (.tgt t) v

/-- The result of a load arrives: its place among the results that wait is filled (R204). -/
def State.arrive (s : State) (f : FeId) (plane slot : Nat) (t : BitVec 9) (v : Option Line) : State :=
  if t = 0 then s
  else match tgtOpnd t with
    | some o => s.modFiring f plane fun g =>
        { g with dels := mapSet g.dels (tgtIdx t, o) (match v with
          | some x => .value x
          | none => .never) }
    | none =>
      let late := (((s.fe f).firingOf plane).map (·.late)).getD []
      let late := match v with
        | some x => late.map fun l => if l.slot = slot then { l with value := some x } else l
        | none => late.filter fun l => decide (l.slot ≠ slot)
      s.flushLate f plane late

/-- A result that a load will bring (13 R295). -/
def State.expect (s : State) (f : FeId) (plane slot : Nat) (t : BitVec 9) : State :=
  if t = 0 then s
  else s.modFiring f plane fun g => match tgtOpnd t with
    | some o => { g with dels := mapSet g.dels (tgtIdx t, o) .pending }
    | none => { g with late := g.late ++ [⟨slot, .tgt t, none⟩] }

/-! ### The frame -/

/-- What the body of an element instruction comes to. -/
inductive EOut where
  /-- It delivers a result to its targets. -/
  | value (s : State) (v : Line)
  /-- It delivers nothing. -/
  | quiet (s : State)
  | fault (s : State) (x : Stop) (w4 : Nat)
  /-- It cannot complete yet. -/
  | wait (s : State)
  deriving DecidableEq, Repr, Inhabited

/-- The word at a slot of a firing. -/
def State.wordAt (s : State) (f : FeId) (g : Firing) (k : Nat) : BitVec 32 :=
  match vget (vget (s.fe f).planes g.plane).blocks g.block with
  | none => 0
  | some b => b.words.getD k 0
def State.blockOf (s : State) (f : FeId) (g : Firing) : Block :=
  (vget (vget (s.fe f).planes g.plane).blocks g.block).getD default

/-- The next slot of the firing, past a literal. -/
def State.nextSlot (s : State) : State :=
  match (s.fe s.curFe).firing with
  | none => s
  | some g =>
    let n := if wordOp (s.wordAt s.curFe g g.slot) = 7 then 2 else 1
    s.modFe s.curFe fun x => { x with firing := x.firing.map fun h => { h with slot := h.slot + n } }

/-- A fault of the current slot: a slot fault of a rotation (11 R239), or a fabric fault that freezes the pitch
(10 R206). -/
def State.slotFails (s : State) (g : Firing) (x : Stop) (w4 : Nat) (ts : List (BitVec 9)) : State :=
  let f := s.curFe
  match s.planeOwner f g.plane with
  | none => s
  | some r =>
    match s.loopOf f g.plane, s.firingTag f g with
    | some (_, q), some tag =>
      if x.code = .arithOvf then
        let n : Notice := { phase := tag.toNat, code := x.code, fe := (s.res r).index f, block := g.block,
                            slot := g.slot, ordinal := g.ordinal }
        let s := s.modRes r fun y => { y with rots := y.rots.map fun z =>
          if z.num = q.num then { z with notices := z.notices ++ [n] } else z }
        let s := (s.modFiring f g.plane fun h => { h with sf := true }).restamp f g.plane
        ts.foldl (fun s t => s.deliverTo f g.plane g.slot 0 t) s
      else s.fabricFault r f g.plane g.block g.slot g.ordinal x w4
    | _, _ => s.fabricFault r f g.plane g.block g.slot g.ordinal x w4

/-- Complete the current slot. -/
def endSlot (g : Firing) (ts : List (BitVec 9)) : EOut → State
  | .value s v => (ts.foldl (fun s t => s.deliverTo s.curFe g.plane g.slot v t) s).nextSlot
  | .quiet s => s.nextSlot
  | .fault s x w4 => (s.slotFails g x w4 ts).nextSlot
  | .wait s => s

/-- What stands at an operand of the current slot: with no delivery it never comes, since producers stand earlier. -/
def Firing.operand (g : Firing) (o : Opnd) : Arrived := (mapFind g.dels (g.slot, o)).getD .never
def Arrived.line : Arrived → Line
  | .value v => v
  | .never => 0
  | .pending => 0

/-- An element instruction that reads `reads`, and `.q` when predicated (10 R203): skipped when an operand never comes
or its predicate is zero, waiting while one is to come. -/
def State.element (s : State) (reads : List Opnd) (q : Bool) (ts : List (BitVec 9))
    (body : Firing → (Opnd → Line) → State → EOut) : State :=
  match (s.fe s.curFe).firing with
  | none => s
  | some g =>
    let need := if q then reads ++ [Opnd.q] else reads
    if need.any fun o => g.operand o = .never then s.nextSlot
    else if need.any fun o => g.operand o = .pending then s
    else
      let val (o : Opnd) : Line := (g.operand o).line
      if q && lane (val .q) 0 = 0 then s.nextSlot
      else endSlot g ts (body g val s)

/-- An element instruction that computes a result from its operands and the plane's default rounding. -/
def State.compute (s : State) (reads : List Opnd) (q : Bool) (ts : List (BitVec 9)) (k : Nat → (Opnd → Line) → Option Line) :
    State :=
  s.element reads q ts fun g val s =>
    match k (s.plane s.curFe g.plane).rounding val with
    | some v => .value s v
    | none => .fault s { code := .arithOvf } 0

end Sys2Proof.Machine
end

