-- ==== Sys2Proof/Machine/Cut.lean ====
section
/-! DEFINITION. Configuration phases, marker cuts and rollback (17 R352, R357; 18 R368, R369; 19 R388, R392, R393). -/

namespace Sys2Proof.Machine

/-- Saturate a count at 2^32 - 1 (19 R392). -/
def sat32 (n : Nat) : Nat := min n (2 ^ 32 - 1)

/-- The record of a phase that ends at cycle `b` with end kind `k` (19 R392, Table 19-3). -/
def PhaseNow.close (p : PhaseNow) (plane k b : Nat) : PhaseRec :=
  let e := min (p.e.getD b) b
  let z := min (p.z.getD b) b
  let fillEnd := max p.enabled (min e z)
  let steadyEnd := max fillEnd z
  { seq := p.seq, plane, endKind := k, load := sat32 (p.enabled - p.begun), fill := sat32 (fillEnd - p.enabled)
    steady := sat32 (steadyEnd - fillEnd), drain := sat32 (b - steadyEnd), endcyc := b }

/-- End the phase of a pitch at cycle `b` and begin the next; a switch's wait is the next phase's LOAD (19 R392,
R393). -/
def State.phaseEnd (s : State) (r : ResId) (kind b enabled : Nat) : State :=
  s.modRes r fun x =>
    let p := x.phase.close x.plane kind b
    { x with phases := (x.phases ++ [p]).drop (x.phases.length + 1 - 64)
             totals := Vector.ofFn fun (i : Fin 4) => vget x.totals i.val + [p.load, p.fill, p.steady, p.drain].getD i.val 0
             phase := { seq := x.phase.seq + 1, begun := b, enabled } }

/-- Trace a phase boundary (19 Table 19-2 class 4). -/
def State.tracePhase (s : State) (r : ResId) : State :=
  let x := s.res r
  s.traceRec r.die 4 x.asid (some r.idx) (s.throughDoor (some r)) (pageNum x.band0 x.group0) 0 x.plane (wordN x.phase.seq) 0

/-- The threads that work for a residency. -/
def State.threadsOf (s : State) (r : ResId) : List ThreadId :=
  (s.threads.filter fun p => decide (p.2.role.res = some r)).map (·.1)

/-- Does an EOS or a DRAIN stand at the head of an input port of an FE's active plane? -/
def Fe.endingHead (y : Fe) : Bool :=
  (vget y.planes y.active).inp.toList.any fun q => q.fifo.head?.any fun h => h.kind = 5 || h.kind = 7
/-- A phase begins: an EOS or a DRAIN that stands at a head then is its first (19 R392). -/
def State.phaseHeads (s : State) (r : ResId) : State :=
  if (pitchFes r (s.res r)).any fun f => decide (s.owner f = some r) && (s.fe f).endingHead then
    s.modRes r fun x => { x with phase := { x.phase with z := some (x.phase.z.getD s.cyc) } }
  else s

/-- The buffered stores of a pitch's threads perform. -/
def State.drainPitch (s : State) (r : ResId) : State := (s.threadsOf r).foldl (fun s t => s.drain t) s
/-- A store, or an AMO, that has issued at a port and not performed: held and parked ones too (R351). -/
def MemOp.storing (o : MemOp) : Bool :=
  decide (o.stage ≠ .reached) && match o.kind with
    | .store _ _ => true
    | .stt _ _ => true
    | .amo _ _ _ => true
    | .null => false
    | .load _ => false
    | .fence _ => false
    | .ldt _ => false
/-- Has every store of a pitch performed that its threads have buffered, its bindings have taken and its FE ports have issued
(R352)? A bank's store has performed as the bank has taken it. -/
def State.pitchStored (s : State) (r : ResId) : Bool :=
  let x := s.res r
  ((s.threadsOf r).all fun t => s.drained t) && (x.binds.all fun b => b.2.stores.isEmpty) &&
  s.fes.all fun p => !(decide (p.1.die = r.die) && x.pages.contains p.1.page) ||
    p.2.port.all fun o => !x.usesPlane o.plane || !o.storing

/-- A boundary of R352: the phase ends. -/
def State.boundary (s : State) (r : ResId) (kind b enabled : Nat) : State :=
  ((s.drainPitch r).tracePhase r).phaseEnd r kind b enabled

/-- The die of a copy's owner. -/
def TentOwner.die : TentOwner → Nat
  | .tile d _ _ => d
  | .snap r => r.die
/-- The number of a line that a peer homes: which peer, and the line's number there. -/
def peerOf (line : Nat) : Option (Nat × Nat) := if 2 ^ 49 ≤ line then some (line / 2 ^ 49 - 1, line % 2 ^ 49) else none

/-- Tentative bytes of a line become memory, or go to the peer that homes it unless they have gone before. A store through a mapping with
T = 0 has made its cell VALUE (12 R266). The manual does not say what a commit does to a line that has become a SPORE, GROWING or
FAILED cell since the copy was made: its bytes are written and its tag stays (DESIGN CHOICE, log entry 69). -/
def State.commitPart (s : State) (o : TentOwner) (asid : BitVec 16) (t : Tentative) (h : TentPart) : State :=
  let codes := s.codeStores (.tent o t.line)
  match peerOf t.line with
  | some (p, n) => if t.gone then s else s.peerPut o.die [] asid p (n * 64) h.data h.mask
  | none =>
    let s := if t.untagged && s.tag t.line ≠ 0 then s.setTag t.line 0 else s
    (s.homeMerge t.line h.data h.mask h.poison codes).ownLine t.line asid

/-- The tentative copies of an owner become memory, all at one point (07 R151, 17 R357). -/
def State.commitTent (s : State) (o : TentOwner) (asid : BitVec 16) : State :=
  let mine := s.tent.filter fun t => decide (t.owner = o)
  let s := { s with tent := s.tent.filter fun t => decide (t.owner ≠ o) }
  let s := mine.foldl (fun s t => s.commitPart o asid t ⟨t.data, t.mask, t.poison⟩) s
  s.dropCode fun k => mine.any fun t => decide (k = .tent o t.line)

/-- What a copy holds for the next cut when one completes, if anything. -/
def Tentative.kept (t : Tentative) : Option Tentative :=
  if t.held.isNone || t.late = 0 then none else some { t with mask := t.late, late := 0, held := none, gone := false }
/-- What a copy holds for the cut that completes, if anything. -/
def Tentative.due (t : Tentative) : Option TentPart :=
  (t.held.getD ⟨t.data, t.mask, t.poison⟩ : TentPart) |> fun h => if h.mask = 0 then none else some h

/-- Do peers home bytes of an owner's commit that have yet to perform there: the commit point follows their performing (17 R357; 07 R151)? -/
def State.commitOwed (s : State) (o : TentOwner) : Bool :=
  s.tent.any fun t => decide (t.owner = o) && t.due.isSome && (peerOf t.line).any fun p =>
    s.peerUp p.1 && (!t.gone || s.sent.any fun x => decide (x.peer = p.1 ∧ x.line = p.2 ∧ x.kind = .write ∧ x.who = none) && !x.answered)
/-- Send the peers what they home of an owner's commit. -/
def State.commitSend (s : State) (o : TentOwner) (asid : BitVec 16) : State :=
  s.tent.foldl (fun s t => match peerOf t.line, t.due with
    | some (p, n), some h =>
      if t.owner ≠ o || t.gone then s
      else
        let s := s.peerPut o.die [] asid p (n * 64) h.data h.mask
        { s with tent := s.tent.map fun y => if y.owner = o ∧ y.line = t.line then { y with gone := true } else y }
    | _, _ => s) s

/-- The stores a SNAP residency holds for the cut that completes become memory, all at one point; those made past the cut wait
for the next (17 R357). -/
def State.commitCut (s : State) (r : ResId) : State :=
  let o := TentOwner.snap r
  let due := (s.tent.filter fun t => decide (t.owner = o)).filterMap fun t => t.due.map fun h => (t, h)
  let s : State := { s with tent := s.tent.filterMap fun t => if t.owner = o then t.kept else some t }
  let s := due.foldl (fun s x => s.commitPart o (s.res r).asid x.1 x.2) s
  s.dropCode fun k => due.any fun x => decide (k = .tent o x.1.line) && !s.tent.any fun t => decide (t.owner = o ∧ t.line = x.1.line)

/-- Discard the tentative copies of an owner. -/
def State.discardTent (s : State) (o : TentOwner) : State :=
  let mine := s.tent.filter fun t => decide (t.owner = o)
  ({ s with tent := s.tent.filter fun t => decide (t.owner ≠ o) } : State).dropCode fun k => mine.any fun t => decide (k = .tent o t.line)

/-- Union IN and union OUT of a plane (10 R199). -/
def Plane.unionIn (p : Plane) : List Nat :=
  (List.range 8).filter fun k => p.blocks.toList.any fun b => (b.map fun b => bitOf b.header (8 + k)).getD false
def Plane.unionOut (p : Plane) : List Nat :=
  (List.range 8).filter fun k => p.blocks.toList.any fun b => (b.map fun b => bitOf b.header k).getD false

/-- What an FE's plane holds for a cut. -/
def Plane.shadow (p : Plane) : Shadow :=
  { e := p.e, sel := p.sel, genKey := p.genKey, genCtr := p.genCtr, drained := p.drained, fired := p.fired }
/-- An FE as a cut completes: its pending shadow becomes the last complete cut's; a plane that was drained before the cut
holds what it holds now. -/
def Fe.cutDone (y : Fe) : Fe :=
  let p := vget y.planes y.active
  { y with cutShadow := match y.pendingShadow with
             | some z => z
             | none => if p.drained then p.shadow else y.cutShadow
           pendingShadow := none, cutTaken := none }

/-- A cut completes: shadows and counters become the last complete cut and a SNAP residency's stores perform (18 R368,
17 R357). A debug cut commits nothing and freezes the device (19 R388). -/
def State.completeCut (s : State) (r : ResId) : State :=
  match (s.res r).cut with
  | none => s
  | some c =>
    let x := s.res r
    let mine (f : FeId) : Bool := decide (f.die = r.die) && x.pages.contains f.page
    if c.debug then
      let s := s.modRes r fun x => { x with cut := none }
      ({ s with front := { s.front with dbg := { s.front.dbg with cut := none } } }).startFreeze s.cyc none
    else
      let s := s.modRes r fun x =>
        { x with cut := none, cutCommitted := some c.num, cutBinds := c.made }
      let fes := s.fes.map fun (p : FeId × Fe) => if mine p.1 then (p.1, p.2.cutDone) else p
      let s := { s with fes }
      if x.snap then s.commitCut r else s

/-- Input bindings that insert MARKs, output bindings that consume them. -/
def Binding.marks (b : Binding) : Bool := match b.kind, b.dest with
  | .input, .port _ _ => !b.eosDone && !b.stopping
  | .input, .slot _ _ => false
  | .output, _ => false
  | .multicast, _ => false

/-- Start a cut: every active input binding is asked for a MARK; with none the cut completes at once (09 R197). An output
binding that has taken EOS takes no MARK, and the stores it has taken come before the cut. -/
def State.startCut (s : State) (r : ResId) (num : BitVec 32) (debug : Bool) (limit : Nat) : State :=
  let x := s.res r
  let ins := (x.binds.filter fun b => b.2.marks).map (·.1)
  let outs := (x.binds.filter fun b => decide (b.2.kind ≠ .input) && !b.2.discarding && !b.2.eosDone).map (·.1)
  let s := s.modRes r fun x =>
    { x with cut := some { num, debug, since := s.cyc, outPending := outs, inPending := ins, limit }
             binds := x.binds.map fun (b : Nat × Binding) =>
               if b.2.marks then (b.1, { b.2 with markDue := some (num, debug) })
               else if b.2.eosDone then (b.1, { b.2 with cutStores := b.2.stores.length }) else b }
  if ins.isEmpty && !(x.snap && s.commitOwed (.snap r)) then s.completeCut r else s

/-- Capacity of what leaves an output port: the least of its edges', or 8 for a port that feeds a stream (08 R165). -/
def Residency.portCapacity (x : Residency) (f : FeId) (plane port : Nat) : Nat :=
  let caps := (x.edges.filter fun e => decide (e.src = f ∧ e.srcp = port ∧ e.plane = plane)).map (·.capacity)
  caps.foldl min (caps.headD 8)

/-- Every free-space counter of an FE at the capacity of its port, the ports being empty (08 R165). -/
def Fe.fullCredit (y : Fe) (x : Residency) (f : FeId) : Fe :=
  { y with planes := Vector.ofFn fun (i : Fin 6) =>
      let p := vget y.planes i.val
      if x.usesPlane i.val then
        { p with outp := Vector.ofFn fun (k : Fin 8) =>
            { vget p.outp k.val with free := x.portCapacity f i.val k.val } }
      else p }

/-- Has an FE taken the cut? One that reads no port, one drained and one of a loop have nothing to take. -/
def State.feCut (s : State) (r : ResId) (c : Cut) (f : FeId) : Bool :=
  let plane := s.portPlane r f
  let p := vget (s.fe f).planes plane
  p.unionIn.isEmpty || p.drained || (s.loopOf f plane).isSome || decide ((s.fe f).cutTaken = some (c.num, c.debug))

/-- Has everything that takes a cut taken it: every binding that still stands has put its MARK in or consumed it, and every FE is
past it (19 R388)? -/
def State.cutTaken (s : State) (r : ResId) (c : Cut) : Bool :=
  let x := s.res r
  let open_ (k : Nat) : Bool := (mapFind x.binds k).any fun b => !b.discarding
  !c.outPending.any open_ && !c.inPending.any open_ && (pitchFes r x).all fun f => s.feCut r c f

/-- Is a cut complete: taken, and, but for a debug cut, the stores taken before it performed (18 R368; 19 R388)? -/
def State.cutIsDone (s : State) (r : ResId) (c : Cut) : Bool :=
  s.cutTaken r c && (c.debug || (s.res r).binds.all fun b => decide (b.2.cutStores = 0))

/-- A debug cut that everything has taken is complete in that cycle, which is the freeze's origin (19 R388). -/
def State.debugCutTaken (s : State) : State :=
  match s.front.dbg.cut with
  | none => s
  | some (r, _, _) => match (s.res r).cut with
    | none => s
    | some c => if c.debug && !s.front.dbg.frozen && s.cutTaken r c then s.completeCut r else s

/-- A cut that is complete takes effect before a rollback that strikes in the same cycle (17 R357). -/
def State.cutFirst (s : State) (r : ResId) : State :=
  match (s.res r).cut with
  | none => s
  | some c => if !c.debug && s.cutIsDone r c then s.completeCut r else s

/-- A thread without the stores to global memory that it has buffered. -/
def Thread.unstored (x : Thread) : Thread :=
  { x with sbuf := x.sbuf.filter fun b => match b.target with
      | .glob _ _ _ => false
      | .scratch _ _ => true }
/-- Roll a SNAP residency back to its last complete cut (18 R369): stores that its FE ports have issued since the cut and that
have not performed, and the tentative stores that its threads have buffered since, are discarded with those that are held (17 R357);
a plane beneath plane 5 is the one restored. -/
def State.rollback (s : State) (r : ResId) : State :=
  let s := s.cutFirst r
  let x := s.res r
  let mine (f : FeId) : Bool := decide (f.die = r.die) && x.pages.contains f.page
  let s := (s.discardTent (.snap r)).dropReplays r
  let s := (s.threadsOf r).foldl (fun s t => s.modThr t Thread.unstored) s
  let s := s.discardFabric r
  let back (f : Fe) : Fe :=
    { f with port := f.port.filter fun o => !x.usesPlane o.plane
             planes := vmod f.planes (f.beneath.getD f.active) fun p =>
               { p with e := f.cutShadow.e, sel := f.cutShadow.sel, genKey := f.cutShadow.genKey, genCtr := f.cutShadow.genCtr
                        drained := f.cutShadow.drained, fired := f.cutShadow.fired }
             tiles := .replicate 16 {}, samp := {}, pendingShadow := none, cutTaken := none }
  let pins := (s.fes.filter fun p => mine p.1).flatMap fun p => p.2.tiles.toList.flatMap (·.pins)
  let s := pins.foldl (fun s l => s.unpin (some r) l) s
  let fes := s.fes.map fun (p : FeId × Fe) => if mine p.1 then (p.1, (back p.2).fullCredit x p.1) else p
  let s := { s with fes }
  let s := x.cutBinds.foldl (fun s b =>
    let s := s.modRes r fun x => { x with binds := x.binds ++ [b] }
    s.modThr b.2.owner fun y => { y with se := { y.se with running := y.se.running ++ [b.2.cmd] } }) s
  s.modRes r fun x => { x with freeze := 0, cut := none }

end Sys2Proof.Machine
end

