-- ==== Sys2Proof/Machine/Ports.lean ====
section
/-! DEFINITION. Ports of an FE, the ends of firings, drains and cuts, and the dataflow and port instructions
(10 R198-R214; 18 R368; 19 R388). -/

namespace Sys2Proof.Machine

/-! ### Ports -/

/-- Change an input port of a plane. -/
def State.modIn (s : State) (f : FeId) (plane port : Nat) (k : InPort → InPort) : State :=
  s.modPlane f plane fun p => { p with inp := vmod p.inp port k }
/-- Change an output port of a plane. -/
def State.modOut (s : State) (f : FeId) (plane port : Nat) (k : OutPort → OutPort) : State :=
  s.modPlane f plane fun p => { p with outp := vmod p.outp port k }

/-- Take the head token of an input port out of its FIFO. -/
def InPort.pop (q : InPort) : InPort := { q with fifo := q.fifo.drop 1, headSeen := false }
/-- Places of its edge that a token takes in the FIFO. -/
def Token.places (t : Token) : Nat := if t.made then 0 else 1
/-- Take the head token and owe its place (R165). -/
def InPort.take (q : InPort) : InPort := { q.pop with owed := q.owed + (q.fifo.head?.map Token.places).getD 0 }
/-- Take the head token for the port's actor, counting an EOS it consumes (09 R185). -/
def InPort.consume (q : InPort) : InPort :=
  let eos := match q.fifo with
    | [] => 0
    | t :: _ => if t.kind = 5 then 1 else 0
  { q.take with eosOut := q.eosOut + eos }

/-- Empty the resident of a port, and release the tile slot that waits for the port's END (R209, 14 R298). -/
def State.releaseTile (s : State) (f : FeId) (k : Nat) : State :=
  let t := vget (s.fe f).tiles k
  let s := t.pins.foldl (fun s l => s.unpin (s.owner f) l) s
  s.modFe f fun x => { x with tiles := vmod x.tiles k fun z =>
    { z with tag := .empty, hold := .none, hport := none, pins := [] } }

/-- Empty a slot's hold of UNTIL_END that port `port` releases (14 R298). -/
def State.releaseHeld (s : State) (f : FeId) (port : Nat) : State :=
  (List.range 16).foldl (fun s k =>
    let t := vget (s.fe f).tiles k
    if t.hold = .untilEnd ∧ t.hport = some port then s.releaseTile f k else s) s

/-- Does a tile slot hold UNTIL_END for the port? -/
def Fe.holdsFor (x : Fe) (port : Nat) : Bool := x.tiles.toList.any fun t => decide (t.hold = .untilEnd ∧ t.hport = some port)

/-- What a port does when a token has reached its head: it counts DRAIN, meets token breakpoints, notes the phase's first EOS
or DRAIN (R210, 19 R381, R392). -/
def State.headArrives (s : State) (f : FeId) (plane port : Nat) : State :=
  let q := vget (s.plane f plane).inp port
  match q.fifo with
  | [] => s
  | h :: _ =>
    if q.headSeen then s
    else
      let s := s.modIn f plane port fun q => { q with headSeen := true }
      match s.planeOwner f plane with
      | none => s
      | some r =>
        let s := if h.made then s else s.tokenWatch (s.res r).asid f port false h.ord
        let here := decide (plane = (s.fe f).active)
        s.modRes r fun y =>
          let last := y.switch.isSome || match y.ring[y.ringAt]? with
            | some (_, l) => decide (y.index f = l)
            | none => false
          { y with drains := if h.kind = 7 && (y.ringRun || (y.switch.bind (·.ring)).isSome) && last then y.drains ++ [y.index f] else y.drains
                   phase := if (h.kind = 5 || h.kind = 7) && here && y.phase.z.isNone then { y.phase with z := some s.cyc }
                            else y.phase }

/-- Change an input port; what then stands at its head has reached it. -/
def State.modHead (s : State) (f : FeId) (plane port : Nat) (k : InPort → InPort) : State :=
  (s.modIn f plane port k).headArrives f plane port
/-- Does a port keep from firings the token that a breakpoint stopped at its head (19 R381)? -/
def State.heldHead (s : State) (f : FeId) (port : Nat) : Bool := s.front.dbg.stopped.contains (.port f port false)

/-- Is a MARK one of a debug cut that is in progress no more (19 R388)? -/
def State.staleMark (s : State) (f : FeId) (plane : Nat) (t : Token) : Bool :=
  t.kind = 6 && lane t.data 1 = 1 && match s.planeOwner f plane with
    | none => false
    | some r => !(s.res r).cut.any fun c => c.debug

/-- R209 on one port: a MARK of a debug cut that was withdrawn is removed; while its resident, or a tile slot, holds UNTIL_END, the port acts on the tokens at its head; each
END0 is removed. -/
def State.settlePort (s : State) (f : FeId) (plane port : Nat) : Nat → State
  | 0 => s
  | n + 1 =>
    let s := s.headArrives f plane port
    let q := vget (s.plane f plane).inp port
    let sticky := (match q.resident with
      | some (_, 0) => true
      | some (_, _) => false
      | none => false) || (s.fe f).holdsFor port
    if q.fifo.head?.any fun h => s.staleMark f plane h then
      (s.modHead f plane port InPort.take).settlePort f plane port n
    else if !sticky then s
    else match q.fifo with
      | [] => s
      | h :: _ =>
        if h.kind = 1 then (s.modHead f plane port InPort.take).settlePort f plane port n
        else if h.kind = 0 || h.kind = 6 then s
        else
          let s := s.modIn f plane port fun q => { q with resident := match q.resident with
            | some (_, 0) => none
            | some x => some x
            | none => none }
          s.releaseHeld f port

/-- R209 and R210 on every port of a plane, between firings. -/
def State.settle (s : State) (f : FeId) (plane : Nat) : State :=
  (List.range 8).foldl (fun s k => s.settlePort f plane k ((vget (s.plane f plane).inp k).fifo.length + 1)) s

/-- The residency under which an FE may start a firing of its active plane, or an MTU operation, if it may now: armed,
not ended, not frozen, no plane switch on its way unless `during`, no stop by the debugger, no debug cut taken, a gang
slice running (06 R139, R141; 18 R362; 19 R383, R388). -/
def State.mayStart (s : State) (f : FeId) (during : Bool) : Option ResId :=
  match s.owner f with
  | none => none
  | some r =>
    let x := s.res r
    let dbg := match (s.fe f).cutTaken with
      | some (_, b) => b
      | none => false
    if x.state = .armed && !x.freed && decide (x.freeze = 0) && (x.switch.isNone || during) && !s.stoppedFe f && !dbg &&
        (x.gang = .none || x.gang = .running) && !x.scrubbing then some r
    else none

/-! ### The ends of firings (R198-R201, R213, R214) -/

/-- Has every result of the firing arrived, and every memory instruction of it issued and answered? Issued stores may
linger at the port. -/
def Fe.firingQuiet (x : Fe) (g : Firing) : Bool :=
  g.late.isEmpty && x.port.all fun o => decide (o.plane ≠ g.plane) || o.lingers

/-- Lane 0 and lane 1 of a MARK: cut number, debug mark (19 R388). -/
def markOf (t : Token) : BitVec 32 × Bool := (BitVec.ofNat 32 (lane t.data 0), lane t.data 1 = 1)

/-- Ports of the union OUT on which the firing emitted no EOS. -/
def Plane.eosLeft (p : Plane) (g : Firing) : List Nat := p.unionOut.filter fun k => !g.eosOut.contains k

/-- Room for one token on every port listed. -/
def Plane.room (p : Plane) (ports : List Nat) : Bool := ports.all fun k => decide (0 < (vget p.outp k).free)

/-- The end of a drain: EOS on every port still without one, the EOS tokens at the heads removed, the plane drained
(R200). -/
def State.endDrain (s : State) (f : FeId) (g : Firing) : State :=
  let p := s.plane f g.plane
  let s := (p.eosLeft g).foldl (fun s k => s.emit f g.plane k 5 0) s
  let s := p.unionIn.foldl (fun s k => s.modHead f g.plane k fun q => match q.fifo with
    | h :: _ => if h.kind = 5 then q.consume else q
    | [] => q) s
  s.modPlane f g.plane fun p => { p with drained := true }

/-- The end of a cut: the MARKs at the heads removed, one emitted on every port of the union OUT, the shadow copied
(R201, 18 R368). -/
def State.endCut (s : State) (f : FeId) (g : Firing) : State :=
  let p := s.plane f g.plane
  let heads := p.unionIn.filterMap fun k => (vget p.inp k).fifo.head?
  let m := heads.headD default
  let s := p.unionOut.foldl (fun s k => s.emit f g.plane k 6 m.data) s
  let s := p.unionIn.foldl (fun s k => s.modHead f g.plane k InPort.take) s
  s.modFe f fun x =>
    let p := vget x.planes g.plane
    { x with cutTaken := some (markOf m)
             pendingShadow := if (markOf m).2 then x.pendingShadow
                              else some p.shadow }

/-- Tokens that PINs of the firing consumed go back (KEEP) or leave their places, and the next token has reached the head; then
RELEASE (R213). -/
def State.endPins (s : State) (f : FeId) (g : Firing) : State :=
  let s := g.pins.foldl (fun s p => match p.fresh with
    | none => s
    | some t =>
      if g.keeps.contains p.port then
        s.modIn f g.plane p.port fun q => { q with fifo := t :: q.fifo, headSeen := true }
      else s.modHead f g.plane p.port fun q => { q with owed := q.owed + t.places }) s
  g.releases.foldl (fun s k => s.modIn f g.plane k fun q => { q with resident := none }) s

/-- End the firing of the current FE with `EXIT` or `EXITC` naming a block; it waits until the firing is quiet, and a
drain or a cut for room for its EOS or MARK tokens. An absent block that EXITC selects is BAD_BLOCK; EXIT's is present by
04 R98 (R198, R200, R201, R214). -/
def State.endFiring (s : State) (g : Firing) (next : Nat) (checked : Bool) : EOut :=
  let f := s.curFe
  let x := s.fe f
  let p := s.plane f g.plane
  let ready := x.firingQuiet g && match g.kind with
    | .normal => true
    | .drain => p.room (p.eosLeft g)
    | .cut => p.room p.unionOut
  if !ready then .wait s
  else
    let absent := checked && (vget p.blocks next).isNone
    let s := if absent then s else s.modPlane f g.plane fun p => { p with sel := next }
    let s := s.endPins f g
    let s := match g.kind with
      | .normal => s
      | .drain => s.endDrain f g
      | .cut => s.endCut f g
    let s := s.modPlane f g.plane fun p => { p with fired := true }
    let s := s.modFe f fun x => { x with firing := none }
    match s.planeOwner f g.plane with
    | some r =>
      if absent then .quiet (s.fabricFault r f g.plane g.block g.slot g.ordinal { code := .badBlock } next) else .quiet s
    | none => .quiet s

/-! ### Loop tokens (11 R228, R229) -/

/-- A PIN has read a token of a loop: its TAG becomes the firing's, its bits add to the firing's. False when its TAG is
another than the firing's. -/
def State.readLoop (s : State) (f : FeId) (g : Firing) (port : Nat) (t : Token) : Bool × State :=
  if !s.loopPort f g.plane port || (s.loopOf f g.plane).isNone then (true, s)
  else match g.tag with
    | some tag =>
      if tag ≠ t.tag then (false, s)
      else (true, (s.modFiring f g.plane fun h => { h with sf := h.sf || t.sf, sh := h.sh || t.sh }).restamp f g.plane)
    | none =>
      (true, (s.modFiring f g.plane fun h => { h with tag := some t.tag, sf := h.sf || t.sf, sh := h.sh || t.sh }).restamp
        f g.plane)

/-- A token of a loop that TFILL or SPADD has read: its bits add to the firing's (11 R229). -/
def State.readBits (s : State) (f : FeId) (plane port : Nat) (t : Token) : State :=
  if !s.loopPort f plane port || (s.loopOf f plane).isNone then s
  else (s.modFiring f plane fun h => { h with sf := h.sf || t.sf, sh := h.sh || t.sh }).restamp f plane
/-- TFILL or SPADD takes the token at the head of a port. -/
def State.takeHead (s : State) (f : FeId) (plane port : Nat) (t : Token) : State :=
  (s.readBits f plane port t).modHead f plane port InPort.take

/-! ### Dataflow and port instructions (R208-R214) -/

/-- R208: what a PIN leaves of its port, and the token it consumed. In a cut the MARK stays for the cut to remove. -/
def InPort.pin (q : InPort) (sticky : Nat) (cut : Bool) : InPort × Option Token :=
  match q.resident with
  | some (t, rc) =>
    if rc = 0 then (q, none)
    else if rc = 1 then ({ q with resident := none }, none)
    else ({ q with resident := some (t, rc - 1) }, none)
  | none => match q.fifo with
    | [] => (q, none)
    | h :: _ =>
      if h.kind = 5 || (cut && h.kind = 6) then (q, none)
      else if h.kind ≠ 0 || sticky = 1 then (q.pop, some h)
      else if sticky = 0 then ({ q.pop with resident := some (h, 0) }, some h)
      else ({ q.pop with resident := some (h, sticky - 1) }, some h)

/-- PIN: reads its port by R208. -/
def execPin (p : BitVec 3) (k : BitVec 4) (u t : BitVec 9) (s : State) : Out :=
  .next (s.element [] false [t, u] fun g _ s =>
    let f := s.curFe
    let q := vget (s.plane f g.plane).inp p.toNat
    match q.reads with
    | none => .wait s
    | some (h, kind) =>
      let (q', fresh) := q.pin k.toNat (g.kind = .cut)
      let s := s.modIn f g.plane p.toNat fun _ => q'
      let s := s.modFiring f g.plane fun h => { h with pins := h.pins ++ [⟨p.toNat, kind, fresh⟩] }
      match s.readLoop f g p.toNat h with
      | (true, s) => .value s h.data
      | (false, s) => .fault s { code := .rotSlip } ((g.tag.getD 0).toNat))

/-- POUT: a token of kind `k` with a's data. -/
def execPout (p k : BitVec 3) (s : State) : Out :=
  .next (s.element [.a] false [] fun g val s => .quiet (s.sink s.curFe g.plane g.slot (.kind p.toNat k) (val .a)))

/-- PCTL KEEP: acts when lane 0 of a is not zero, at the firing's end. -/
def execPctlKeep (p : BitVec 3) (s : State) : Out :=
  .next (s.element [.a] false [] fun g val s =>
    if lane (val .a) 0 = 0 then .quiet s
    else .quiet (s.modFiring s.curFe g.plane fun h => { h with keeps := h.keeps ++ [p.toNat] }))

/-- PCTL RELEASE: acts when lane 0 of a is not zero, at the firing's end. -/
def execPctlRelease (p : BitVec 3) (s : State) : Out :=
  .next (s.element [.a] false [] fun g val s =>
    if lane (val .a) 0 = 0 then .quiet s
    else .quiet (s.modFiring s.curFe g.plane fun h => { h with releases := h.releases ++ [p.toNat] }))

/-- PKIND: every lane the kind of the token this firing's PIN of the port reads, before or after. -/
def execPkind (p : BitVec 3) (u t : BitVec 9) (s : State) : Out :=
  .next (s.element [] false [t, u] fun g _ s =>
    let kind : Option (BitVec 3) := match g.pins.find? fun r => r.port = p.toNat with
      | some r => some r.kind
      | none => (vget (s.plane s.curFe g.plane).inp p.toNat).reads.map fun r => r.2
    match kind with
    | none => .wait s
    | some k => .value s (ofLanes (List.replicate 16 k.toNat)))

/-- MOV: a, bit for bit. -/
def execMov (q : BitVec 1) (u t : BitVec 9) (s : State) : Out :=
  .next (s.element [.a] (q = 1) [t, u] fun _ val s => .value s (val .a))

/-- CONST: every element Wrap(imm, T), or imm rounded by RNE. -/
def execConst (i : BitVec 10) (T : BitVec 4) (t : BitVec 9) (s : State) : Out :=
  .next (s.element [] false [t] fun _ _ s =>
    let T := T.toNat
    let p := if typeFloat T then (fmtOf T).roundVal 0 (Val.ofInt i.toInt) else wrapInt T i.toInt
    .value s (ofElems T (List.replicate (typeElems T) p)))

/-- The pattern a literal fills each element with (R212). -/
def literalPat (T : Nat) (l : BitVec 32) : Nat :=
  match T with
  | 6 => (l.signExtend 64).toNat
  | 11 => (fmtOf 11).roundVal 0 ((fmtOf 10).val l.toNat)
  | _ => l.toNat % 2 ^ typeBits T

/-- CONSTW: every element from the literal in the next slot. -/
def execConstw (T : BitVec 4) (u t : BitVec 9) (s : State) : Out :=
  .next (s.element [] false [t, u] fun g _ s =>
    let l := s.wordAt s.curFe g (g.slot + 1)
    .value s (ofElems T.toNat (List.replicate (typeElems T.toNat) (literalPat T.toNat l))))

/-- GETR: the latest write to e`k` by an earlier slot or firing (R204). -/
def execGetr (k : BitVec 5) (t : BitVec 9) (s : State) : Out :=
  .next (s.element [] false [t] fun g _ s =>
    let mine := g.late.filter fun l => decide (l.sink = .tgt (BitVec.ofNat 9 (6 * 64 + k.toNat)))
    match mine.getLast? with
    | none => .value s (vget (s.plane s.curFe g.plane).e k.toNat)
    | some l => match l.value with
      | none => .wait s
      | some v => .value s v)

/-- LANEID: element i is i. -/
def execLaneid (T : BitVec 4) (u t : BitVec 9) (s : State) : Out :=
  .next (s.element [] false [t, u] fun _ _ s => .value s (ofElems T.toNat (List.range (typeElems T.toNat))))

/-- EXIT: the next selected block is `n`. -/
def execExit (n : BitVec 3) (s : State) : Out :=
  .next (s.element [] false [] fun g _ s => s.endFiring g n.toNat false)

/-- EXITC: the next selected block is the pending selector, or `n` (R205, R211). -/
def execExitc (n : BitVec 3) (s : State) : Out :=
  .next (s.element [] false [] fun g _ s => s.endFiring g ((g.selp.getD n).toNat) true)

end Sys2Proof.Machine
end

