-- ==== Sys2Proof/Machine/Tiles.lean ====
section
/-! DEFINITION. Tile headers, declarations, slots, and the instructions that move tiles between ports and slots
(02 R54-R58; 05 R116; 14 R296-R313). -/

namespace Sys2Proof.Machine

/-! ### Headers (02 Table 2-6, 14 R299) -/

def hdrFmt (h : Line) : Nat := fldN h 0 4
def hdrMw (h : Line) : Nat := fldN h 4 4
def hdrNsp (h : Line) : Nat := fldN h 8 3
def hdrVoid (h : Line) : Bool := bitOf h 11
def hdrBcol (h : Line) : Bool := bitOf h 12
def hdrRows (h : Line) : Nat := fldN h 16 6 + 1
def hdrCols (h : Line) : Nat := fldN h 24 6 + 1
def hdrScale (h : Line) : Nat := fldN h 32 32
def hdrExp (h : Line) (b : Nat) : Nat := fldN h (128 + 8 * b) 8

/-- N of an NSP code (02 R54). -/
def nspN : Nat → Nat
  | 1 => 2
  | 2 => 3
  | 3 => 4
  | 4 => 6
  | _ => 0

/-- A shape and format: of a header, of an edge's declaration, of a slot's. -/
structure TileFmt where
  fmt : Nat
  mw : Nat := 0
  nsp : Nat := 0
  bcol : Bool := false
  rows : Nat := 1
  cols : Nat := 1
  deriving DecidableEq, Repr, Inhabited

def hdrTile (h : Line) : TileFmt :=
  { fmt := hdrFmt h, mw := hdrMw h, nsp := hdrNsp h, bcol := hdrBcol h, rows := hdrRows h, cols := hdrCols h }

/-- Payload bytes (Table 14-2). -/
def TileFmt.bytes (t : TileFmt) : Nat :=
  if t.fmt = 12 then
    if t.nsp = 0 then (if t.bcol then t.cols else t.rows) * 2 * t.mw
    else t.rows * ((nspN t.nsp * t.mw + 1) / 2 + 2 * nspN t.nsp)
  else
    let w := if t.fmt = 11 then 8 else if t.fmt = 10 then 4 else 2
    if t.nsp = 0 then t.rows * t.cols * w else t.rows * 4 * nspN t.nsp * 2 + t.rows * 2 * nspN t.nsp
/-- Payload tokens. -/
def TileFmt.tokens (t : TileFmt) : Nat := (t.bytes + 63) / 64

/-- The conditions of Table 14-2 on a format and shape. -/
def TileFmt.valid (t : TileFmt) : Bool :=
  8 ≤ t.fmt && t.fmt ≤ 12 && t.nsp ≤ 4 && t.bytes ≤ 1024 &&
  (if t.fmt = 12 then
    2 ≤ t.mw && t.mw ≤ 8 &&
    (if t.nsp ≠ 0 then !t.bcol && t.rows ≤ 16 && t.cols = 48
     else if t.bcol then t.rows = 16 && t.cols ≤ 16 else t.cols = 16 && t.rows ≤ 16)
   else t.mw = 0 && !t.bcol && (t.nsp = 0 || (t.fmt ≤ 9 && t.rows ≤ 16 && t.cols = 48)))

/-- The zero fields of a header, SCALE, and the EXP bytes that must be zero. -/
def hdrClean (h : Line) : Bool :=
  let t := hdrTile h
  let sc := (fmtOf 10).val (hdrScale h)
  let blocks := if t.fmt = 12 then (if t.nsp ≠ 0 then 16 else if t.bcol then t.cols else t.rows) else 0
  fldN h 13 3 = 0 && fldN h 22 2 = 0 && fldN h 30 2 = 0 && fldN h 64 64 = 0 && fldN h 256 256 = 0 &&
  !sc.isNan && !sc.isZero && decide (sc ≠ .inf false) && decide (sc ≠ .inf true) &&
  ((List.range 16).all fun b => decide (b < blocks) || hdrExp h b = 0)

/-- R299. -/
def hdrValid (h : Line) : Bool := hdrClean h && (hdrTile h).valid

/-- A header of a format, with VOID, SCALE and no exponents. -/
def mkHdr (t : TileFmt) (isVoid : Bool) (scale : Nat) (exps : List Nat) : Line :=
  BitVec.ofNat 512 (t.fmt + t.mw * 2 ^ 4 + t.nsp * 2 ^ 8 + (if isVoid then 2 ^ 11 else 0) + (if t.bcol then 2 ^ 12 else 0) +
    (t.rows - 1) * 2 ^ 16 + (t.cols - 1) * 2 ^ 24 + scale * 2 ^ 32 + leNat (exps.map (BitVec.ofNat 8)) * 2 ^ 128)
/-- The header of a VOID tile (02 R57). -/
def voidHdr (t : TileFmt) : Line := mkHdr t true 0x3F800000 []
/-- A VOID tile: zero payload tokens (14 R305). -/
def voidTile (t : TileFmt) : Tile := { header := voidHdr t, payload := List.replicate t.tokens 0 }

/-! ### Declarations (05 R116; 14 R300, Table 14-3) -/

/-- A DECL word of an edge that carries tiles. -/
def declTile (d : BitVec 32) : TileFmt :=
  { fmt := fldN d 1 4, mw := fldN d 5 4, nsp := fldN d 9 3, bcol := bitOf d 12, rows := fldN d 13 6 + 1, cols := fldN d 19 6 + 1 }

/-- What a record expects of a slot it reads: format, and BCOL and shape where Table 14-3 fixes them. -/
structure Expect where
  fmt : Nat
  mw : Nat
  nsp : Nat
  bcol : Option Bool
  shape : Option (Nat × Nat)
  deriving DecidableEq, Repr, Inhabited

/-- Does a header agree with an expectation, whatever its zero fields? -/
def Expect.agrees (e : Expect) (t : TileFmt) : Bool :=
  decide (t.fmt = e.fmt ∧ t.mw = e.mw ∧ t.nsp = e.nsp) && (match e.bcol with
    | none => true
    | some b => b == t.bcol) && match e.shape with
    | none => true
    | some (r, c) => decide (t.rows = r ∧ t.cols = c)
/-- The format of the VOID tile a slot receives: the declared one, 1 × 1 with no payload where the shape is free. -/
def Expect.tile (e : Expect) : TileFmt :=
  let s := e.shape.getD (1, 1)
  { fmt := e.fmt, mw := e.mw, nsp := e.nsp, bcol := e.bcol.getD false, rows := s.1, cols := s.2 }
def Expect.voidTile (e : Expect) : Tile :=
  { header := voidHdr e.tile, payload := match e.shape with
      | none => []
      | some _ => List.replicate e.tile.tokens 0 }

/-- The slots a record reads, each with its sticky count and what it expects of the header (14 Table 14-3). -/
def mtuReads (op : Nat) (f : MtuFields) : List (Nat × Nat × Expect) :=
  let n (x : BitVec 4) : Nat := x.toNat
  let mw := f.mw.toNat
  let m (T : Nat) : Nat := if T = 12 then mw else 0
  let sq := if n f.td = 11 then 8 else 16
  let bc (T : Nat) (b : Bool) : Option Bool := some (T = 12 && b)
  let c : List (Nat × Nat × Expect) :=
    if f.cuse = 1 then [(n f.sc, n f.kc, ⟨n f.tc, 0, 0, some false, some (sq, sq)⟩)] else []
  match op with
  | 1 => [(n f.sa, n f.ka, ⟨n f.ta, m (n f.ta), 0, some false, some (sq, sq)⟩),
          (n f.sb, n f.kb, ⟨n f.tb, m (n f.tb), 0, bc (n f.tb) true, some (sq, sq)⟩)] ++ c
  | 2 => [(n f.sa, n f.ka, ⟨n f.ta, m (n f.ta), f.nsp.toNat, some false, some (16, 48)⟩)] ++
         ((List.range 3).map fun i =>
           (n f.sb + i, n f.kb, (⟨n f.tb, m (n f.tb), 0, bc (n f.tb) true, some (16, 16)⟩ : Expect))) ++ c
  | 3 => [(n f.sa, n f.ka, ⟨n f.ta, 0, 0, some false, none⟩), (n f.sb, n f.kb, ⟨n f.tb, 0, 0, some false, none⟩)]
  | 4 => [(n f.sa, n f.ka, ⟨n f.ta, 0, 0, some false, none⟩), (n f.sb, n f.kb, ⟨n f.tb, 0, 0, some false, none⟩)]
  | 5 => [(n f.sa, n f.ka, ⟨n f.ta, m (n f.ta), 0, some (n f.ta = 12 && f.bcol = 1), none⟩)]
  | 6 => [(n f.sa, n f.ka, ⟨n f.ta, m (n f.ta), 0, if n f.ta = 12 then none else some false, none⟩)]
  | _ => []

/-- A slot's declaration in a plane: what the plane's records that read it expect (14 R300). -/
def Plane.slotDecl (p : Plane) (k : Nat) : Option Expect :=
  p.recs.toList.findSome? fun w =>
    ((mtuReads (fldN w 58 6) (mtuFields w)).find? fun r => decide (r.1 = k)).map fun r => r.2.2

/-- The declaration a slot's header is checked against; a slot that no record reads has none, and the format of a VOID
tile there is free (log entry 6). -/
def State.declOr (s : State) (d : Option Expect) : Expect :=
  d.getD ⟨8 + Config.freeNat s.tick % 3, 0, 0, some false, none⟩

/-- Does a header fail the check of a slot (14 R300)? -/
def hdrRefused (d : Option Expect) (h : Line) : Bool :=
  !hdrValid h || match d with
    | none => false
    | some e => !e.agrees (hdrTile h)

/-- The edge that enters an input port of a plane, or leaves an output port. -/
def State.edgeInto (s : State) (f : FeId) (plane port : Nat) : Option Edge :=
  match s.planeOwner f plane with
  | none => none
  | some r => (s.res r).edges.find? fun e => decide (e.plane = plane ∧ e.dst = f ∧ e.dstp = port)
def State.edgesFrom (s : State) (f : FeId) (plane port : Nat) : List Edge :=
  match s.planeOwner f plane with
  | none => []
  | some r => (s.res r).edges.filter fun e => decide (e.plane = plane ∧ e.src = f ∧ e.srcp = port)

/-! ### Slots (14 R296-R298) -/

def State.modTileSlot (s : State) (f : FeId) (k : Nat) (g : TileSlot → TileSlot) : State :=
  s.modFe f fun x => { x with tiles := vmod x.tiles k g }

/-- `Read(k, s)` (R298). -/
def State.readTile (s : State) (f : FeId) (k sticky : Nat) : State :=
  let t := vget (s.fe f).tiles k
  match t.hold with
  | .count n => if n ≤ 1 then s.releaseTile f k else s.modTileSlot f k fun t => { t with hold := .count (n - 1) }
  | .untilEnd => s
  | .none =>
    if sticky = 1 then s.releaseTile f k
    else if sticky = 0 then s.modTileSlot f k fun t => { t with hold := .untilEnd, hport := t.filledBy }
    else s.modTileSlot f k fun t => { t with hold := .count (sticky - 1) }

/-- Put a tile into a slot, tagged FULL. -/
def State.fillTile (s : State) (f : FeId) (k : Nat) (t : Tile) (port : Option Nat) (pins : List Nat) : State :=
  s.modTileSlot f k fun _ => { tag := .full, hold := .none, hport := none, filledBy := port, pins, tile := t }

/-- Count in an FE's void-packet count and in its die's (R316, 20 Table 20-6). -/
def State.countVoid (s : State) (f : FeId) (n : Nat) : State :=
  (s.modFe f fun x => { x with voidPackets := x.voidPackets + BitVec.ofNat 32 n }).count f.die 5 n

/-! ### Packets of tile edges as they arrive (02 R57, R58) -/

/-- Mark VOID the header that `k` payload tokens follow at the end of a FIFO, if it still stands there. -/
def voidHeader (k : Nat) (ts : List Token) : List Token :=
  let heads := (ts.zipIdx.filter fun p => decide (p.1.kind = 0)).reverse
  match heads[k]? with
  | none => ts
  | some (_, i) => ts.zipIdx.map fun p => if p.2 = i then { p.1 with data := p.1.data ||| (1 <<< 11) } else p.1

/-- What a port that a tile edge enters delivers for a token that arrives: the frame it is in then, the tokens, and how many
packets count as void. A mismatched header is replaced, and its packet's tokens are zero; a packet that is cut short is completed
(R57, R58). Of such a packet the header is marked VOID while it stands in the FIFO; the manual does not say what a `PIN` that has
read it already has read (log entry 70). -/
def InPort.frameTok (q : InPort) (d : TileFmt) (t : Token) : InPort × Nat :=
  let put (q : InPort) (t : Token) : InPort := { q with fifo := q.fifo ++ [t] }
  match q.frame with
  | none =>
    if t.kind ≠ 0 then (put q t, 0)
    else
      let bad := !hdrClean t.data || decide (hdrTile t.data ≠ d)
      ({ put q (if bad then { t with data := voidHdr d } else t) with frame := if d.tokens = 0 then none else some (d.tokens, bad) },
        if bad then 1 else 0)
  | some (n, bad) =>
    if t.kind = 0 then
      ({ put q (if bad then { t with data := 0 } else t) with frame := if n ≤ 1 then none else some (n - 1, bad) }, 0)
    else if t.kind = 6 then (put q t, 0)
    else
      let zero : Token := { made := true }
      (put { q with fifo := voidHeader (d.tokens - n) q.fifo ++ List.replicate n zero, frame := none } t, if bad then 0 else 1)

/-! ### TFILL, TOUT, TCLR (14 R312, R313) -/

/-- The next stage of a TFILL whose header has been taken. A packet that another token cuts short is completed with zero tokens,
marked VOID and counted (02 R58); what has arrived of it stays. R58 names END0-END3 and EOS; a DRAIN inside a packet ends it in
the same way, and a MARK waits (DESIGN CHOICE, log entry 70). -/
def State.tfillMore (s : State) (f : FeId) (g : Firing) (port k : Nat) : Nat → Line → Bool → List Line → Nat → EOut
  | 0, _, _, _, _ => .wait s
  | n + 1, h, bad, got, left =>
    let finish (s : State) (h : Line) (got : List Line) : EOut :=
      .quiet ((s.fillTile f k { header := h, payload := got } (some port) []).modFiring f g.plane fun z =>
        { z with filling := none })
    let wait (s : State) : EOut := .wait (s.modFiring f g.plane fun z => { z with filling := some (h, bad, got, left) })
    if left = 0 then finish s h got
    else if s.heldHead f port then wait s
    else match (vget (s.plane f g.plane).inp port).fifo with
      | [] => wait s
      | t :: _ =>
        if t.kind = 0 then
          (s.takeHead f g.plane port t).tfillMore f g port k n h bad (got ++ [if bad then 0 else t.data]) (left - 1)
        else if t.kind = 6 then wait s
        else
          let s := if bad then s else s.countVoid f 1
          finish s (h ||| (1 <<< 11)) (got ++ List.replicate left 0)

/-- TFILL: take a tile packet from a port into a slot. A tile edge's packet was checked and framed as it arrived (02 R57,
R58). -/
def execTfill (p : BitVec 3) (k : BitVec 4) (s : State) : Out :=
  .next (s.element [] false [] fun g _ s =>
    let f := s.curFe
    let port := p.toNat
    let k := k.toNat
    let fifo := (vget (s.plane f g.plane).inp port).fifo
    let n := fifo.length + 1
    match g.filling with
    | some (h, bad, got, left) => s.tfillMore f g port k n h bad got left
    | none => match fifo with
      | [] => .wait s
      | h :: _ =>
        if s.heldHead f port then .wait s
        else if h.kind = 5 then .quiet s
        else if h.kind = 6 then .wait s
        else
          let take (s : State) : State := s.takeHead f g.plane port h
          if h.kind ≠ 0 then .quiet (take s)
          else if (vget (s.fe f).tiles k).tag ≠ .empty then .wait s
          else
            let s := (take s).modTileSlot f k fun t => { t with tag := .reserved }
            match s.edgeInto f g.plane port with
            | some e =>
              let d := declTile e.cdecl
              let bad := !bitOf e.cdecl 0 && (!hdrClean h.data || decide (hdrTile h.data ≠ d))
              let s := if bad then s.countVoid f 1 else s
              s.tfillMore f g port k n (if bad then voidHdr d else h.data) bad [] d.tokens
            | none =>
              let d := (vget (s.fe f).planes (s.fe f).active).slotDecl k
              if hdrRefused d h.data then
                let v := (s.declOr d).voidTile
                .quiet ((s.countVoid f 1).fillTile f k { header := voidHdr { hdrTile v.header with rows := 1, cols := 1 } }
                  (some port) [])
              else s.tfillMore f g port k n h.data false [] (hdrTile h.data).tokens)

/-- Emit what is left of a packet while the port has room. -/
def State.toutMore (s : State) (f : FeId) (g : Firing) (port k : Nat) (h : Line) : List Line → EOut
  | [] => .quiet ((s.releaseTile f k).modFiring f g.plane fun z => { z with filling := none })
  | t :: ts =>
    if (vget (s.plane f g.plane).outp port).free = 0 then
      .wait (s.modFiring f g.plane fun z => { z with filling := some (h, false, t :: ts, 0) })
    else (s.emit f g.plane port 0 t).toutMore f g port k h ts

/-- TOUT: emit a slot's tile packet on a port: as many payload tokens as the edge declares, or, on a port that feeds a
stream binding, as the header states. -/
def execTout (p : BitVec 3) (k : BitVec 4) (s : State) : Out :=
  .next (s.element [] false [] fun g _ s =>
    let f := s.curFe
    let port := p.toNat
    let t := vget (s.fe f).tiles k.toNat
    if !g.late.isEmpty then .wait s
    else match g.filling with
      | some (h, _, ts, _) => s.toutMore f g port k.toNat h ts
      | none =>
        if t.tag ≠ .full then .wait s
        else
          let n := match s.edgesFrom f g.plane port with
            | [] => (hdrTile t.tile.header).tokens
            | e :: _ => (declTile e.pdecl).tokens
          let body := (List.range n).map fun i => t.tile.payload.getD i 0
          s.toutMore f g port k.toNat t.tile.header (t.tile.header :: body))

/-- TCLR: empty a slot; it waits for an MTU operation that reads it and for one that writes it. -/
def execTclr (k : BitVec 4) (s : State) : Out :=
  .next (s.element [] false [] fun _ _ s =>
    let x := s.fe s.curFe
    let busy := match x.mtu with
      | some o => o.reads.any fun r => r.1 = k.toNat
      | none => false
    if busy || decide ((vget x.tiles k.toNat).tag = .reserved) then .wait s
    else .quiet (s.modTileSlot s.curFe k.toNat fun t =>
      { t with tag := .empty, hold := .none, hport := none, filledBy := none, pins := [] }))

end Sys2Proof.Machine
end

