-- ==== Sys2Proof/Machine/ElemMem.lean ====
section
/-! DEFINITION. Element memory instructions, the memory port of an FE and how its accesses perform (13 R292-R295;
14 R314; 18 R366). -/

namespace Sys2Proof.Machine

/-! ### Reaching the port (13 R293) -/

/-- Put a memory operation of the current slot at its FE's port. -/
def State.reach (s : State) (g : Firing) (own pred succ : Nat) (kind : MemKind) (addr : Word) (t : BitVec 9) : State :=
  s.modFe s.curFe fun x =>
    { x with nextOp := x.nextOp + 1
             port := x.port ++ [{ id := x.nextOp, plane := g.plane, block := g.block, slot := g.slot, ordinal := g.ordinal
                                  own, pred, succ, kind, addr, tgt := t }] }

/-- A memory instruction of the current slot: it reaches the port, as a null operation when it is skipped or faults. -/
def State.memSlot (s : State) (reads : List Opnd) (o p k : BitVec 4) (t : BitVec 9)
    (body : (Opnd → Line) → Except Stop (MemKind × Word)) : State :=
  match (s.fe s.curFe).firing with
  | none => s
  | some g =>
    let q := (s.blockOf s.curFe g).predicated g.slot
    let need := if q then reads ++ [Opnd.q] else reads
    let null (s : State) : State := (s.reach g o.toNat p.toNat k.toNat .null 0 0).nextSlot
    if need.any fun o => g.operand o = .never then null s
    else if need.any fun o => g.operand o = .pending then s
    else if q && lane (g.operand .q).line 0 = 0 then null s
    else match body fun o => (g.operand o).line with
      | .error x => null (s.slotFails g x 0 [])
      | .ok (kind, a) => ((s.expect s.curFe g.plane g.slot t).reach g o.toNat p.toNat k.toNat kind a t).nextSlot

/-- Bytes of an element of size code `sz`, elements of an access, and the type whose lane form it takes (04 R81,
13 R295). -/
def szBytes (sz : Nat) : Nat := match sz with
  | 0 | 1 => 1
  | 2 | 3 => 2
  | 4 | 5 => 4
  | _ => 8
def szElems (sz : Nat) : Nat := if sz = 6 then 8 else 16
def szType (sz : Nat) : Nat := if sz = 6 then 7 else sz

/-- LD: aligned to its size (R295). -/
def execLdE (z : BitVec 3) (o p k : BitVec 4) (t : BitVec 9) (s : State) : Out :=
  .next (s.memSlot [.a] o p k t fun val =>
    let a := lane64 (val .a)
    if a.toNat % szBytes z.toNat ≠ 0 then .error { code := .misaligned, w1 := a } else .ok (.load z, a))

/-- ST (R295). -/
def execStE (z : BitVec 3) (o p k : BitVec 4) (s : State) : Out :=
  .next (s.memSlot [.a, .b] o p k 0 fun val =>
    let a := lane64 (val .a)
    if a.toNat % szBytes z.toNat ≠ 0 then .error { code := .misaligned, w1 := a } else .ok (.store z (val .b), a))

/-- The operation of an element AMO: 64-byte aligned (R295). -/
def amoSlot (op : BitVec 3) (c : Bool) (val : Opnd → Line) : Except Stop (MemKind × Word) :=
  let a := lane64 (val .a)
  if a.toNat % 64 ≠ 0 then .error { code := .misaligned, w1 := a }
  else .ok (.amo op (val .b) (if c then val .c else 0), a)

/-- AMO.ADD. -/
def execAmoAddE (o p k : BitVec 4) (t : BitVec 9) (s : State) : Out := .next (s.memSlot [.a, .b] o p k t (amoSlot 0 false))
/-- AMO.SWAP. -/
def execAmoSwapE (o p k : BitVec 4) (t : BitVec 9) (s : State) : Out := .next (s.memSlot [.a, .b] o p k t (amoSlot 1 false))
/-- AMO.CAS. -/
def execAmoCasE (o p k : BitVec 4) (t : BitVec 9) (s : State) : Out := .next (s.memSlot [.a, .b, .c] o p k t (amoSlot 2 true))
/-- AMO.MIN. -/
def execAmoMinE (o p k : BitVec 4) (t : BitVec 9) (s : State) : Out := .next (s.memSlot [.a, .b] o p k t (amoSlot 3 false))
/-- AMO.MAX. -/
def execAmoMaxE (o p k : BitVec 4) (t : BitVec 9) (s : State) : Out := .next (s.memSlot [.a, .b] o p k t (amoSlot 4 false))
/-- AMO.AND. -/
def execAmoAndE (o p k : BitVec 4) (t : BitVec 9) (s : State) : Out := .next (s.memSlot [.a, .b] o p k t (amoSlot 5 false))
/-- AMO.OR. -/
def execAmoOrE (o p k : BitVec 4) (t : BitVec 9) (s : State) : Out := .next (s.memSlot [.a, .b] o p k t (amoSlot 6 false))
/-- AMO.XOR. -/
def execAmoXorE (o p k : BitVec 4) (t : BitVec 9) (s : State) : Out := .next (s.memSlot [.a, .b] o p k t (amoSlot 7 false))

/-- The address token's checks of LDT and STT (14 R314). -/
def tileSlotArgs (stt : Bool) (a : Line) : Except Stop Unit :=
  let b := lane64 a
  let l := lane a 2
  if b.toNat % 64 ≠ 0 then .error { code := .misaligned, w1 := b }
  else if 32 ≤ l || (!stt && decide (16 ≤ l)) then .error { code := .argRange }
  else .ok ()

/-- LDT. -/
def execLdt (o p k : BitVec 4) (t : BitVec 9) (s : State) : Out :=
  .next (s.memSlot [.a] o p k t fun val => match tileSlotArgs false (val .a) with
    | .error x => .error x
    | .ok _ => .ok (.ldt (BitVec.ofNat 32 (lane (val .a) 2)), lane64 (val .a)))

/-- STT. -/
def execStt (o p k : BitVec 4) (s : State) : Out :=
  .next (s.memSlot [.a] o p k 0 fun val => match tileSlotArgs true (val .a) with
    | .error x => .error x
    | .ok _ => .ok (.stt (BitVec.ofNat 32 (lane (val .a) 2)) (BitVec.ofNat 64 (fldN (val .a) 128 64)), lane64 (val .a)))

/-- The target by which a FENCE holds back what later slots of its firing emit until it is done (17 R353): `nil`. -/
def fenceTarget : BitVec 9 := 0x1C0
/-- FENCE: it orders the accesses of its port at its scope, and holds back every token that later slots emit (R294, 17 R353). -/
def execFenceE (c : BitVec 3) (o p k : BitVec 4) (s : State) : Out :=
  .next (s.memSlot [] o p k fenceTarget fun _ => .ok (.fence c, 0))

/-! ### Issue in chain order (R293) -/

/-- Own, pred and succ of a block's EM words. -/
def Block.waves (b : Block) : List (Nat × Nat × Nat) :=
  (b.slots.filter fun p => isEm p.2).map fun p => (fldN p.2 18 4, fldN p.2 14 4, fldN p.2 10 4)

/-- The own value after X in the chain: the Y whose pred is X's own; else X's succ; else own + 1. -/
def nextWave (ws : List (Nat × Nat × Nat)) (own : Nat) : Nat :=
  match ws.find? fun w => w.2.1 = own with
  | some w => w.1
  | none => match ws.find? fun w => w.1 = own with
    | some w => if w.2.2 = 15 then own + 1 else w.2.2
    | none => own + 1

/-- The chain of a block, by own values, from 0 on. -/
def waveChain (ws : List (Nat × Nat × Nat)) : Nat → Nat → List Nat
  | 0, _ => []
  | n + 1, own => own :: waveChain ws n (nextWave ws own)
def Block.chain (b : Block) : List Nat := waveChain b.waves b.waves.length 0

/-- Insert an operation behind those that have issued. -/
def insertIssued (o : MemOp) : List MemOp → List MemOp
  | [] => [o]
  | x :: xs => if x.stage = .reached then o :: x :: xs else x :: insertIssued o xs

/-- Does something at the port hold the chain: an access parked or held, or a FENCE not done (R294, R295, 18 R366)? -/
def Fe.chainHeld (x : Fe) (plane : Nat) : Bool := x.port.any fun o =>
  decide (o.plane = plane) && (o.stage = .parked || o.stage = .held || (o.stage = .issued && match o.kind with
    | .fence _ => true
    | .null => false
    | .load _ => false
    | .store _ _ => false
    | .amo _ _ _ => false
    | .ldt _ => false
    | .stt _ _ => false))

/-- MEMPORT_ISSUE: issue the next memory instruction of the firing in chain order. A null operation is done. A firing that
has started runs to its end while the device is frozen (19 R384). -/
def execMemportIssue (f : FeId) (s : State) : Out :=
  .next (match (s.fe f).firing with
    | none => s
    | some g =>
      let x := s.fe f
      if x.chainHeld g.plane then s
      else match (s.blockOf f g).chain[g.issued]? with
        | none => s
        | some own =>
          match x.port.find? fun o => decide (o.plane = g.plane ∧ o.ordinal = g.ordinal ∧ o.own = own ∧ o.stage = .reached) with
          | none => s
          | some o =>
            let rest := x.port.filter fun y => decide (y.id ≠ o.id)
            let port := if o.kind = .null then rest else insertIssued { o with stage := .issued } rest
            (s.modFe f fun x => { x with port }).modFiring f g.plane fun g => { g with issued := g.issued + 1 })

/-! ### Performing (R294, R295, 14 R314) -/

def State.feAgent (s : State) (f : FeId) (o : MemOp) : Agent :=
  let r := s.planeOwner f o.plane
  { who := .fePort f o.id, asid := (r.map fun r => (s.res r).asid).getD 0, die := f.die, res := r, fe := some f, since := o.since.getD s.cyc }

/-- The byte ranges an operation may touch, as virtual ranges. -/
def MemOp.spans (o : MemOp) : List (Nat × Nat) :=
  let a := o.addr.toNat
  match o.kind with
  | .null => []
  | .load z => [(a, szBytes z.toNat * szElems z.toNat)]
  | .store z _ => [(a, szBytes z.toNat * szElems z.toNat)]
  | .amo _ _ _ => [(a, 64)]
  | .fence _ => []
  | .ldt _ => [(a, 1088)]
  | .stt _ x => [(a, 1088), (x.toNat, 16)]

/-- Where they lie, as named bytes. -/
def State.opBytes (s : State) (f : FeId) (o : MemOp) : List (Nat × Nat × Nat) :=
  o.spans.flatMap fun p => (linePieces p.1 p.2).filterMap fun q =>
    match s.resolve (s.feAgent f o) q.1 q.2 .none with
    | .ok [x] => let k := targetByte x.target 0
                 some (k.1, k.2, x.len)
    | .ok _ => none
    | .error _ => none
def spansMeet (xs ys : List (Nat × Nat × Nat)) : Bool :=
  xs.any fun x => ys.any fun y => decide (x.1 = y.1 ∧ x.2.1 < y.2.1 + y.2.2 ∧ y.2.1 < x.2.1 + x.2.2)

/-- Take an operation out of its port and give its result, if it has one. -/
def State.opDone (s : State) (f : FeId) (o : MemOp) (v : Option Line) : State :=
  let s := (s.modFe f fun x => { x with port := x.port.filter fun y => decide (y.id ≠ o.id) }).tookReturns (.fePort f o.id)
  s.arrive f o.plane o.slot o.tgt v
def State.opStage (s : State) (f : FeId) (o : MemOp) (st : MemStage) : State :=
  s.modFe f fun x => { x with port := x.port.map fun y => if y.id = o.id then { y with stage := st } else y }
/-- An access waits: parked on a cell, or refused there, it holds its chain, and since when it is refused an entry is noted (15 R324, R326). -/
def State.opWaits (s : State) (f : FeId) (o : MemOp) : State :=
  if !s.parkedOrHeld (.fePort f o.id) then s
  else
    let since := if (s.parkedOn (.fePort f o.id)).isSome then none else some (o.since.getD s.cyc)
    s.modFe f fun x => { x with port := x.port.map fun y => if y.id = o.id then { y with stage := .parked, since } else y }

/-- A faulting access: a fabric fault, and a null operation in its chain (10 R206, 13 R293). -/
def State.opFaults (s : State) (f : FeId) (o : MemOp) (x : Stop) : State :=
  let s := s.opDone f o none
  let s := match o.kind with
    | .ldt l => if !o.reserved then s else s.modTileSlot f (l.toNat % 16) fun t => { t with tag := .empty }
    | .null => s
    | .load _ => s
    | .store _ _ => s
    | .amo _ _ _ => s
    | .fence _ => s
    | .stt _ _ => s
  match s.planeOwner f o.plane with
  | none => s
  | some r => s.fabricFault r f o.plane o.block o.slot o.ordinal x 0

/-- The record of an access that a PAGE fault holds at its port (18 R366): replayable. -/
def State.opHeld (s : State) (f : FeId) (o : MemOp) (x : Stop) : State :=
  match s.planeOwner f o.plane with
  | none => s.opFaults f o x
  | some r =>
    let y := s.res r
    let w2 := y.index f + o.plane * 2 ^ 11 + o.block * 2 ^ 16 + o.slot * 2 ^ 24
    (s.opStage f o .held).frqDue f.die (rec8 [wordN (codeNum x.code), x.w1, wordN w2, wordN o.ordinal, 0, 0, 0,
      originWord f.die f.page r.idx y.asid 1 0]) 1 (some (.fePort f o.id))

/-- An access that stopped: held for PAGE, or a fault. -/
def State.opStops (s : State) (f : FeId) (o : MemOp) (x : Stop) : State :=
  if x.code = .page then s.opHeld f o x else s.opFaults f o x

/-- VOID lanes of a load (R295, R279). -/
def voidLanes (sz : Nat) : Line :=
  if sz = 6 then ofElems 7 (List.replicate 8 0x7FF8000000000000) else ofLanes (List.replicate 16 0x7FC00000)
/-- A loaded token from its bytes. -/
def loadLanes (sz : Nat) (bs : List Byte) : Line :=
  let w := szBytes sz
  ofElems (szType sz) ((List.range (szElems sz)).map fun i => leNat ((bs.drop (i * w)).take w))
/-- The bytes a store writes. -/
def storeBytes (sz : Nat) (b : Line) : List Byte :=
  let w := szBytes sz
  (List.range (szElems sz)).flatMap fun i => leBytes w (elem (szType sz) b i)

/-- Note the first store of an FE port to perform (19 R392). -/
def State.noteStore (s : State) (r : Option ResId) : State :=
  match r with
  | none => s
  | some r => s.modRes r fun y => { y with phase := if y.phase.e.isNone then { y.phase with e := some s.cyc } else y.phase }

/-- LD, once it may perform. -/
def State.performLd (s : State) (f : FeId) (o : MemOp) (z : Nat) : State :=
  let ag := s.feAgent f o
  match s.resolve ag o.addr.toNat (szBytes z * szElems z) .r with
  | .error x => s.opStops f o x
  | .ok ps => match s.loadPieces ag ps with
    | (.error x, s) => s.opFaults f o x
    | (.ok none, s) => s.opWaits f o
    | (.ok (some (bs, poison)), s) => s.opDone f o (some (if poison then voidLanes z else loadLanes z bs))

/-- Stores of a list of ranges with their bytes, all or none. -/
def State.performStores (s : State) (f : FeId) (o : MemOp) (parts : List (Nat × List Byte)) (k : State → State) : State :=
  let ag := s.feAgent f o
  match parts.mapM fun p => s.resolve ag p.1 p.2.length .w with
  | .error x => s.opStops f o x
  | .ok pss => match s.storePieces ag pss.flatten (parts.flatMap (·.2)) with
    | (.stop x, s) => s.opFaults f o x
    | (.wait, s) => s
    | (.done, s) => k (s.noteStore ag.res)

/-- AMO on sixteen .s32 lanes of one line. -/
def State.performAmo (s : State) (f : FeId) (o : MemOp) (op : BitVec 3) (b c : Line) : State :=
  let ag := s.feAgent f o
  match s.resolve ag o.addr.toNat 64 .w with
  | .error x => s.opStops f o x
  | .ok ps => match s.amoPiece ag (ps.headD default) (.amo op 4 16 0 true b c) with
    | (.stop x, s) => s.opFaults f o x
    | (.wait, s) => s.opWaits f o
    | (.line l poison, s) => s.opDone f o (some (if poison then voidLanes 4 else l))

/-- LDT: reserve the slot, unless it has done so before a PAGE fault held it (18 R366), read and check the header, read the payload, fill the slot (14 R314, R300). -/
def State.performLdt (s : State) (f : FeId) (o : MemOp) (l : BitVec 32) : State :=
  let k := l.toNat % 16
  if !o.reserved && decide ((vget (s.fe f).tiles k).tag ≠ .empty) then s
  else
    let s := s.modTileSlot f k fun t => { t with tag := .reserved }
    let s := s.modFe f fun x => { x with port := x.port.map fun y => if y.id = o.id then { y with reserved := true } else y }
    let o := { o with stage := .parked, reserved := true }
    let ag := s.feAgent f o
    let a := o.addr.toNat
    let d := (vget (s.fe f).planes o.plane).slotDecl k
    match s.resolve ag a 64 .r with
    | .error x => (s.opStage f o .parked).opStops f o x
    | .ok ps => match s.loadPieces ag ps with
      | (.error x, s) => s.opFaults f o x
      | (.ok none, s) => s.opWaits f o
      | (.ok (some (hb, hq)), s) =>
        let h := lineOf hb
        let bad := !hq && hdrRefused d h
        let free := match d with
          | none => true
          | some e => e.shape.isNone
        let e := s.declOr d
        let n := if hq || bad then (if free then 0 else e.tile.tokens) else (hdrTile h).tokens
        match s.resolve ag a (64 + 64 * n) .r with
        | .error x => (s.opStage f o .parked).opStops f o x
        | .ok ps => match s.loadPieces ag ps with
          | (.error x, s) => s.opFaults f o x
          | (.ok none, s) => s.opWaits f o
          | (.ok (some (bs, poison)), s) =>
            let body := (List.range n).map fun i => lineOf ((bs.drop (64 * (i + 1))).take 64)
            let s := if bad then s.countVoid f 1 else s
            let tile : Tile :=
              if hq || bad then e.voidTile
              else if poison then { header := h ||| (1 <<< 11), payload := List.replicate n 0 }
              else { header := h, payload := body }
            (s.fillTile f k tile none []).opDone f o (some (if hq then tile.header else h))

/-- STT: store the slot's tile and release the slot (14 R314). -/
def State.performStt (s : State) (f : FeId) (o : MemOp) (l : BitVec 32) (x : Word) : State :=
  let k := l.toNat % 16
  let t := vget (s.fe f).tiles k
  if t.tag ≠ .full then s
  else
    let h := t.tile.header
    let fmt := hdrTile h
    let bytes := ((List.range fmt.tokens).map fun i => t.tile.payload.getD i 0).flatMap lineBytes
    let done (s : State) : State := (s.releaseTile f k).opDone f o none
    if bitOf l 4 then
      let nb := if fmt.fmt = 12 then (if fmt.nsp = 0 && fmt.bcol then fmt.cols else fmt.rows) else 0
      let exps := (List.range nb).map fun b => BitVec.ofNat 8 (hdrExp h b)
      s.performStores f o ([(o.addr.toNat, bytes.take fmt.bytes)] ++ (if nb = 0 then [] else [(x.toNat, exps)])) done
    else s.performStores f o [(o.addr.toNat, lineBytes h ++ bytes)] done

/-- Perform the access at a place of an FE's port, if the order of R294 allows it. -/
def State.performPort (s : State) (f : FeId) (pos : Nat) : State :=
  let x := s.fe f
  match x.port[pos]? with
  | none => s
  | some o =>
    if o.stage = .reached || o.stage = .held then s
    else
      let before := (x.port.take pos).filter fun y => decide (y.plane = o.plane)
      match o.kind with
      | .null => s
      | .fence c => if before.isEmpty && s.performedAt (.fePort f o.id) c.toNat then (s.fenceCode (.fePort f o.id)).opDone f o none
          else s
      | _ =>
        let mine := s.opBytes f o
        if before.any fun y => spansMeet (s.opBytes f y) mine then s
        else match o.kind with
          | .null => s
          | .fence _ => s
          | .load z => s.performLd f o z.toNat
          | .store z b => s.performStores f o [(o.addr.toNat, storeBytes z.toNat b)] fun s => s.opDone f o none
          | .amo op b c => s.performAmo f o op b c
          | .ldt l => s.performLdt f o l
          | .stt l x => s.performStt f o l x

end Sys2Proof.Machine
end

