-- ==== Sys2Proof/Machine/Loader.lean ====
section
/-! DEFINITION. Configuration images: reading one, binding its relocations, and the checks of 05 Table 5-8 in their order
(02 R56; 03 R79, R80; 04 R92-R102; 05 R106-R125, R438, R439; 10 R198, R207; 11 R225, R230; 13 R293; 14 R300, R302;
16 R334). -/

namespace Sys2Proof.Machine

/-- A refusal: its code and the words of 18 Table 18-3. -/
structure LoadStop where
  code : Code
  w2 : Nat := 0
  w3 : Nat := 0
  w4 : Nat := 0
  w5 : Nat := 0
  w6 : Nat := 0
  deriving DecidableEq, Repr, Inhabited

/-- Why a load ends: a read of the image that fails, or a refusal. -/
inductive LoadFail where
  | unread (x : Stop)
  | refused (x : LoadStop)
  deriving DecidableEq, Repr, Inhabited

abbrev Loading (α : Type) := Except LoadFail α

/-- Refuse unless `b`. -/
def require (b : Bool) (x : LoadStop) : Loading Unit := if b then .ok () else .error (.refused x)
/-- Refuse with the first of a list of refusals. -/
def refuseFirst (xs : List LoadStop) : Loading Unit := match xs with
  | [] => .ok ()
  | x :: _ => .error (.refused x)

/-- Word 2 of a refusal (18 Table 18-3). -/
def loadWord (lpage site plane block slot : Nat) : Nat := lpage + site * 2 ^ 8 + plane * 2 ^ 16 + block * 2 ^ 19 + slot * 2 ^ 23
def edgeWord (id : Nat) : Nat := id * 2 ^ 32
def rotWord (n : Nat) : Nat := n * 2 ^ 42

/-- A number of `n` bytes at byte `off`. -/
def leAt (bs : List Byte) (off n : Nat) : Nat := leNat ((bs.drop off).take n)

/-! ### Header and directory (05 R106, R107, R438) -/

structure DirEntry where
  kind : Nat
  lpage : Nat
  site : Nat
  plane : Nat
  slen : Nat
  off : Nat
  zero : Bool
  deriving DecidableEq, Repr, Inhabited

/-- An image read: address, header, directory, and the bytes of its sections but the control and data ones. -/
structure Image where
  addr : Nat
  header : Line
  dir : List DirEntry := []
  secs : List (List Byte) := []
  deriving DecidableEq, Repr, Inhabited

def Image.h (i : Image) : Nat := fldN i.header 40 3
def Image.w (i : Image) : Nat := fldN i.header 43 4
def Image.urgent (i : Image) : Bool := bitOf i.header 47
def Image.power (i : Image) : Nat := fldN i.header 48 4
def Image.start (i : Image) : Nat := fldN i.header 52 3
def Image.nsec (i : Image) : Nat := fldN i.header 64 16
def Image.entry (i : Image) : Nat := fldN i.header 128 64
def Image.len (i : Image) : Nat := fldN i.header 192 64
def Image.maxouter (i : Image) : Nat := fldN i.header 256 32
def Image.pages (i : Image) : Nat := i.h * i.w

/-- Fields of the header by themselves (Table 5-1). -/
def Image.headerOk (i : Image) : Bool :=
  let h := i.header
  fldN h 0 32 = 0x474D495A && fldN h 32 8 = 1 && fldN h 55 9 = 0 && fldN h 80 48 = 0 && fldN h 288 224 = 0 &&
  1 ≤ i.h && i.h ≤ 6 && 1 ≤ i.w && i.w ≤ 8 && i.nsec ≠ 0 && (if i.urgent then i.start = 5 else i.start ≤ 4)

/-- May a record of the image name a plane (R111)? -/
def Image.planeOk (i : Image) (p : Nat) : Bool := if i.urgent then p = 5 else decide (p ≤ 4)

def dirEntry (d : List Byte) (k : Nat) : DirEntry :=
  let e := (d.drop (16 * k)).take 16
  { kind := leAt e 0 1, lpage := leAt e 1 1, site := leAt e 2 1, plane := leAt e 3 1 % 8, slen := leAt e 4 4, off := leAt e 8 8
    zero := decide (leAt e 3 1 < 8) }

/-- Does a section's length fit its kind (Table 5-10)? -/
def slenOk (kind n : Nat) : Bool := match kind with
  | 1 => 32 ≤ n
  | 2 => n = 64
  | 3 => n = 2048
  | 4 => n = 520
  | 5 | 6 | 8 => n ≠ 0 && n % 16 = 0
  | 7 => n ≠ 0 && n % 32 = 0
  | 9 => n ≠ 0
  | 10 => true
  | 11 => 16 ≤ n
  | 12 => n = 6
  | _ => false

/-- An entry by itself, and against the entries before it. Table 5-8 gives no code to an offset that is no multiple of 64, nor to an
LPAGE or SITE that lies outside the pitch, or is not zero where the kind has none: here they are CFG_IMAGE naming the entry (DESIGN
CHOICE, log entry 71). -/
def Image.entryOk (i : Image) (k : Nat) (e : DirEntry) : Bool :=
  let key (x : DirEntry) : Nat × Nat × Nat × Nat := (x.kind, x.lpage, x.site, x.plane)
  (match e.kind with
   | 1 | 2 => e.lpage < i.pages && e.site < 24 && i.planeOk e.plane
   | 3 => e.lpage < i.pages && e.site = 0 && i.planeOk e.plane
   | 4 => e.lpage < i.pages && e.site < 4 && i.planeOk e.plane
   | n => 5 ≤ n && n ≤ 12 && e.lpage = 0 && e.site = 0 && e.plane = 0) &&
  e.zero && e.off % 64 = 0 && e.off + e.slen ≤ i.len && slenOk e.kind e.slen &&
  !(i.dir.take k).any fun x => decide (key x = key e)

/-- Block offsets of a kind 0x01 section. -/
def blockOff (s : List Byte) (n : Nat) : Option Nat := let o := leAt s (4 * n) 4
                                                       if o = 0xFFFFFFFF then none else some o
/-- The block at an offset. -/
def blockAt (s : List Byte) (o : Nat) : Block :=
  let h := leAt s o 4
  { header := BitVec.ofNat 32 h
    words := (List.range (h / 2 ^ 26 % 64 + 1)).map fun j => BitVec.ofNat 32 (leAt s (o + 4 + 4 * j) 4) }

/-- What a section holds, where a breach is CFG_IMAGE (R111, R438, R439). -/
def Image.contentOk (i : Image) (e : DirEntry) (s : List Byte) : Bool := match e.kind with
  | 1 => (List.range 8).all fun n => match blockOff s n with
    | none => true
    | some o => decide (o + 4 ≤ s.length ∧ o + 4 * (leAt s o 4 / 2 ^ 26 % 64 + 2) ≤ s.length)
  | 5 => (List.range (s.length / 16)).all fun j => i.planeOk (leAt s (16 * j) 16 / 2 ^ 10 % 8)
  | 6 => (List.range (s.length / 16)).all fun j => i.planeOk (leAt s (16 * j) 16 / 2 ^ 3 % 8)
  | 11 => decide (16 + 32 * leAt s 0 4 ≤ s.length)
  | 12 => s.all fun b => decide (b.toNat ≤ 3)
  | _ => true

/-- The first entry of a kind, with its index. -/
def Image.find (i : Image) (kind : Nat) : Option (Nat × DirEntry) :=
  (i.dir.zipIdx.find? fun e => decide (e.1.kind = kind)).map fun e => (e.2, e.1)
/-- The section of a kind, page, site and plane; empty when absent. -/
def Image.sec (i : Image) (kind lpage site plane : Nat) : List Byte :=
  match i.dir.zipIdx.find? fun e => decide (e.1.kind = kind ∧ e.1.lpage = lpage ∧ e.1.site = site ∧ e.1.plane = plane) with
  | none => []
  | some e => i.secs.getD e.2 []

/-- How an image is read. -/
abbrev Reader := Nat → Nat → Except Stop (List Byte)
def readAt (rd : Reader) (a n : Nat) : Loading (List Byte) := match rd a n with
  | .ok bs => .ok bs
  | .error x => .error (.unread x)

/-- Check the entries from `k` on in index order, reading each section that is neither control nor data: the sections read, up to
the first entry that fails or that cannot be read, and that failure. Blocks are left to `Image.blocksFail`. -/
def Image.readSecs (i : Image) (rd : Reader) : Nat → List DirEntry → List (List Byte) × Option LoadFail
  | _, [] => ([], none)
  | k, e :: es =>
    let bad : LoadFail := .refused { code := .cfgImage, w3 := k }
    if !i.entryOk k e then ([], some bad)
    else match if e.kind = 9 || e.kind = 10 then .ok [] else readAt rd (i.addr + e.off) e.slen with
      | .error x => ([], some x)
      | .ok s =>
        if e.kind ≠ 1 && !i.contentOk e s then ([s], some bad)
        else
          let rest := i.readSecs rd (k + 1) es
          (s :: rest.1, rest.2)

/-- Read an image: header, directory, sections, and the first entry that fails (order 1 of Table 5-8, but the blocks and the
relocation list). An image with no control section is refused as its header is, and before any entry: Table 5-8 and 18 Table 18-3 name
neither an entry nor a place for it (DESIGN CHOICE, log entry 71). -/
def readImage (rd : Reader) (a : Nat) : Loading (Image × Option LoadFail) := do
  let bad : LoadStop := { code := .cfgImage, w3 := 0xFFFF }
  require (a % 64 = 0 && windowOf a = some .glob) bad
  let h ← readAt rd a 64
  let i : Image := { addr := a, header := lineOf h }
  require i.headerOk bad
  let d ← readAt rd (a + 64) (16 * i.nsec)
  let i := { i with dir := (List.range i.nsec).map (dirEntry d) }
  require (match i.find 9 with
    | none => false
    | some (_, e) => decide (i.entry < e.slen)) bad
  let (secs, fail) := i.readSecs rd 0 i.dir
  pure ({ i with secs }, fail)

/-- The first of the entries read whose blocks do not lie within their section (R438). -/
def Image.blocksFail (i : Image) : Option LoadStop :=
  ((i.dir.zip i.secs).zipIdx.find? fun x => decide (x.1.1.kind = 1) && !i.contentOk x.1.1 x.1.2).map fun x =>
    { code := .cfgImage, w3 := x.2 }

/-! ### Relocations (03 R79, R80; 05 R439) -/

structure Reloc where
  dir : Nat
  form : Nat
  k : Nat
  off : Nat
  target : Nat
  addend : Int
  name : Nat
  zero : Bool
  deriving DecidableEq, Repr, Inhabited

def relocAt (s : List Byte) (j : Nat) : Reloc :=
  let e := (s.drop (16 + 32 * j)).take 32
  let w := leAt e 0 4
  { dir := w % 2 ^ 16, form := w / 2 ^ 16 % 16, k := w / 2 ^ 20 % 4, off := leAt e 4 4, target := leAt e 8 2
    addend := (BitVec.ofNat 64 (leAt e 16 8)).toInt, name := leAt e 24 4
    zero := w / 2 ^ 22 = 0 && leAt e 10 6 = 0 && leAt e 28 4 = 0 }

/-- Bytes written, least and greatest value, width and signedness of a form (Table 5-11). The fields of `.byte`, `.half`, `.word`
and `.dword`, which R79 admits signed and unsigned values to, are reported as unsigned (DESIGN CHOICE, log entry 71). -/
def formOf : Nat → Nat × Int × Int × Nat × Bool
  | 0 => (8, -(2 ^ 63), 2 ^ 64 - 1, 64, false)
  | 1 => (4, -(2 ^ 31), 2 ^ 32 - 1, 32, false)
  | 2 => (2, -(2 ^ 15), 2 ^ 16 - 1, 16, false)
  | 3 => (1, -(2 ^ 7), 2 ^ 8 - 1, 8, false)
  | 4 => (2, -(2 ^ 15), 2 ^ 15 - 1, 16, true)
  | 5 => (2, 0, 2 ^ 16 - 1, 16, false)
  | 6 => (2, -(2 ^ 12), 2 ^ 12 - 1, 13, true)
  | _ => (2, 0, 2 ^ 16 - 1, 16, false)

/-- Is an entry well-formed in a list whose string area has `names` bytes? -/
def Image.relocOk (i : Image) (names : Nat) (r : Reloc) : Bool :=
  let field := i.dir[r.dir]?
  let target := i.dir[r.target]?
  r.zero && r.form ≤ 7 && (r.form = 7 || r.k = 0) && (match field with
    | none => false
    | some e => (e.kind = 1 || e.kind = 7 || e.kind = 8 || e.kind = 9 || e.kind = 10) &&
        decide (r.off + (formOf r.form).1 ≤ e.slen)) && (match target with
    | none => false
    | some e => e.kind = 9 || e.kind = 10) && (r.name = 0xFFFFFFFF || decide (r.name < names))

/-- The relocations of an image, or CFG_IMAGE naming the list's directory entry. -/
def Image.relocs (i : Image) : Loading (List Reloc) := match i.find 11 with
  | none => .ok []
  | some (k, e) => do
    let s := i.secs.getD k []
    let n := leAt s 0 4
    let bad : LoadStop := { code := .cfgImage, w3 := k }
    require (leAt s 4 12 = 0 && decide (16 + 32 * n ≤ e.slen)) bad
    let rs := (List.range n).map (relocAt s)
    require (rs.all (i.relocOk (e.slen - 16 - 32 * n))) bad
    pure rs

/-- The exact value of a relocation, for FORM 7 its part. -/
def Image.bound (i : Image) (r : Reloc) : Int :=
  let v : Int := ((i.addr + (i.dir.getD r.target default).off : Nat) : Int) + r.addend
  if r.form = 7 then ((BitVec.ofInt 64 v).toNat / 2 ^ (16 * r.k) % 2 ^ 16 : Nat) else v
def Image.fits (i : Image) (r : Reloc) : Bool :=
  let f := formOf r.form
  let v := i.bound r
  decide (f.2.1 ≤ v ∧ v ≤ f.2.2.1)

/-- The block and the slot of a kind 0x01 section that hold byte `off`, 64 for a header. R80 has the record name (page, FE, plane, block,
slot) and does not say what it names for a field in the table of offsets, or in no block: here the header of block 0 (DESIGN CHOICE,
log entry 71). -/
def blockOfByte (s : List Byte) (off : Nat) : Nat × Nat :=
  let hit := (List.range 8).findSome? fun n => (blockOff s n).bind fun o =>
    if o ≤ off ∧ off < o + 4 then some (n, 64)
    else if o + 4 ≤ off ∧ off < o + 4 * (leAt s o 4 / 2 ^ 26 % 64 + 2) then some (n, (off - o - 4) / 4) else none
  hit.getD (0, 64)
/-- Where the field of a relocation lies: page, FE, plane, block and slot of an element section, the FE of a bank entry (R80). -/
def Image.fieldAt (i : Image) (r : Reloc) : Nat :=
  let e := i.dir.getD r.dir default
  let s := i.secs.getD r.dir []
  if e.kind = 1 then let b := blockOfByte s r.off
                     loadWord e.lpage e.site e.plane b.1 b.2
  else if e.kind = 7 then let f := leAt s (r.off / 32 * 32) 2 % 2 ^ 11
                          loadWord (f / 24) (f % 24) 0 0 0
  else loadWord e.lpage e.site e.plane 0 0

/-- The refusal of relocation `j` (R80). R80 and 18 Table 18-3 give word 3 a byte offset or a slot index and do not say which for an element
section: here it is the byte offset in every section (DESIGN CHOICE, log entry 71). -/
def Image.rangeStop (i : Image) (j : Nat) (r : Reloc) : LoadStop :=
  let f := formOf r.form
  { code := .loadRange, w2 := i.fieldAt r, w3 := r.dir + r.off * 2 ^ 16, w4 := j
    w5 := (BitVec.ofInt 64 (i.bound r)).toNat, w6 := f.2.2.2.1 + (if f.2.2.2.2 then 2 ^ 7 else 0) }

/-- The value that does not fit in the lowest directory entry, then at the lowest offset, then first in the list. -/
def Image.rangeFail (i : Image) (rs : List Reloc) : Option LoadStop :=
  let bad := rs.zipIdx.filter fun r => !i.fits r.1
  let less (x y : Reloc × Nat) : Bool :=
    decide (x.1.dir < y.1.dir ∨ (x.1.dir = y.1.dir ∧ (x.1.off < y.1.off ∨ (x.1.off = y.1.off ∧ x.2 < y.2))))
  match bad with
  | [] => none
  | b :: bs =>
    let m := bs.foldl (fun m x => if less x m then x else m) b
    some (i.rangeStop m.2 m.1)

/-- Bytes to write into the control and data sections of an image in memory, oldest first. -/
abbrev Patches := List (Nat × List Byte)
/-- Bytes of the image in memory as patched so far. -/
def patched (ps : Patches) (a : Nat) (bs : List Byte) : List Byte :=
  bs.zipIdx.map fun b => ps.foldl (fun v p =>
    if p.1 ≤ a + b.2 ∧ a + b.2 < p.1 + p.2.length then p.2.getD (a + b.2 - p.1) 0 else v) b.1

/-- Replace bytes of a list. -/
def putBytes (s : List Byte) (off : Nat) (bs : List Byte) : List Byte := s.take off ++ bs ++ s.drop (off + bs.length)

/-- Write one relocation, in list order: into the copy of a section, or into the image's control or data section. -/
def Image.apply (i : Image) (rd : Reader) (ps : Patches) (r : Reloc) : Loading (Image × Patches) := do
  let e := i.dir.getD r.dir default
  let n := (formOf r.form).1
  let v := (BitVec.ofInt 64 (i.bound r)).toNat
  let mem := e.kind = 9 || e.kind = 10
  let a := i.addr + e.off + r.off
  let old ← if r.form ≠ 6 then pure [] else if mem then (readAt rd a 2).map (patched ps a)
            else pure (((i.secs.getD r.dir []).drop r.off).take 2)
  let bs := leBytes n (if r.form = 6 then leNat old / 2 ^ 13 * 2 ^ 13 + v % 2 ^ 13 else v)
  pure (if mem then (i, ps ++ [(a, bs)])
        else ({ i with secs := i.secs.set r.dir (putBytes (i.secs.getD r.dir []) r.off bs) }, ps))

def Image.applyAll (i : Image) (rd : Reader) (ps : Patches) : List Reloc → Loading (Image × Patches)
  | [] => .ok (i, ps)
  | r :: rs => do
    let (i, ps) ← i.apply rd ps r
    i.applyAll rd ps rs

/-! ### Pieces of an image -/

/-- Row and column of pitch index `f` within the pitch (01 R25, R26). -/
def Image.row (i : Image) (f : Nat) : Nat := 4 * (f / 24 / i.w) + f % 24 / 6
def Image.col (i : Image) (f : Nat) : Nat := 8 * (f / 24 % i.w) + posCol (f % 24)
def Image.fes (i : Image) : List Nat := List.range (24 * i.pages)
def Image.planes (_ : Image) : List Nat := List.range 6

/-- Blocks of an FE's plane that are present. -/
def Image.blocks (i : Image) (f plane : Nat) : List (Nat × Block) :=
  let s := i.sec 1 (f / 24) (f % 24) plane
  if s.isEmpty then [] else (List.range 8).filterMap fun n => (blockOff s n).map fun o => (n, blockAt s o)
def Image.recs (i : Image) (f plane : Nat) : List (BitVec 64) :=
  let s := i.sec 2 (f / 24) (f % 24) plane
  (List.range 8).map fun n => BitVec.ofNat 64 (leAt s (8 * n) 8)
def Image.round (i : Image) (plane : Nat) : Nat := ((i.sec 12 0 0 0).getD plane 0).toNat

/-- The routing word of a site of the pitch in a plane. -/
def Image.routeAt (i : Image) (row col plane : Nat) : Line :=
  let s := i.sec 3 (row / 4 * i.w + col / 8) 0 plane
  BitVec.ofNat 512 (leAt s (64 * (8 * (row % 4) + col % 8)) 64)

/-- An edge entry (Table 5-5), FEs by pitch index. -/
structure ImgEdge where
  id : Nat
  plane : Nat
  src : Nat
  srcp : Nat
  net : Bool
  dst : Nat
  dstp : Nat
  pdecl : BitVec 32
  cdecl : BitVec 32
  zero : Bool
  deriving DecidableEq, Repr, Inhabited

def Image.edges (i : Image) : List ImgEdge :=
  let s := i.sec 5 0 0 0
  (List.range (s.length / 16)).map fun j =>
    let x := BitVec.ofNat 128 (leAt s (16 * j) 16)
    { id := fldN x 0 10, plane := fldN x 10 3, src := fldN x 16 11, srcp := fldN x 27 3, net := bitOf x 30
      dst := fldN x 32 11, dstp := fldN x 43 3, pdecl := fld x 64 32, cdecl := fld x 96 32
      zero := fldN x 13 3 = 0 && !bitOf x 31 && fldN x 46 18 = 0 }

/-- A rotation declaration (Table 5-7). -/
structure ImgRot where
  num : Nat
  plane : Nat
  fe : Nat
  block : Nat
  slot : Nat
  depth : Nat
  width : Nat
  k : Bool
  chunk : Nat
  zero : Bool
  deriving DecidableEq, Repr, Inhabited

def Image.rots (i : Image) : List ImgRot :=
  let s := i.sec 6 0 0 0
  (List.range (s.length / 16)).map fun j =>
    let x := BitVec.ofNat 128 (leAt s (16 * j) 16)
    { num := fldN x 0 3, plane := fldN x 3 3, fe := fldN x 6 11, block := fldN x 17 3, slot := fldN x 20 6
      depth := fldN x 26 8 + 1, width := fldN x 34 2 + 1, k := bitOf x 36, chunk := fldN x 37 4 + 1
      zero := fldN x 41 87 = 0 }

/-- A bank binding (R123). -/
structure ImgBank where
  fe : Nat
  n : Nat
  base : Nat
  len : Nat
  zero : Bool
  deriving DecidableEq, Repr, Inhabited

def Image.banks (i : Image) : List ImgBank :=
  let s := i.sec 7 0 0 0
  (List.range (s.length / 32)).map fun j =>
    let x := BitVec.ofNat 256 (leAt s (32 * j) 32)
    { fe := fldN x 0 11, n := fldN x 16 11 + 1, base := fldN x 64 64, len := fldN x 128 64
      zero := fldN x 11 5 = 0 && fldN x 27 37 = 0 && fldN x 192 64 = 0 }

def Image.footprint (i : Image) : List (Nat × Nat) :=
  let s := i.sec 8 0 0 0
  (List.range (s.length / 16)).map fun j => (leAt s (16 * j) 8, leAt s (16 * j + 8) 8)

/-! ### Element blocks (04 R92-R99; 10 R198, R207; 11 R230; 13 R293; 16 R334) -/

/-- The operands an opcode reads from producers, its predicate apart. -/
def wordReads (w : BitVec 32) : List Opnd :=
  let op := wordOp w
  if op = 0x14 || op = 0x25 || op = 0x26 || op = 0x33 || (op = 0x54 && fldN w 22 3 = 2) then [.a, .b, .c]
  else if (0x10 ≤ op && op ≤ 0x1D) || (0x21 ≤ op && op ≤ 0x24) || (0x30 ≤ op && op ≤ 0x32) || op = 0x34 || op = 0x35 ||
      (0x38 ≤ op && op ≤ 0x3A) || op = 0x4E || op = 0x53 || op = 0x54 || op = 0x63 || op = 0x66 then [.a, .b]
  else if op = 2 || op = 3 || op = 5 || (0x1E ≤ op && op ≤ 0x20) || op = 0x36 || op = 0x37 || (0x3B ≤ op && op ≤ 0x3F) ||
      (0x46 ≤ op && op ≤ 0x4D) || op = 0x4F || op = 0x50 || op = 0x52 || op = 0x55 || op = 0x56 || op = 0x62 || op = 0x64 ||
      op = 0x67 || op = 0x68 then [.a]
  else []

/-- Does a word that is not of EM format carry `.q` (R93, R95)? -/
def wordPredicated (w : BitVec 32) : Bool :=
  let op := wordOp w
  if 0x46 ≤ op && op ≤ 0x49 then bitOf w 24
  else if op = 5 || (0x10 ≤ op && op ≤ 0x3F) || (0x4C ≤ op && op ≤ 0x4E) || (0x62 ≤ op && op ≤ 0x68) || op = 0x6C then bitOf w 20
  else false

/-- The targets of a word of a block: one with a reserved opcode has no fields (R99). -/
def targetsOf (w : BitVec 32) : List (BitVec 9) := match decodeElement w with
  | .error .unassigned => []
  | .error .reservedBits | .error .badField | .error .tooShort => wordTargets w
  | .ok _ => wordTargets w
/-- How many targets of the block name operand `o` of slot `k`. -/
def Block.named (b : Block) (k : Nat) (o : Opnd) : Nat :=
  (b.slots.flatMap fun p => (targetsOf p.2).filter fun t => decide (tgtOpnd t = some o ∧ tgtIdx t = k)).length

/-- Is slot `k` an instruction's, not a literal's? -/
def Block.isSlot (b : Block) (k : Nat) : Bool := b.slots.any fun p => p.1 = k
def Block.inMask (b : Block) (k : Nat) : Bool := bitOf b.header (8 + k)
def Block.outMask (b : Block) (k : Nat) : Bool := bitOf b.header k
/-- Ports of the words of an opcode before slot `k`. -/
def Block.portsOf (b : Block) (op k : Nat) : List Nat :=
  (b.slots.filter fun p => decide (p.1 < k) && wordOp p.2 = op).map fun p => fldN p.2 22 3

/-- A target of slot `k` (R96). -/
def Block.targetOk (b : Block) (k : Nat) (t : BitVec 9) : Bool :=
  let x := tgtIdx t
  match tgtClass t with
  | 0 => x = 0
  | 1 | 2 | 3 | 4 => decide (k < x ∧ x < b.words.length) && b.isSlot x
  | 5 => decide (x < 8) && b.outMask x
  | 6 => decide (x < 32)
  | _ => decide (x ≤ 2)

/-- Is the own value of an EM word of the block valid (R97)? Of two words with the same value the later one is at fault: R97 does not say
which of them is (DESIGN CHOICE, log entry 71). -/
def Block.ownOk (b : Block) (k : Nat) (w : BitVec 32) : Bool :=
  decide (fldN w 18 4 < fldN b.header 20 4) &&
  !b.slots.any fun p => decide (p.1 < k) && isEm p.2 && fldN p.2 18 4 = fldN w 18 4
/-- The wave fields of an EM word of the block (R97). -/
def Block.waveOk (b : Block) (k : Nat) (w : BitVec 32) : Bool :=
  let other (x : Nat) : Bool := x = 15 || b.slots.any fun p => decide (p.1 ≠ k) && isEm p.2 && fldN p.2 18 4 = x
  b.ownOk k w && other (fldN w 14 4) && other (fldN w 10 4)

/-- Slots that break the chain of a block whose own values are valid: EM words that it does not visit, and those whose pred or
succ disagrees with it (13 R293). Which slot the record names when the chain does not visit every EM word once the manual does not
say; here it is the first one that it passes by (DESIGN CHOICE, log entry 71). -/
def Block.chainBad (b : Block) : List Nat :=
  let ch := b.chain
  let ems := b.slots.filter fun p => isEm p.2
  (ems.filter fun p =>
    let own := fldN p.2 18 4
    let pred := fldN p.2 14 4
    let succ := fldN p.2 10 4
    let at_ := ch.idxOf own
    !(ch.contains own && (pred = 15 || (at_ ≠ 0 && ch[at_ - 1]? = some pred)) && (succ = 15 || ch[at_ + 1]? = some succ))).map (·.1)

/-- Is slot `k` valid in its block, at column `col` of its page, with the plane's blocks `present` (R95, R96, R98, R207)? An operand
that two targets name, or none, or that the slot does not read though one names it, makes the slot invalid that has the operand, and
not a producer: R96 does not say which of them is the one at fault (DESIGN CHOICE, log entry 71). -/
def Block.slotOk (b : Block) (present : List Nat) (col k : Nat) (w : BitVec 32) : Bool :=
  let op := wordOp w
  let port := fldN w 22 3
  let last := decide (k + 1 = b.words.length)
  let exit := op = 0x0A || op = 0x0B
  (decodeElement w).toOption.isSome && (exit == last) &&
  (!exit || present.contains (fldN w 15 3)) &&
  (op ≠ 1 || (b.inMask port && !(b.portsOf 1 k).contains port && !(b.portsOf 0x5A k).contains port)) &&
  (op ≠ 2 || b.outMask port) &&
  (op ≠ 3 || (b.inMask port && (fldN w 18 4 ≠ 0 || (b.portsOf 1 64).contains port))) &&
  (op ≠ 4 || (b.portsOf 1 64).contains port) &&
  (op ≠ 0x5A || (b.inMask port && !(b.portsOf 1 k).contains port && !(b.portsOf 0x5A k).contains port)) &&
  (op ≠ 0x5B || (b.outMask port && !(b.portsOf 0x5B k).contains port)) &&
  (op ≠ 0x62 || (if bitOf w 18 then col = 2 else col = 4)) &&
  (op ≠ 0x63 || (b.inMask port && !(b.slots.any fun p => decide (p.1 < k) && wordOp p.2 = 0x63))) &&
  ((wordTargets w).all (b.targetOk k)) &&
  (([.a, .b, .c] : List Opnd).all fun o => b.named k o = if (wordReads w).contains o then 1 else 0) &&
  (if isEm w then decide (b.named k .q ≤ 1) else b.named k .q = if wordPredicated w then 1 else 0) &&
  (!isEm w || b.waveOk k w)

/-- Slots of a block that are invalid, 64 for the header; a literal that is the last slot is itself at fault (R99). The chain of R293 is
followed once the own values of the block are valid. -/
def Block.badSlots (b : Block) (present : List Nat) (col : Nat) : List Nat :=
  let ems := b.slots.filter fun p => isEm p.2
  let bad := (b.slots.filter fun p => !b.slotOk present col p.1 p.2).map (·.1)
  let tail := if (b.slots.getLast?.map (·.1)) = some (b.words.length - 1) then [] else [b.words.length - 1]
  let chain := if ems.all fun p => b.ownOk p.1 p.2 then b.chainBad else []
  let head := if fldN b.header 16 4 = 0 && fldN b.header 20 4 = ems.length then [] else [64]
  bad ++ tail ++ chain ++ head

/-- Starting block of a plane (10 R198). -/
def startBlock (bs : List (Nat × Block)) : Option Nat :=
  match bs.find? fun b => fldN b.2.header 24 2 = 1 with
  | some b => some b.1
  | none => (bs.find? fun b => b.1 = 0).map (·.1)

/-! ### Loops of rotations (05 R122; 11 R225) -/

/-- Ports of the SEAM a declaration names: back, chunk in, forward, chunk out. -/
def Image.seamOf (i : Image) (r : ImgRot) : Option (Nat × Nat × Nat × Nat) :=
  match (i.blocks r.fe r.plane).find? fun b => b.1 = r.block with
  | none => none
  | some b => match b.2.slots.find? fun p => p.1 = r.slot with
    | none => none
    | some p => if wordOp p.2 ≠ 0x6B then none
                else some (fldN p.2 22 3, fldN p.2 19 3, fldN p.2 0 3, fldN p.2 9 3)

/-- Sides N 0, E 1, S 2, W 3: the site `n` away, within the pitch. -/
def Image.away (i : Image) (row col side n : Nat) : Option (Nat × Nat) := match side with
  | 0 => if n ≤ row then some (row - n, col) else none
  | 1 => if col + n < 8 * i.w then some (row, col + n) else none
  | 2 => if row + n < 4 * i.h then some (row + n, col) else none
  | _ => if n ≤ col then some (row, col - n) else none
def trackLen (t : Nat) : Nat := if t < 8 then 1 else if t < 14 then 4 else 16
/-- The side and track a source code of an outgoing track names, or the port (R112). -/
def sourceOf (side code : Nat) : Option (Nat × Nat ⊕ Nat) :=
  if code = 0 || 56 < code then none
  else if 48 < code then some (.inr (code - 49))
  else some (.inl (([0, 1, 2, 3].filter fun s => s ≠ side).getD ((code - 1) / 16) 0, (code - 1) % 16))
/-- Source code of an outgoing track. -/
def outCode (w : Line) (side track : Nat) : Nat := fldN w (6 * (16 * side + track)) 6
def inCode (w : Line) (port : Nat) : Nat := fldN w (384 + 7 * port) 7

/-- From a track register back to the port that drives it: the registers passed, and the site and port; none where the
tracks end undriven, leave the pitch or close a loop. -/
def Image.traceBack (i : Image) (plane : Nat) : Nat → Nat × Nat × Nat × Nat → Option (Nat × Nat × Nat × Nat)
  | 0, _ => none
  | n + 1, (row, col, side, track) =>
    match sourceOf side (outCode (i.routeAt row col plane) side track) with
    | none => none
    | some (.inr p) => some (1, row, col, p)
    | some (.inl (s, t)) => match i.away row col s (trackLen t) with
      | none => none
      | some (r, c) => (i.traceBack plane n (r, c, (s + 2) % 4, t)).map fun x => (x.1 + 1, x.2)

/-- Registers in a plane: no route passes more. -/
def Image.registers (i : Image) : Nat := 64 * 32 * i.pages

/-- The route into an input port: switch boxes passed, and the producing site and port. -/
def Image.routeInto (i : Image) (f plane port : Nat) : Option (Nat × Nat × Nat × Nat) :=
  let row := i.row f
  let col := i.col f
  let code := inCode (i.routeAt row col plane) port
  if code = 0 || 64 < code then none
  else match i.away row col ((code - 1) / 16) (trackLen ((code - 1) % 16)) with
    | none => none
    | some (r, c) => i.traceBack plane i.registers (r, c, ((code - 1) / 16 + 2) % 4, (code - 1) % 16)

/-- Switch boxes of an edge's route; none on the page network. -/
def Image.hops (i : Image) (e : ImgEdge) : Nat :=
  if e.net then 0 else ((i.routeInto e.dst e.plane e.dstp).map (·.1)).getD 0

/-- The simple paths of edges from an FE back to back ports of the seam: each the list of its edges. -/
def Image.loopPaths (i : Image) (es : List ImgEdge) (seam : Nat) (backs : List Nat) :
    Nat → List Nat → ImgEdge → List (List ImgEdge)
  | 0, _, _ => []
  | n + 1, seen, e =>
    if e.dst = seam then if backs.contains e.dstp then [[e]] else []
    else if seen.contains e.dst then []
    else ((es.filter fun x => x.src = e.dst).flatMap fun x => i.loopPaths es seam backs n (e.dst :: seen) x).map (e :: ·)

/-- Paths from some of the seam's output ports to its back ports. -/
def Image.pathsFrom (i : Image) (r : ImgRot) (outs backs : List Nat) : List (List ImgEdge) :=
  let es := i.edges.filter fun e => e.plane = r.plane
  (es.filter fun e => decide (e.src = r.fe) && outs.contains e.srcp).flatMap fun e =>
    i.loopPaths es r.fe backs (es.length + 1) [] e

/-- Loop edges and loop FEs of a declaration, its loop latency L, and whether each back port is reached from the forward
ports: L counts the switch boxes and the output registers of the longest path; R122 also names the pipeline stages, which R433
and R436 leave no room for (log entry 12). -/
def Image.loopInfo (i : Image) (r : ImgRot) : List Nat × List Nat × Nat × Bool :=
  match i.seamOf r with
  | none => ([], [], 0, false)
  | some (b, _, f, x) =>
    let backs := (List.range r.width).map (b + ·)
    let fwd := (List.range r.width).map (f + ·)
    let all := i.pathsFrom r (x :: fwd) backs
    let main := i.pathsFrom r fwd backs
    let cost (p : List ImgEdge) : Nat := p.foldl (fun n e => n + 1 + i.hops e) 0
    let fes := (all.flatMap fun p => p.dropLast.map (·.dst)).foldl (fun l f => if l.contains f then l else l ++ [f]) []
    let ids := (all.flatMap fun p => p.map (·.id)).foldl (fun l f => if l.contains f then l else l ++ [f]) []
    (ids, fes, main.foldl (fun n p => max n (cost p)) 0,
      backs.all fun k => main.any fun p => (p.getLast?.map (·.dstp)) = some k)

/-- The declaration that names a seam slot. -/
def Image.declOf (i : Image) (f plane block slot : Nat) : Option ImgRot :=
  i.rots.find? fun r => decide (r.fe = f ∧ r.plane = plane ∧ r.block = block ∧ r.slot = slot)

/-- Is the block of a SEAM valid (11 R230)? -/
def Image.seamOk (i : Image) (f plane : Nat) (bs : List (Nat × Block)) (n : Nat) (b : Block) (k : Nat) (w : BitVec 32) : Bool :=
  match i.declOf f plane n k with
  | none => false
  | some r =>
    let B := fldN w 22 3
    let K := fldN w 19 3
    let F := fldN w 0 3
    let X := fldN w 9 3
    let lanes (p : Nat) : Nat := (2 ^ r.width - 1) * 2 ^ p
    k = 0 && b.words.length = 2 && (match b.words[1]? with
      | some e => wordOp e = 0x0A && fldN e 15 3 = n
      | none => false) && bs.length = 1 && decide (B + r.width ≤ 8 ∧ F + r.width ≤ 8) &&
    fldN b.header 8 8 = lanes B ||| 2 ^ K && fldN b.header 0 8 = lanes F ||| 2 ^ X &&
    !(decide (B ≤ K ∧ K < B + r.width)) && !(decide (F ≤ X ∧ X < F + r.width))

/-- Invalid slots of a plane's blocks that need more than the block: SEAM, HOLD, SPADD. -/
def Image.badPlaneSlots (i : Image) (loops : List (Nat × Nat)) (f plane : Nat) (bs : List (Nat × Block)) (n : Nat) (b : Block) :
    List Nat :=
  (b.slots.filter fun p =>
    let op := wordOp p.2
    let port := fldN p.2 22 3
    (op = 0x6B && !i.seamOk f plane bs n b p.1 p.2) || (op = 0x6C && !loops.contains (f, plane)) ||
    (op = 0x63 && bs.any fun c => (c.2.portsOf 1 64).contains port || (c.2.portsOf 0x5A 64).contains port)).map (·.1)

/-! ### CFG_ENCODING (Table 5-8, order 4) -/

/-- Insert into an ascending list without repeats. -/
def insertAsc (x : Nat) : List Nat → List Nat
  | [] => [x]
  | y :: ys => if x < y then x :: y :: ys else if x = y then y :: ys else y :: insertAsc x ys

/-- Invalid records of a plane (04 R102; 14 R300, R302). -/
def badRecs (rs : List (BitVec 64)) : List Nat :=
  let expects (w : BitVec 64) : List (Nat × Expect) := (mtuReads (fldN w 58 6) (mtuFields w)).map fun x => (x.1, x.2.2)
  (rs.zipIdx.filter fun x =>
    let w := x.1
    if fldN w 58 6 = 0 then decide (w ≠ 0)
    else (decodeMtu w).toOption.isNone ||
      (expects w).any fun e => (rs.take x.2).any fun v => (expects v).any fun d => decide (d.1 = e.1 ∧ d.2 ≠ e.2)).map (·.2)

/-- Refusals of blocks and records by (page, FE, plane, block, slot). -/
def Image.elementStops (i : Image) : List LoadStop :=
  let loops := i.rots.flatMap fun r => (i.loopInfo r).2.1.map fun f => (f, r.plane)
  i.fes.flatMap fun f => i.planes.flatMap fun plane =>
    let bs := i.blocks f plane
    let present := bs.map (·.1)
    let stop (block slot : Nat) : LoadStop := { code := .cfgEncoding, w2 := loadWord (f / 24) (f % 24) plane block slot }
    let start := if bs.isEmpty || (startBlock bs).isSome then [] else [64]
    let slots := bs.flatMap fun b =>
      let bad := (b.2.badSlots present (posCol (f % 24)) ++ i.badPlaneSlots loops f plane bs b.1 b.2).foldr insertAsc []
      bad.map (stop b.1)
    start.map (stop 0) ++ slots ++ (badRecs (i.recs f plane)).map (stop 8)

/-- Fields at fault of a routing word (R112; 14 R302). An island or slice site has no output port: R112 does not forbid the source codes
49-56 in its word, and they are accepted; no token comes of them (DESIGN CHOICE, log entry 71). -/
def badRoute (isFe : Bool) (w : Line) (recs : List (BitVec 64)) : List Nat :=
  ((List.range 64).filter fun k => decide (56 < fldN w (6 * k) 6)) ++
  ((List.range 8).filter fun k => if isFe then decide (64 < inCode w k) else decide (inCode w k ≠ 0)).map (64 + ·) ++
  ((List.range 8).filter fun k => let v := fldN w (440 + 3 * k) 3
                                  if isFe then decide (4 < v) else decide (v ≠ 0)).map (72 + ·) ++
  ((List.range 8).filter fun k =>
    let v := fldN w (464 + 3 * k) 3
    let x := recs.getD k 0
    decide (v ≠ 0) && (decide (4 < v) || !isFe || fldN x 58 6 ≠ 5 || (mtuFields x).td ≠ 12)).map (80 + ·) ++
  (if fldN w 488 24 = 0 then [] else [88])

/-- The FE position at a site of a page, if it has one (01 R19). -/
def sitePos (j : Nat) : Option Nat :=
  let c := j % 8
  if c = 3 || c = 7 then none else some (j / 8 * 6 + (if c < 3 then c else c - 1))

def Image.routeStops (i : Image) : List LoadStop :=
  (List.range i.pages).flatMap fun p => i.planes.flatMap fun plane =>
    let s := i.sec 3 p 0 plane
    if s.isEmpty then []
    else (List.range 32).flatMap fun j =>
      let w := BitVec.ofNat 512 (leAt s (64 * j) 64)
      let recs := match sitePos j with
        | some q => i.recs (24 * p + q) plane
        | none => []
      (badRoute (sitePos j).isSome w recs).map fun k =>
        { code := .cfgEncoding, w2 := loadWord p j plane 10 k }

/-- Tables of an island that are invalid, 64 for its header (R120, R121). -/
def badTables (s : List Byte) : List Nat :=
  let t (k : Nat) : BitVec 64 := BitVec.ofNat 64 (leAt s (8 + 8 * k) 8)
  let sels (k : Nat) : List Nat := (List.range 4).map fun n => fldN (t k) (16 + 10 * n) 10
  let nexts (k : Nat) : List Nat := if bitOf (t k) 56 then [] else ((sels k).filter fun x => decide (512 ≤ x ∧ x < 576)).map (· - 512)
  let step (ks : List Nat) : List Nat := ((ks ++ ks.flatMap nexts).foldr insertAsc [])
  let reach (k : Nat) : List Nat := (List.range 64).foldl (fun ks _ => step ks) (nexts k)
  ((List.range 64).filter fun k => ((sels k).any fun x => decide (575 < x)) || fldN (t k) 57 7 ≠ 0 || (reach k).contains k) ++
  (if leAt s 0 8 < 4 then [] else [64])

def Image.islandStops (i : Image) : List LoadStop :=
  (List.range i.pages).flatMap fun p => (List.range 4).flatMap fun n => i.planes.flatMap fun plane =>
    let s := i.sec 4 p n plane
    if s.isEmpty then [] else (badTables s).map fun k => { code := .cfgEncoding, w2 := loadWord p n plane 9 k }

def Image.rotStops (i : Image) : List LoadStop :=
  (i.rots.zipIdx.filter fun x =>
    let r := x.1
    let before := i.rots.take x.2
    !r.zero || decide (24 * i.pages ≤ r.fe) || (i.seamOf r).isNone || (before.any fun q => q.num = r.num) ||
    before.any fun q => decide (q.fe = r.fe ∧ q.plane = r.plane ∧ q.block = r.block ∧ q.slot = r.slot)).map fun x =>
      { code := .cfgEncoding, w2 := rotWord x.1.num }

/-! ### CFG_ROUTE to ROT_DEPTH (Table 5-8, orders 5 to 9) -/

/-- Does the walk back from a register come round to it? -/
def Image.closes (i : Image) (plane : Nat) (at0 : Nat × Nat × Nat × Nat) : Nat → Nat × Nat × Nat × Nat → Bool
  | 0, _ => false
  | n + 1, (row, col, side, track) =>
    match sourceOf side (outCode (i.routeAt row col plane) side track) with
    | some (.inl (s, t)) => match i.away row col s (trackLen t) with
      | none => false
      | some (r, c) => decide ((r, c, (s + 2) % 4, t) = at0) || i.closes plane at0 n (r, c, (s + 2) % 4, t)
    | some (.inr _) => false
    | none => false

/-- Does a site's word cross the border or take part in a loop of tracks (R113, R114)? -/
def Image.siteBad (i : Image) (row col plane : Nat) : Bool :=
  let w := i.routeAt row col plane
  ((List.range 64).any fun k =>
    let side := k / 16
    let track := k % 16
    match sourceOf side (outCode w side track) with
    | none => false
    | some x => (i.away row col side (trackLen track)).isNone || (match x with
        | .inl (s, t) => (i.away row col s (trackLen t)).isNone
        | .inr _ => false) || i.closes plane (row, col, side, track) i.registers (row, col, side, track)) ||
  (List.range 8).any fun k =>
    let c := inCode w k
    c ≠ 0 && (i.away row col ((c - 1) / 16) (trackLen ((c - 1) % 16))).isNone

def Image.trackStops (i : Image) : List LoadStop :=
  (List.range i.pages).flatMap fun p => i.planes.flatMap fun plane =>
    if (i.sec 3 p 0 plane).isEmpty then []
    else ((List.range 32).filter fun j => i.siteBad (4 * (p / i.w) + j / 8) (8 * (p % i.w) + j % 8) plane).map fun j =>
      { code := .cfgRoute, w2 := loadWord p j plane 10 0 }

/-- Is edge `e`, behind edges `before`, in order (R115, R117)? Table 5-8 gives no code to a reserved bit of an edge entry, to an edge
number that is repeated, nor to a NET edge within one page: here they are CFG_ROUTE naming the edge (DESIGN CHOICE, log
entry 71). -/
def Image.edgeOk (i : Image) (before : List ImgEdge) (e : ImgEdge) : Bool :=
  let n := 24 * i.pages
  e.zero && decide (e.src < n ∧ e.dst < n) && ((i.blocks e.src e.plane).any fun b => b.2.outMask e.srcp) &&
  ((i.blocks e.dst e.plane).any fun b => b.2.inMask e.dstp) &&
  !(before.any fun x => decide (x.id = e.id ∨ (x.plane = e.plane ∧ x.dst = e.dst ∧ x.dstp = e.dstp))) &&
  (if e.net then decide (e.src / 24 ≠ e.dst / 24)
   else (i.routeInto e.dst e.plane e.dstp).map (·.2) = some (i.row e.src, i.col e.src, e.srcp))

def Image.edgeStops (i : Image) : List LoadStop :=
  let es := i.edges
  (es.zipIdx.filter fun x => !i.edgeOk (es.take x.2) x.1).map fun x => { code := .cfgRoute, w2 := edgeWord x.1.id }

/-- A rotation with no route back, or with an FE on another loop (11 R225). -/
def Image.loopStops (i : Image) : List LoadStop :=
  let rs := i.rots
  (rs.zipIdx.filter fun x =>
    let l := i.loopInfo x.1
    !l.2.2.2 || (rs.take x.2).any fun q => (i.loopInfo q).2.1.any fun f => l.2.1.contains f).map fun x =>
      { code := .cfgRoute, w2 := rotWord x.1.num }

/-- Is a DECL word valid (R116)? -/
def declOk (d : BitVec 32) : Bool :=
  if bitOf d 0 then fldN d 25 7 = 0 && (declTile d).valid else fldN d 5 27 = 0 && decide (fldN d 1 4 ≤ 12)

def Image.formatStops (i : Image) : List LoadStop :=
  (i.edges.filter fun e => decide (e.pdecl ≠ e.cdecl) || !declOk e.pdecl).map fun e => { code := .cfgFormat, w2 := edgeWord e.id }

/-- Is a bank binding, behind the bindings `before`, in order (R123)? An FE index outside the pitch, for which the manual names no code,
is refused like the rest with CFG_BANK (DESIGN CHOICE, log entry 71). -/
def bankOk (n : Nat) (before : List ImgBank) (b : ImgBank) : Bool :=
  b.zero && decide (b.fe < n) && b.base % 64 = 0 && b.len % 64 = 0 && b.len ≠ 0 &&
  !before.any fun x => decide (x.fe = b.fe ∨ (x.base < b.base + b.len ∧ b.base < x.base + x.len))
def Image.bankStops (i : Image) : List LoadStop :=
  let bs := i.banks
  (bs.zipIdx.filter fun x => !bankOk (24 * i.pages) (bs.take x.2) x.1).map fun x =>
    { code := .cfgBank, w2 := loadWord (x.1.fe / 24) (x.1.fe % 24) 0 0 0 }

/-- Does a block hold an instruction that needs tile slots (14 R296)? -/
def Block.tiled (b : Block) : Bool := b.slots.any fun s =>
  let op := wordOp s.2
  op = 0x55 || op = 0x56 || op = 0x5A || op = 0x5B || op = 0x5C
/-- Has an FE tile slots by the image (14 R296)? -/
def Image.tiled (i : Image) (f : Nat) : Bool :=
  (i.planes.any fun p => ((i.recs f p).any fun w => fldN w 58 6 ≠ 0) || (i.blocks f p).any fun b => b.2.tiled) ||
  i.edges.any fun e => decide (e.src = f ∨ e.dst = f) && bitOf e.pdecl 0
/-- Bytes of the delay buffer of an FE (R124). -/
def Image.delayBytes (i : Image) (f : Nat) : Nat :=
  (i.rots.filter fun r => r.fe = f).foldl (fun n r => n + (r.depth - (i.loopInfo r).2.2.1) * r.width * 64) 0
/-- Bytes of local memory that are not scratch. -/
def localUse (n : Nat) (tiled : Bool) (delay : Nat) : Nat := 64 * n + (if tiled then 17408 else 0) + delay

/-- The planes an image writes: those that a section, an edge or a rotation names. -/
def Image.written (i : Image) : List Nat :=
  i.planes.filter fun p => (i.dir.any fun e => decide (1 ≤ e.kind ∧ e.kind ≤ 4 ∧ e.plane = p)) ||
    (i.edges.any fun e => e.plane = p) || i.rots.any fun r => r.plane = p

/-- What a pitch holds of an FE's local memory beside the planes that an image writes: lines of its bank, tile slots, bytes of delay
buffer (R124). -/
abbrev Held := List Nat → Nat → Nat × Bool × Nat
/-- Of a pitch that holds nothing. -/
def Held.nothing : Held := fun _ _ => (0, false, 0)

def Image.spaceStops (i : Image) (held : Held) : List LoadStop :=
  (i.fes.filter fun f =>
    let h := held i.written f
    let n := ((i.banks.find? fun b => b.fe = f).map (·.n)).getD h.1
    decide (131072 < localUse n (i.tiled f || h.2.1) (i.delayBytes f + h.2.2))).map fun f =>
      { code := .cfgSpace, w2 := loadWord (f / 24) (f % 24) 0 0 0 }

def Image.depthStops (i : Image) : List LoadStop :=
  (i.rots.filter fun r => decide (r.depth < (i.loopInfo r).2.2.1)).map fun r => { code := .rotDepth, w2 := rotWord r.num }

/-! ### What an image that passes comes to -/

/-- A plane of an FE as the image writes it: its generator's key is the FE's pitch index (16 R340). -/
def Image.planeOf (i : Image) (f plane : Nat) : Plane :=
  let bs := i.blocks f plane
  { blocks := Vector.ofFn fun (n : Fin 8) => (bs.find? fun b => b.1 = n.val).map (·.2)
    recs := Vector.ofFn fun (n : Fin 8) => (i.recs f plane).getD n.val 0
    rounding := i.round plane, sel := (startBlock bs).getD 0, genKey := BitVec.ofNat 32 f }

/-- Tokens an edge holds (R119); a back port's edge also has the rotation's delay stages (R122; log entry 12). -/
def Image.capacity (i : Image) (e : ImgEdge) : Nat :=
  let delay := match i.rots.find? fun r => decide (r.fe = e.dst ∧ r.plane = e.plane) && (match i.seamOf r with
      | none => false
      | some (b, _, _, _) => decide (b ≤ e.dstp ∧ e.dstp < b + r.width)) with
    | none => 0
    | some r => r.depth - (i.loopInfo r).2.2.1
  (if e.net then 24 else 1 + i.hops e + 8) + delay

def islandOf (s : List Byte) : Island :=
  { latency := leAt s 0 8 % 4 + 1, luts := Vector.ofFn fun (k : Fin 64) => BitVec.ofNat 64 (leAt s (8 + 8 * k.val) 8) }

/-- The part of the device an accepted image describes, for a pitch. -/
def Image.staged (i : Image) (r : ResId) (x : Residency) : Staged :=
  let fe (f : Nat) : FeId := feOfIndex r { x with h := i.h, w := i.w } f
  let planes := i.written
  let site (row col : Nat) : Nat × Nat := (4 * x.band0 + row, 8 * x.group0 + col)
  { planes, power := i.power, start := i.start, maxouter := i.maxouter, entry := i.entry
    ctlBase := i.addr + ((i.find 9).map (·.2.off)).getD 0
    feBlocks := i.fes.flatMap fun f => planes.map fun p => (fe f, p, i.planeOf f p)
    routes := (List.range i.pages).flatMap fun p => planes.flatMap fun plane => (List.range 32).map fun j =>
      let row := 4 * (p / i.w) + j / 8
      let col := 8 * (p % i.w) + j % 8
      ((r.die, (site row col).1, (site row col).2, plane), i.routeAt row col plane)
    islands := (List.range i.pages).flatMap fun p => planes.flatMap fun plane => (List.range 4).map fun n =>
      ((r.die, (site (4 * (p / i.w) + n) (8 * (p % i.w) + 3)).1, (site (4 * (p / i.w) + n) (8 * (p % i.w) + 3)).2, plane),
        islandOf (i.sec 4 p n plane))
    edges := i.edges.map fun e =>
      { id := e.id, plane := e.plane, src := fe e.src, srcp := e.srcp, dst := fe e.dst, dstp := e.dstp, net := e.net
        pdecl := e.pdecl, cdecl := e.cdecl, capacity := i.capacity e }
    rots := i.rots.map fun q =>
      let l := i.loopInfo q
      let p := (i.seamOf q).getD (0, 0, 0, 0)
      { num := q.num, plane := q.plane, seam := fe q.fe, block := q.block, depth := q.depth, width := q.width, k := q.k
        chunk := q.chunk, latency := l.2.2.1, back := p.1, pk := p.2.1, fwd := p.2.2.1, px := p.2.2.2
        loopEdges := l.1, loopFes := l.2.1.map fe, slots := List.replicate q.depth {} }
    banks := i.banks.map fun b => (fe b.fe, { n := b.n, base := b.base, len := b.len })
    local_ := i.fes.map fun f => (fe f, i.tiled f, i.delayBytes f)
    footprint := i.footprint }

/-! ### The load (R125) -/

/-- The relocations bound, where the list is well-formed and every value fits. -/
def Image.bind (i : Image) (rd : Reader) : Loading (Image × Patches) := do
  let rs ← i.relocs
  refuseFirst (i.rangeFail rs).toList
  i.applyAll rd [] rs

/-- Check an image for a pitch of shape (h, w), which holds what `held` says: the image bound, with the bytes to write into it. The
relocations are bound before the blocks are looked at (R125); where they cannot be bound, because a later entry or the list is malformed or a
value does not fit, the blocks are looked at unbound: R125 does not say which bytes count then (DESIGN CHOICE, log entry 71). -/
def checkImage (rd : Reader) (a h w : Nat) (held : Held := .nothing) : Loading (Image × Patches) := do
  let (i, fail) ← readImage rd a
  let bound := match fail, i.bind rd with
    | none, .ok b => b.1
    | _, _ => i
  refuseFirst bound.blocksFail.toList
  match fail with
  | some x => .error x
  | none => pure ()
  let rs ← i.relocs
  require (i.h = h && i.w = w) { code := .cfgShape }
  refuseFirst (i.rangeFail rs).toList
  let (i, ps) ← i.applyAll rd [] rs
  refuseFirst (i.elementStops ++ i.routeStops ++ i.islandStops ++ i.rotStops)
  refuseFirst (i.trackStops ++ i.edgeStops ++ i.loopStops)
  refuseFirst i.formatStops
  refuseFirst i.bankStops
  refuseFirst (i.spaceStops held)
  refuseFirst i.depthStops
  pure (i, ps)

/-- Does a plane hold what needs tile slots (14 R296)? -/
def Plane.tiled (p : Plane) : Bool :=
  (p.recs.toList.any fun w => fldN w 58 6 ≠ 0) || p.blocks.toList.any fun b => (b.map (·.tiled)).getD false
/-- What stands in an FE's local memory beside what the planes listed hold: its bank, its tile slots, its delay buffer (R124). -/
def State.localHeld (s : State) (f : FeId) (but : List Nat) : Nat × Bool × Nat :=
  let x := s.fe f
  let here := (s.die f.die).res.filter fun p => p.2.pages.contains f.page
  let edges := here.flatMap fun p => p.2.edges.filter fun e => decide (e.src = f ∨ e.dst = f) && !but.contains e.plane
  let rots := here.flatMap fun p => p.2.rots.filter fun q => decide (q.seam = f) && !but.contains q.plane
  ((x.bank.map (·.n)).getD 0,
   ((List.range 6).any fun p => !but.contains p && (vget x.planes p).tiled) || edges.any fun e => bitOf e.pdecl 0,
   rots.foldl (fun n q => n + (q.depth - q.latency) * q.width * 64) 0)
/-- The same of a pitch, by pitch index. -/
def State.pitchHeld (s : State) (r : ResId) (x : Residency) : Held := fun but i => s.localHeld (feOfIndex r x i) but

/-- An urgent image may declare only blocks, routing, islands, edges and its control section, and no instruction of the sampling unit
(18 R376; 16 R331). -/
def Image.urgentBad (i : Image) : Bool :=
  i.urgent && (!i.rots.isEmpty || !i.banks.isEmpty || (i.edges.any fun e => bitOf e.pdecl 0) || i.fes.any fun f =>
    i.tiled f || i.planes.any fun p => (i.blocks f p).any fun b => b.2.slots.any fun s =>
      decide (0x63 ≤ wordOp s.2 ∧ wordOp s.2 ≤ 0x67))

/-- Does a control word write a GTOL register (18 R376)? -/
def writesGtol (w : BitVec 32) : Bool := match decodeControl w with
  | .ok (.mts _ n) => decide (0x20 ≤ n.toNat ∧ n.toNat ≤ 0x27)
  | _ => false

/-- Write the bound values of the control and data sections to memory: each byte at its home (R439). -/
def State.patch (s : State) (die : Nat) (asid : BitVec 16) (ps : Patches) : State :=
  ps.foldl (fun s p => (p.2.zipIdx).foldl (fun s b => match s.translate die asid (p.1 + b.2) with
    | .error _ => s
    | .ok l => if l.p then s.peerSend l.peer (.write l.peer l.pa 1 (lineOf [b.1]))
               else (s.homeStore l.pa l.t [b.1]).ownLine (l.pa / 64) asid) s) s

/-- The record of a refusal as a fabric delivery (18 Table 18-3). -/
def loadRec (s : State) (r : ResId) (t : ThreadId) (a : Nat) (x : LoadStop) : Rec8 :=
  rec8 [wordN (codeNum x.code + 2 ^ 16), wordN a, wordN x.w2, wordN x.w3, wordN x.w4, wordN x.w5, wordN x.w6,
    originWord t.die t.page r.idx (s.res r).asid 0 0]

end Sys2Proof.Machine
end

