-- ==== Sys2Proof/Machine/CtlMem.lean ====
section
/-! DEFINITION. Loads, stores, atomics and fences of a control thread (13 R289-R291, R440; 17 R358). -/

namespace Sys2Proof.Machine

/-- Bytes of a CM size code (04 R81): s8, z8, s16, z16, s32, z32, 64. -/
def sizeBytes (z : BitVec 3) : Nat := 2 ^ (z.toNat / 2)
/-- Is a CM size code signed? -/
def sizeSigned (z : BitVec 3) : Bool := z.toNat % 2 = 0 && z.toNat < 6
/-- `w` bytes extended to 64 bits (R289). -/
def extend (w : Nat) (signed : Bool) (v : Nat) : Word :=
  if signed && decide (2 ^ (8 * w - 1) ≤ v) then BitVec.ofInt 64 ((v : Int) - 2 ^ (8 * w)) else wordN v

/-- POISON comes before PEER_GONE in the order of R181. -/
def State.poisonFirst (s : State) (p : Piece) : Bool :=
  match p.target with
  | .scratch _ _ => false
  | .glob pa l va => !l.p && s.poisoned (pa / 64) && (s.gone l va).isSome

/-- An acquire: the thread's fetch sees the stores that other agents made before a fence of theirs (09 R178). -/
def State.acquire (s : State) (t : ThreadId) : State := s.modThr t fun x => { x with fetched := [], acquiredAt := s.tick }

/-- What a new access of a piece meets at a peer that is DOWN or a lost port (12 R270, R271). -/
def State.goneAt (s : State) (p : Piece) : Option Stop :=
  match p.target with
  | .scratch _ _ => none
  | .glob _ l va => s.gone l va

/-- The line a piece lies on, by name. -/
def Piece.lineKey (p : Piece) : Nat × Nat := targetByte p.target 0

/-- A load of `w` bytes at `ea` into g[d]. A plain load takes bytes from the thread's store buffer; an acquire first
lets the buffered stores to its line perform (R289, R290). -/
def State.ctlLoad (s : State) (d : BitVec 5) (ea : Word) (w : Nat) (signed acq : Bool) : Ctl :=
  if ea.toNat % w ≠ 0 then trapWith s .misaligned ea
  else match s.resolve s.curAgent ea.toNat w .r with
    | .error x => .trap s x
    | .ok ps => match ps with
      | [] => .retire s
      | p :: _ =>
        let t := s.curThread
        let s := if acq then s.drainLine t p.lineKey else s
        if acq && s.cur.sbuf.any fun b => (targetByte b.target 0).2 / 64 = p.lineKey.2 / 64 then .wait s
        else
          let own := (List.range w).map fun i => s.cur.buffered p.target i
          let back := s.returns.any fun r => decide (r.1 = .thread t)
          let done (s : State) (bs : List Byte) : Ctl :=
            let s := (s.tookReturns (.thread t)).wr d (extend w signed (leNat bs))
            .retire (if acq || back then s.acquire t else s)
          if s.poisonFirst p then trapWith s .poison ea
          else match s.goneAt p with
          | some x => .trap s x
          | none =>
          if !acq && own.all Option.isSome then done s (own.map fun o => o.getD 0)
          else match s.loadPiece s.curAgent p .load with
            | (.stop x, s') => .trap s' x
            | (.wait, s') => .wait s'
            | (.line l q, s') =>
              if q then trapWith s' .poison ea
              else done s' ((p.bytes l).zip own |>.map fun x => x.2.getD x.1)

/-- A store of `w` bytes at `ea`: translated and checked at issue, performed later from the store buffer (R289,
R440). -/
def State.ctlStore (s : State) (ea : Word) (w : Nat) (v : Word) : Ctl :=
  if ea.toNat % w ≠ 0 then trapWith s .misaligned ea
  else match s.resolve s.curAgent ea.toNat w .w with
    | .error x => .trap s x
    | .ok ps => match ps with
      | [] => .retire s
      | p :: _ =>
        .retire (s.modCur fun x => { x with sbuf := x.sbuf ++ [{ target := p.target, len := w, data := v, va := ea, pc := x.pc, word := x.word }] })

/-- LD (R289). -/
def execLd (d a : BitVec 5) (z : BitVec 3) (o : BitVec 13) (s : State) : Out :=
  .next (s.plain fun s => s.ctlLoad d (s.rd a + o.signExtend 64) (sizeBytes z) (sizeSigned z) false)

/-- ST (R289, R440). -/
def execSt (d a : BitVec 5) (z : BitVec 3) (o : BitVec 13) (s : State) : Out :=
  .next (s.plain fun s => s.ctlStore (s.rd a + o.signExtend 64) (sizeBytes z) (s.rd d))

/-- An AMO of the control thread (R290): `z` gives the size and the sign, `r` the order. A release lets every buffered
store perform first; without it the stores to the same line must, and others may (17 R358 note 2). -/
def State.ctlAmo (s : State) (op : BitVec 3) (d a b : BitVec 5) (z r : BitVec 2) : Ctl :=
  let ea := s.rd a
  let w := if z.toNat < 2 then 4 else 8
  let signed := z.toNat % 2 = 0
  if ea.toNat % w ≠ 0 then trapWith s .misaligned ea
  else match s.resolve s.curAgent ea.toNat w .w with
    | .error x => .trap s x
    | .ok ps => match ps with
      | [] => .retire s
      | p :: _ =>
        let t := s.curThread
        let all := bitOf r 1 || s.cur.sbuf.isEmpty || Config.choice s.tick
        let s := if all then s.drain t else s.drainLine t p.lineKey
        if (if all then !s.drained t else s.cur.sbuf.any fun x => (targetByte x.target 0).2 / 64 = p.lineKey.2 / 64) then
          .wait s
        else if s.poisonFirst p then trapWith s .poison ea
        else
          let off := ea.toNat % 64
          let back := s.returns.any fun r => decide (r.1 = .thread t)
          let acc : Acc := .amo op w 1 off signed ((s.rd b).zeroExtend 512) ((s.rd d).zeroExtend 512)
          match s.amoPiece s.curAgent p acc with
          | (.stop x, s') => .trap s' x
          | (.wait, s') => .wait s'
          | (.line l q, s') =>
            if q then trapWith s' .poison ea
            else
              let old := extend w (signed && w = 4) (leNat (p.bytes l))
              let s' := (s'.tookReturns (.thread t)).wr d old
              .retire (if bitOf r 0 || back then s'.acquire t else s')

/-- AMO.ADD (R290). -/
def execAmoAdd (d a b : BitVec 5) (z r : BitVec 2) (s : State) : Out := .next (s.plain fun s => s.ctlAmo 0 d a b z r)
/-- AMO.SWAP (R290). -/
def execAmoSwap (d a b : BitVec 5) (z r : BitVec 2) (s : State) : Out := .next (s.plain fun s => s.ctlAmo 1 d a b z r)
/-- AMO.CAS (R290). -/
def execAmoCas (d a b : BitVec 5) (z r : BitVec 2) (s : State) : Out := .next (s.plain fun s => s.ctlAmo 2 d a b z r)
/-- AMO.MIN (R290). -/
def execAmoMin (d a b : BitVec 5) (z r : BitVec 2) (s : State) : Out := .next (s.plain fun s => s.ctlAmo 3 d a b z r)
/-- AMO.MAX (R290). -/
def execAmoMax (d a b : BitVec 5) (z r : BitVec 2) (s : State) : Out := .next (s.plain fun s => s.ctlAmo 4 d a b z r)
/-- AMO.AND (R290). -/
def execAmoAnd (d a b : BitVec 5) (z r : BitVec 2) (s : State) : Out := .next (s.plain fun s => s.ctlAmo 5 d a b z r)
/-- AMO.OR (R290). -/
def execAmoOr (d a b : BitVec 5) (z r : BitVec 2) (s : State) : Out := .next (s.plain fun s => s.ctlAmo 6 d a b z r)
/-- AMO.XOR (R290). -/
def execAmoXor (d a b : BitVec 5) (z r : BitVec 2) (s : State) : Out := .next (s.plain fun s => s.ctlAmo 7 d a b z r)

/-- LD.acq (R290): size 0 `.s32`, 1 `.z32`, 2 `.64`. -/
def execLdAcq (d a : BitVec 5) (z : BitVec 2) (s : State) : Out :=
  .next (s.plain fun s => s.ctlLoad d (s.rd a) (if z.toNat < 2 then 4 else 8) (z = 0) true)

/-- ST.rel (R290): it performs from the store buffer, behind every earlier store. -/
def execStRel (a b : BitVec 5) (z : BitVec 2) (s : State) : Out :=
  .next (s.plain fun s => s.ctlStore (s.rd a) (if z.toNat < 2 then 4 else 8) (s.rd b))

/-- No command of a thread is queued or running in an engine. -/
def EngineQueue.idle (q : EngineQueue) : Bool := q.waiting.isEmpty && q.running.isEmpty
/-- Every command queued has completed, be its push still owed (R291). -/
def EngineQueue.settled (q : EngineQueue) : Bool := q.waiting.isEmpty && q.running.all (·.done)
def Thread.enginesSettled (x : Thread) : Bool := x.se.settled && x.tf.settled && x.ce.settled
/-- A multicast binding is queued, or runs and has not done its forwarding and its stores. -/
def Thread.mcBusy (x : Thread) : Bool := (x.se.waiting ++ x.se.running).any fun c => decide (c.op = .strmMc) && !c.done

/-- Does a `FENCE` wait for its thread's stores? At ELEM scope the thread alone observes, and it sees its own (17 R348, R358). -/
def State.storesDue (s : State) (c : BitVec 3) (p : BitVec 4) : Bool :=
  bitOf p 1 && c ≠ 0 && !(s.drained s.curThread && s.performedAt (.thread s.curThread) c.toNat)

/-- A `FENCE` with ST in its predecessor set, to the thread's fetch and to the fetch of others (09 R178). -/
def State.codeFence (s : State) (t : ThreadId) : State :=
  (s.fenceCode (.thread t)).modThr t fun x => { x with
    fetched := [], fencedAt := s.tick, sbuf := x.sbuf.map fun b => { b with fenced := true } }

/-- FENCE (R291): the thread waits until every predecessor condition holds at the scope. With ST in its predecessor set it lets
the buffered stores perform, and the thread fetches anew (09 R178). -/
def execFence (c : BitVec 3) (_s p : BitVec 4) (s : State) : Out :=
  .next (s.plain fun s =>
    let t := s.curThread
    let s := if bitOf p 1 && c ≠ 0 then s.drain t else s
    if s.storesDue c p || (bitOf p 2 && !s.cur.enginesSettled) || (bitOf p 3 && s.cur.mcBusy) then .wait s
    else .retire (if bitOf p 1 then s.codeFence t else s))

end Sys2Proof.Machine
end

