-- ==== Sys2Proof/Machine/System.lean ====
section
/-! DEFINITION. Special registers, traps and returns, HALT, BRK, MARK, and the instructions that wait on tokens, queues
and phases (08 R167-R173; 09 R176, R184, R185, R192-R197; 18 R363). -/

namespace Sys2Proof.Machine

/-! ### Special registers -/

/-- Does the thread have a pitch, and no task's view of one (R176)? -/
def State.pitchOf (s : State) (t : ThreadId) : Option ResId :=
  let x := s.thr t
  if x.role.isTask then none else x.role.res

/-- Token-FIFO counts, 5 bits each (Table 9-3). -/
def tokCnt (x : Thread) : Nat := ((List.range 12).map fun i => vget x.fifo i * 2 ^ (5 * i)).foldl (· + ·) 0

/-- The value of special register `n`; none for a number Table 9-2 does not assign. -/
def State.special (s : State) (t : ThreadId) (n : Nat) : Option Word :=
  let x := s.thr t
  let y := (s.pitchOf t).map s.res
  let ofPitch (f : Residency → Nat) : Option Word := some (wordN ((y.map f).getD 0))
  if n = 0x000 then some (wordN t.tid)
  else if n = 0x001 then ofPitch fun y => y.h + y.w * 8 + y.band0 * 2 ^ 7 + y.group0 * 2 ^ 10 +
    (((s.pitchOf t).map (·.idx)).getD 0) * 2 ^ 13
  else if n = 0x002 then some (wordN t.die)
  else if n = 0x003 then some (wordN t.page)
  else if n = 0x004 then some (wordN s.cyc)
  else if n = 0x005 then some (x.asid.zeroExtend 64)
  else if n = 0x010 then some x.tvec
  else if n = 0x011 then some x.tpc
  else if n = 0x012 then some (wordN ((if x.intrap then 1 else 0) + (if x.held.isEmpty then 0 else 2) +
    (if s.front.dbg.attached.contains x.asid then 4 else 0)))
  else if 0x018 ≤ n ∧ n ≤ 0x01F then some (vget x.trec (n - 0x018))
  else if 0x020 ≤ n ∧ n ≤ 0x027 then ofPitch fun y => (vget y.gtol (n - 0x020)).toNat
  else if n = 0x030 then ofPitch fun y => y.classLeave + y.explicitLeave
  else if n = 0x031 then ofPitch fun y => y.ringAt + y.plane * 8 + (if y.ringRun then 64 else 0)
  else if n = 0x032 then some (wordN (tokCnt x))
  else none

/-- A register that `MTS` may write (Table 9-2). -/
def specialRw (n : Nat) : Bool := n = 0x010 || n = 0x011 || n = 0x012 || (0x018 ≤ n && n ≤ 0x01F) || (0x020 ≤ n && n ≤ 0x027)

/-- MFS (R192). -/
def execMfs (d : BitVec 5) (i : BitVec 16) (s : State) : Out :=
  .next (s.plain fun s => match s.special s.curThread i.toNat with
    | none => trapWith s .illegal
    | some v => .retire (s.wr d v))

/-- MTS (R192, R176): reserved and read-only fields are ignored. -/
def execMts (a : BitVec 5) (i : BitVec 16) (s : State) : Out :=
  .next (s.plain fun s =>
    let n := i.toNat
    let v := s.rd a
    if !specialRw n then trapWith s .illegal
    else if n = 0x010 then .retire (s.modCur fun x => { x with tvec := codeAddr v })
    else if n = 0x011 then .retire (s.modCur fun x => { x with tpc := codeAddr v })
    else if n = 0x012 then .retire (s.modCur fun x => { x with intrap := bitOf v 0 })
    else if n ≤ 0x01F then .retire (s.modCur fun x => { x with trec := vset x.trec (n - 0x018) v })
    else if s.cur.role.isTask then trapWith s .access
    else match s.curRes with
      | none => .retire s
      | some r => .retire (s.modRes r fun y => { y with gtol := vset y.gtol (n - 0x020) (fld v 0 32) }))

/-! ### Traps and returns -/

/-- TRAP (R193). -/
def execTrap (i : BitVec 16) (s : State) : Out :=
  .next (s.plain fun s => .trapPast s { code := .user, w1 := i.zeroExtend 64 })

/-- The answer of a delivery that froze the pitch (18 R363): 00 thaws by one, 01 rolls a SNAP residency back, anything
else ends the residency with TREC0.CODE + 0x100. -/
def State.answerFreeze (s : State) (r : ResId) (act code : Nat) : State :=
  if act = 1 && (s.res r).snap then s.rollback r
  else if act = 0 then s.thaw r
  else s.endRes r (code + 0x100)

/-- Return from a trap (R194, 18 R363). -/
def State.returnTrap (s : State) (t : ThreadId) : State :=
  let x := s.thr t
  let act := fldN (vget x.trec 0) 17 2
  let code := fldN (vget x.trec 0) 0 16
  let s := match x.role.res with
    | none => s
    | some r => if x.handlingFreeze then s.answerFreeze r act code else s
  s.modThr t fun x => { x with intrap := false, pc := x.tpc, handlingFreeze := false, status := .ready }

/-- RTE (R194, 18 R363): outside a trap it traps ILLEGAL. -/
def execRte (s : State) : Out :=
  .next (s.plain fun s => if s.cur.intrap then .ended (s.returnTrap s.curThread) else trapWith s .illegal)

/-- A trap of a fetched word that encodes no instruction (04 R91). -/
def execIllegal (w : BitVec 32) (s : State) : Out :=
  .next ((s.modCur fun x => { x with word := w }).plain fun s => trapWith s .illegal)

/-- Does a fetch from an address that gives PEER_GONE fail at a lost pool port (12 R271)? -/
def State.fetchPort (s : State) (va : Word) : Bool := match s.translate s.curThread.die s.cur.asid va.toNat with
  | .ok l => !l.p
  | .error _ => false
/-- A fetch that fails (R177): TPC and TREC1 name the PC, WORD is 0; behind a lost pool port bit 63 of TREC2 is set (12 R271). -/
def execFetchFault (code : Code) (w1 : BitVec 64) (s : State) : Out :=
  .next ((s.modCur fun x => { x with word := 0 }).plain fun s =>
    .trap s { code, w1, port := decide (code = .peerGone) && s.fetchPort w1 })

/-- ASYNC_DELIVERY (R182). -/
def execAsyncDelivery (t : ThreadId) (s : State) : Out := .next (s.takeDelivery t)

/-! ### Ending a thread -/

/-- The DONE increment of a task (08 R169): an AMO.ADD of 1; false while it waits on a cell. -/
def State.doneIncrement (s : State) (t : ThreadId) (done : Word) : Bool × State :=
  if done = 0 then (true, s)
  else match s.resolve (s.agent t) done.toNat 8 .w with
    | .error _ => (true, s)
    | .ok ps => match ps with
      | [] => (true, s)
      | p :: _ => match s.amoPiece (s.agent t) p (.amo 0 8 1 (done.toNat % 64) false 1 0) with
        | (.wait, s') => (false, s')
        | (.line _ _, s') => (true, s'.tookReturns (.thread t))
        | (.stop _, s') => (true, s')

/-- Deliveries that a thread still holds as it halts inside a handler find no thread: a control thread's end its residency, and a
task's, of stores that faulted, are reported as R180 reports one (R182). -/
def State.heldAtHalt (s : State) (t : ThreadId) (r : Option ResId) (ds : List Delivery) : State :=
  match r with
  | none => ds.foldl (fun s d => s.frqDue t.die (vset d.words 0 (wordN (fldN (vget d.words 0) 0 17))) 0 none) s
  | some r => ds.foldl (fun s d => if (s.res r).halted then s.deliver r { d with freezes := false }
      else (s.frqDue t.die (vset d.words 0 (wordN (fldN (vget d.words 0) 0 17))) 0 none).modRes r fun y =>
        { y with status := if y.freed then y.status else fldN (vget d.words 0) 0 16 + 0x100 }) s

/-- What the end of a thread means for what it ran (R195, 08 R169, 15 R322). -/
def State.halted (s : State) (t : ThreadId) : Bool × State :=
  match (s.thr t).role with
  | .none => (true, s.modThr t Thread.scrubbed)
  | .control r => (true, ((s.modThr t Thread.scrubbed).modRes r fun y =>
      { y with halted := true, thread := Option.none }).heldAtHalt t (some r) (s.thr t).held)
  | .urgent r => (true, ((s.modThr t Thread.scrubbed).modRes r fun y =>
      { y with halted := true, thread := Option.none }).heldAtHalt t (some r) (s.thr t).held)
  | .task r done => match s.doneIncrement t done with
    | (false, s') => (false, s')
    | (true, s') =>
      let s' := (s'.modThr t Thread.scrubbed).heldAtHalt t r (s.thr t).held
      (true, match r with
        | Option.none => s'
        | some r => s'.modRes r fun y => { y with tasks := y.tasks - 1 })
  | .evaluator c done => match s.doneIncrement t done with
    | (false, s') => (false, s')
    | (true, s') => (true, ((s'.growerEnds t c (codeNum .sporeFailed)).modThr t Thread.scrubbed).heldAtHalt t Option.none (s.thr t).held)

/-- HALT (R195): waits for the store buffer and every engine command of the thread. A store that faults as the buffer drains is
delivered, and the `HALT` abandoned (R182, R440). -/
def execHalt (s : State) : Out :=
  .next (s.plain fun s =>
    let t := s.curThread
    let n := s.cur.held.length
    let s := s.drain t
    if !s.drained t || !s.cur.enginesSettled || (n < s.cur.held.length && !s.cur.intrap) then .wait s
    else match s.halted t with
      | (true, s') => .ended s'
      | (false, s') => .wait s')

/-- BRK (R196, 19 R383): with a debugger attached the device freezes and the thread goes on afterwards. -/
def execBrk (i : BitVec 16) (s : State) : Out :=
  .next (s.plain fun s =>
    let x := s.cur
    if s.front.dbg.attached.contains x.asid then
      let s := s.startFreeze s.cyc (some (.thread s.curThread))
      .retire { s with front := { s.front with dbg := { s.front.dbg with brk := some (s.curThread, x.pc, i) } } }
    else trapWith s .brk (i.zeroExtend 64))

/-- MARK (R197): waits for an earlier cut, then starts one. -/
def execMark (i : BitVec 16) (s : State) : Out :=
  .next (s.plain fun s =>
    match s.cur.role with
    | .control r =>
      if (s.res r).cut.isSome then .wait s else .retire (s.startCut r (i.zeroExtend 32) false 0)
    | .none => trapWith s .access
    | .task _ _ => trapWith s .access
    | .evaluator _ _ => trapWith s .access
    | .urgent _ => trapWith s .access)

/-! ### Tokens and phases -/

/-- TOKW (R184). -/
def execTokw (u p : BitVec 3) (s : State) : Out := .next (s.control u p fun s => .retire s)

/-- Is an engine command a stream binding (13 R272)? -/
def EngOp.binds : EngOp → Bool
  | .strmIn | .strmOut | .strmMc | .strmResume => true
  | .spat | .strmStop | .tfetch | .trel | .copy | .pref | .disc => false

/-- Has a port's actor consumed the EOS that a `BAR` waits for? -/
def State.eosTaken (s : State) (e : FeId × Nat × Nat) : Bool :=
  decide (e.2.2 ≤ (vget (vget (s.fe e.1).planes (e.2.1 / 8)).inp (e.2.1 % 8)).eosOut)

/-- An input binding has delivered its EOS into a port, the port's `n`-th: the `BAR`s that wait for the binding wait for the
port's actor to consume it, and so does one that issues later (R185). -/
def State.noteEos (s : State) (r : ResId) (owner : ThreadId) (seq : Nat) (f : FeId) (plane port n : Nat) : State :=
  let e := (f, 8 * plane + port, n)
  let s : State := { s with threads := s.threads.map fun (p : ThreadId × Thread) =>
    (p.1, { p.2 with bar := p.2.bar.map fun b => if b.cmds.contains (owner, seq) then { b with eos := b.eos ++ [e] } else b }) }
  s.modRes r fun x => { x with eosDue := (x.eosDue.filter fun y => !s.eosTaken y) ++ [e] }

/-- What a `BAR` of a residency waits for (R185): the bindings its threads have queued, the EOS tokens those that are done have
delivered, and the accesses that its planes' ports have reached. -/
def State.barSet (s : State) (r : ResId) : BarWait :=
  let x := s.res r
  { cmds := s.threads.flatMap fun p => ((p.2.se.waiting ++ p.2.se.running).filter fun c => c.op.binds && !c.done && decide (c.res = some r)).map
      fun c => (p.1, c.seq)
    eos := x.eosDue.filter fun e => !s.eosTaken e
    ops := (s.fes.filter fun p => decide (p.1.die = r.die) && x.pages.contains p.1.page).flatMap fun p =>
      (p.2.port.filter fun o => x.usesPlane o.plane).map fun o => (p.1, o.id) }

/-- Is everything a `BAR` waits for done? -/
def State.barDone (s : State) (b : BarWait) : Bool :=
  (b.cmds.all fun c => !((s.thr c.1).se.waiting ++ (s.thr c.1).se.running).any fun e => decide (e.seq = c.2) && !e.done) &&
  (b.eos.all fun e => s.eosTaken e) &&
  b.ops.all fun o => !(s.fe o.1).port.any fun x => decide (x.id = o.2)

/-- BAR (R185, 17 R352): the wait is noted at issue; its end is a boundary of the pitch, and comes once every store that the
pitch has made by then has performed. -/
def execBar (u p : BitVec 3) (s : State) : Out :=
  .next (s.control u p fun s =>
    match s.curRes with
    | none => .retire s
    | some r =>
      let b := s.cur.bar.getD (s.barSet r)
      let s := s.modCur fun x => { x with bar := some b }
      if !s.barDone b then .wait s
      else
        let s := s.drainPitch r
        if s.pitchStored r then .retire ((s.boundary r 0 s.cyc s.cyc).phaseHeads r) else .wait s)

/-! ### WAITQ -/

/-- One read of a queue record's first three words. Each test of `WAITQ` reads them again (08 R172). -/
def State.queueRead (s : State) (a : Nat) (k : State → Nat → Nat → Nat → Ctl) : Ctl :=
  s.threadRead a 12 fun s bs => k s (leNat (bs.take 4)) (leNat ((bs.drop 4).take 4)) (leNat ((bs.drop 8).take 4))

/-- The cycle up to which time counts for what waits: frozen cycles do not (08 R172; 19 R384). -/
def State.countedCyc (s : State) : Nat := if s.front.dbg.frozen then s.front.dbg.frozenFrom else s.cyc
/-- Has a thread's `WAITQ` waited for `limit` cycles, if there is a limit? -/
def State.waitqOut (s : State) (x : Thread) (limit : Nat) : Bool :=
  decide (limit ≠ 0) && decide (limit ≤ s.countedCyc - x.waitFrom.getD s.cyc)
/-- WAITQ's test, and its limit (08 R172, R173). -/
def State.waitqTest (s : State) (a b : BitVec 5) (c : BitVec 1) : Ctl :=
  let ra := s.rd a
  let limit := (s.rd b).toNat
  if fldN ra 0 6 ≠ 0 then trapWith s .misaligned ra
  else if fldN (s.rd b) 48 16 ≠ 0 then trapWith s .argRange
  else s.queueRead ra.toNat fun s head tail size =>
    let used := (tail + 2 ^ 32 - head) % 2 ^ 32
    if size = 0 || decide (2 ^ 31 < size) then trapWith s .argRange
    else if (c = 0 && decide (tail ≠ head)) || (c = 1 && decide (used < size)) then .retire (s.acquire s.curThread)
    else if s.waitqOut s.cur limit then
      .trap s { code := .qwaitTimeout, w1 := ra, w2 := wordN (head + tail * 2 ^ 32)
                w3 := wordN (c.toNat + limit * 2 ^ 16) }
    else .wait s

/-- WAITQ (08 R172). -/
def execWaitq (a b : BitVec 5) (c : BitVec 1) (s : State) : Out := .next (s.plain fun s => s.waitqTest a b c)

/-- A thread stalled in a WAITQ tests again, as its next instruction; in a step that is the step's (19 R387). -/
def State.waitqAgain (s : State) (t : ThreadId) (timedOut : Bool) : State :=
  let s := { s with curThread := t }
  let x := s.thr t
  if x.status = .stalled && x.paused.isNone && !s.stoppedThread t && x.ending.isNone && (x.held.isEmpty || !s.mayDeliver t) then
    match decodeControl x.word with
    | .ok (.waitq a b c) =>
      if timedOut && !s.waitqOut x (s.rd b).toNat then s
      else s.noteStep.plain fun s => s.waitqTest a b c
    | _ => s
  else s

/-- WAITQ_WAKE (08 R172). -/
def execWaitqWake (t : ThreadId) (s : State) : Out := .next (s.waitqAgain t false)
/-- WAITQ_TIMEOUT (08 R172): at the limit the test is made once more, and then the trap is taken. -/
def execWaitqTimeout (t : ThreadId) (s : State) : Out := .next (s.waitqAgain t true)

/-! ### SPAWN -/

/-- The core that a named address sends a task to (08 R168), or what the instruction traps with. -/
def State.spawnTarget (s : State) (a : Word) : Except Stop (Nat × Nat) :=
  let ag := s.curAgent
  let stop (c : Code) : Except Stop (Nat × Nat) := .error { code := c, w1 := a }
  match windowOf a.toNat with
  | none => stop .badWindow
  | some .loc => stop .badWindow
  | some .pitch => match ag.res with
    | none => stop .access
    | some r =>
      let x := s.res r
      let i := (a.toNat - pitchBase) / 0x20000
      if 24 * x.h * x.w ≤ i then stop .access else .ok (r.die, (feOfIndex r x i).page)
  | some .glob => match s.translate ag.die ag.asid a.toNat with
    | .error c => stop c
    | .ok l => if l.p then stop .access
               else .ok ((s.homeSlice l.pa).1, slicePage (s.homeSlice l.pa).2)

/-- Is an address in no window, or LOCAL? -/
def noTarget (a : Word) : Bool := windowOf a.toNat = none || windowOf a.toNat = some .loc

/-- SPAWN's checks in the order of R170 and its packet, or its trap: R168's ACCESS for g[a] comes before what the packet's read
meets. -/
def State.spawnRead (s : State) (ra rb : Word) (k : State → Line → Nat × Nat → Ctl) : Ctl :=
  if s.curThread.tid = 0 then trapWith s .access
  else if fldN rb 0 6 ≠ 0 then trapWith s .misaligned rb
  else if noTarget ra then trapWith s .badWindow ra
  else if noTarget rb then trapWith s .badWindow rb
  else match s.resolve s.curAgent rb.toNat 64 .r, s.spawnTarget ra with
    | .error x, .error y => .trap s (if x.code = .page then x else if y.code = .page then y else x)
    | .error x, .ok _ => .trap s x
    | .ok _, .error y => .trap s y
    | .ok _, .ok core => s.threadRead rb.toNat 64 fun s bs =>
      let pkt := lineOf bs
      if fldN pkt 0 2 ≠ 0 || fldN pkt 448 3 ≠ 0 then trapWith s .argRange else k s pkt core

/-- Queue a spawned task's packet at a core, and count the task to its residency (08 R169). -/
def State.spawnAt (s : State) (named : Word) (pkt : Line) (die page : Nat) : State :=
  let p : Packet :=
    { entry := lineWord pkt 0, named, args := Vector.ofFn fun (i : Fin 6) => lineWord pkt (i.val + 1)
      done := lineWord pkt 7, asid := s.cur.asid, owner := s.curRes, cell := none }
  let s' := s.enqueueTask die page p
  match s.curRes with
  | none => s'
  | some r => s'.modRes r fun y => { y with tasks := y.tasks + 1 }

/-- A spawned task's packet is queued once its core has room (08 R170). -/
def State.spawnQueue (s : State) (named : Word) (pkt : Line) (core : Nat × Nat) : Ctl :=
  if decide (32 ≤ (mapGet [] (s.die core.1).taskq core.2).length) then .wait s else .retire (s.spawnAt named pkt core.1 core.2)
/-- SPAWN (08 R170): a release, so the buffered stores perform first. Its checks are made and its packet copied once; then it
waits for room in the queue of the core it has found. -/
def execSpawn (a b : BitVec 5) (s : State) : Out :=
  .next (s.plain fun s =>
    s.afterStores fun s => match s.cur.copied with
      | some bs => s.spawnQueue (s.rd a) (lineOf (bs.take 64)) ((bs.getD 64 0).toNat, (bs.getD 65 0).toNat)
      | none => s.spawnRead (s.rd a) (s.rd b) fun s pkt core =>
        (s.modCur fun x => { x with copied := some (lineBytes pkt ++ [BitVec.ofNat 8 core.1, BitVec.ofNat 8 core.2]) }).spawnQueue
          (s.rd a) pkt core)

end Sys2Proof.Machine
end

