-- ==== Sys2Proof/Machine/Engines.lean ====
section
/-! DEFINITION. The engines of a column core: how commands queue, start, fault and complete, and the commands that bind
no stream (13 R272-R277, R283-R288; 12 R259, R267, R269). -/

namespace Sys2Proof.Machine

/-! ### Queueing (R272) -/

/-- Queue a command of the current thread: its pop, from the FIFO into its engine, is taken at issue (09 R183), its push is
made when it completes. -/
def State.queueCmd (s : State) (op : EngOp) (u : Unit3) (a b q : BitVec 5) (pat : BitVec 4) (push pop : BitVec 3) :
    State :=
  s.control 0 pop (u := unitNum u) fun s =>
    let x := s.cur
    if 16 ≤ (unitQueue u x).waiting.length then .wait s
    else
      let c : EngineCmd :=
        { op, word := x.word, va := s.rd a, vb := s.rd b, vq := s.rd q, pat, push, seq := x.cmdSeq, asid := x.asid
          res := x.role.res, start := x.startSeq
          cell := match x.role with
            | .evaluator k _ => some k
            | .none => none
            | .control _ => none
            | .task _ _ => none
            | .urgent _ => none }
      .retire (s.modCur fun x => { modUnit u x fun y => { y with waiting := y.waiting ++ [c] } with cmdSeq := x.cmdSeq + 1 })

/-- SPAT (R277). -/
def execSpat (a : BitVec 5) (n : BitVec 4) (u p : BitVec 3) (s : State) : Out := .next (s.queueCmd .spat .se a 0 0 n u p)
/-- STRM.IN (R279). -/
def execStrmIn (a : BitVec 5) (n : BitVec 4) (u p : BitVec 3) (s : State) : Out := .next (s.queueCmd .strmIn .se a 0 0 n u p)
/-- STRM.OUT (R280). -/
def execStrmOut (a : BitVec 5) (n : BitVec 4) (u p : BitVec 3) (s : State) : Out := .next (s.queueCmd .strmOut .se a 0 0 n u p)
/-- STRM.MC (R281). -/
def execStrmMc (a b : BitVec 5) (n : BitVec 4) (u p : BitVec 3) (s : State) : Out := .next (s.queueCmd .strmMc .se a b 0 n u p)
/-- STRM.RESUME (R282). -/
def execStrmResume (a b : BitVec 5) (n : BitVec 4) (u p : BitVec 3) (s : State) : Out :=
  .next (s.queueCmd .strmResume .se a b 0 n u p)
/-- STRM.STOP (R283). -/
def execStrmStop (a : BitVec 5) (u p : BitVec 3) (s : State) : Out := .next (s.queueCmd .strmStop .se a 0 0 0 u p)
/-- TFETCH (R284). -/
def execTfetch (a b : BitVec 5) (u p : BitVec 3) (s : State) : Out := .next (s.queueCmd .tfetch .tf a b 0 0 u p)
/-- TREL (R285). -/
def execTrel (a : BitVec 5) (u p : BitVec 3) (s : State) : Out := .next (s.queueCmd .trel .tf a 0 0 0 u p)
/-- COPY (R286). -/
def execCopy (a b q : BitVec 5) (u p : BitVec 3) (s : State) : Out := .next (s.queueCmd .copy .ce a b q 0 u p)
/-- PREF (R287). -/
def execPref (a b : BitVec 5) (u p : BitVec 3) (s : State) : Out := .next (s.queueCmd .pref .ce a b 0 0 u p)
/-- DISC (R288). -/
def execDisc (a b : BitVec 5) (u p : BitVec 3) (s : State) : Out := .next (s.queueCmd .disc .ce a b 0 0 u p)

/-! ### Starting, faulting, completing (R272, R273) -/

/-- Commands that complete before the next of their queue starts. -/
def EngOp.blocks : EngOp → Bool
  | .spat | .strmStop | .trel | .pref | .disc => true
  | .strmIn | .strmOut | .strmMc | .strmResume | .tfetch | .copy => false

def State.modCmd (s : State) (t : ThreadId) (u : Unit3) (seq : Nat) (f : EngineCmd → EngineCmd) : State :=
  s.modThr t fun x => modUnit u x fun q => { q with running := q.running.map fun c => if c.seq = seq then f c else c }
/-- Take a command out of its queue. -/
def State.endCmd (s : State) (t : ThreadId) (u : Unit3) (seq : Nat) : State :=
  s.modThr t fun x => modUnit u x fun q =>
    { q with waiting := q.waiting.filter fun c => decide (c.seq ≠ seq), running := q.running.filter fun c => decide (c.seq ≠ seq) }

/-- The push of a complete command, made or owed (09 R183). -/
def State.cmdDone (s : State) (t : ThreadId) (u : Unit3) (c : EngineCmd) : State :=
  if c.push = 0 then s.endCmd t u c.seq
  else match (s.thr t).pushTok (fifoIdx (unitNum u) (c.push.toNat - 1)) with
    | some y => (s.modThr t fun _ => y).endCmd t u c.seq
    | none => s.modCmd t u c.seq fun c => { c with done := true, lines := [] }

def State.engAgent (s : State) (t : ThreadId) (u : Unit3) (c : EngineCmd) : Agent :=
  { who := .engine t u c.seq, asid := c.asid, die := t.die, res := c.res, since := c.since.getD s.cyc }

/-- The words of Table 13-1. -/
def engineRec (t : ThreadId) (u : Unit3) (c : EngineCmd) (x : Stop) : Rec8 :=
  let w2 := fldN c.word 26 6 + fldN c.word 21 5 * 2 ^ 6 + unitNum u * 2 ^ 11 + t.tid * 2 ^ 13 + t.page * 2 ^ 16
  rec8 [wordN (codeNum x.code + 2 ^ 16), x.w1, portMark (wordN w2) x.port, c.word.zeroExtend 64, c.va, c.vb, c.vq,
    originWord t.die t.page (originRes c.res) c.asid 0 t.tid]

/-- An engine fault (R273): no push, the record to the control thread, or the end of the evaluator that queued it. -/
def State.cmdFaults (s : State) (t : ThreadId) (u : Unit3) (c : EngineCmd) (x : Stop) : State :=
  let words := engineRec t u c x
  let s := (s.unparkWho (.engine t u c.seq)).endCmd t u c.seq
  match c.res with
  | some r => s.deliver r { words, freezes := true }
  | none =>
    let runs := match (s.thr t).role with
      | .evaluator _ _ => decide (c.start = (s.thr t).startSeq)
      | .none => false
      | .control _ => false
      | .task _ _ => false
      | .urgent _ => false
    if runs then s.endThread t words
    else
      let s := s.frqDue t.die words 0 none
      match c.cell with
      | some k => if s.tag k = 2 && growerIs (growerOf (s.line k)) t c.start then s.failGrowing k (codeNum x.code) else s
      | none => s

/-- May an engine act for a thread now (18 R375, 19 R384)? -/
def State.engineLive (s : State) (t : ThreadId) : Bool :=
  !s.front.dbg.frozen && !s.front.dbg.stopped.contains (.engine t) && (s.thr t).paused.isNone

/-- May the oldest waiting command of a queue start: nothing that blocks runs before it, and no command of thread 0 comes
first (R272, 18 R375)? -/
def EngineQueue.ready (q : EngineQueue) : Bool := !q.running.any fun c => c.op.blocks
def State.queueReady (s : State) (t : ThreadId) (u : Unit3) : Bool :=
  let first := unitQueue u (s.thr ⟨t.die, t.page, 0⟩)
  s.engineLive t && (unitQueue u (s.thr t)).ready &&
    (t.tid = 0 || first.waiting.isEmpty || !first.ready || (first.waiting.headD default).op.binds)

/-- A command waits on a cell; since when is noted while it is refused an entry (15 R326). -/
def State.cmdWaits (s : State) (t : ThreadId) (u : Unit3) (c : EngineCmd) : State :=
  let since := if (s.parkedOn (.engine t u c.seq)).isSome then none else some (c.since.getD s.cyc)
  s.modCmd t u c.seq fun c => { c with since }

/-! ### SPAT, TREL, PREF, DISC -/

/-- A malformed pattern descriptor (R274, Table 13-3). -/
def patBad (p : Line) : Bool :=
  let esz := fldN p 448 3
  let fmt := fldN p 451 4
  let mw := fldN p 456 4
  let ok := match esz with
    | 0 => fmt = 0 || fmt = 1 || fmt = 12
    | 1 => fmt = 2 || fmt = 3 || fmt = 8 || fmt = 9
    | 2 => fmt = 4 || fmt = 5 || fmt = 10
    | 3 => fmt = 6 || fmt = 7 || fmt = 11
    | 4 => fmt = 0
    | _ => false
  fldN p 460 4 ≠ 0 || fldN p 471 41 ≠ 0 || !ok || decide (64 < fldN p 464 7) ||
    (if fmt = 12 then decide (mw < 2 ∨ 8 < mw) || patCnt p 3 ≠ 1 else mw ≠ 0)

/-- SPAT, as it runs (R277). -/
def State.runSpat (s : State) (t : ThreadId) (c : EngineCmd) : State :=
  if fldN c.va 0 6 ≠ 0 then s.cmdFaults t .se c { code := .misaligned, w1 := c.va }
  else match s.recordRead (s.engAgent t .se c) c.va.toNat 64 with
    | (.error x, s) => s.cmdFaults t .se c x
    | (.ok none, s) => s
    | (.ok (some bs), s) =>
      if patBad (lineOf bs) then s.cmdFaults t .se c { code := .argRange }
      else (s.modThr t fun x => { x with pat := vset x.pat c.pat.toNat (lineOf bs) }).cmdDone t .se c

/-- TREL, as it runs (R285): a header that gives no length ends it with ARG_RANGE, and so does one whose line is poisoned, for which its
Faults list has no POISON (DESIGN CHOICE, log entry 77). -/
def State.runTrel (s : State) (t : ThreadId) (c : EngineCmd) : State :=
  let a := c.va.toNat
  let ag := s.engAgent t .tf c
  if a % 64 ≠ 0 then s.cmdFaults t .tf c { code := .misaligned, w1 := c.va }
  else if windowOf a ≠ some .glob then s.cmdFaults t .tf c { code := .badWindow, w1 := c.va }
  else match s.recordRead ag a 64 with
    | (.error x, s) => s.cmdFaults t .tf c (if x.code = .poison then { code := .argRange } else x)
    | (.ok none, s) => s
    | (.ok (some bs), s) =>
      let h := lineOf bs
      if !(hdrTile h).valid then s.cmdFaults t .tf c { code := .argRange }
      else
        let s := (List.range ((hdrTile h).tokens + 1)).foldl (fun s i => match s.translate t.die c.asid (a + 64 * i) with
          | .error _ => s
          | .ok l => if l.p then s else s.unpin c.res (l.pa / 64)) s
        s.cmdDone t .tf c

/-- Prefetch the lines that overlap a global range into their home slices: a hint that skips what does not translate, a cell
that is not VALUE (15 R320) and what cannot be reached, and drops what finds no way (12 R267, R269). -/
def State.prefetch (s : State) (die : Nat) (asid : BitVec 16) (a n : Nat) : State :=
  if n = 0 then s
  else (List.range ((a + n - 1) / 64 - a / 64 + 1)).foldl (fun s i =>
    let va := (a / 64 + i) * 64
    if windowOf va ≠ some .glob then s
    else match s.translate die asid va with
      | .error _ => s
      | .ok l => if l.p || (l.t && s.tag (l.pa / 64) ≠ 0) || s.portGone l.pa then s
                 else (s.l2For (l.pa / 64) asid).getD s) s

/-- PREF, as it runs (R287). -/
def State.runPref (s : State) (t : ThreadId) (c : EngineCmd) : State :=
  (s.prefetch t.die c.asid c.va.toNat c.vb.toNat).cmdDone t .ce c

/-- A line whose bytes each read their value from before or the one last written back (12 R259). -/
def State.droppedLine (s : State) (line : Nat) (before backing : Line) : Line :=
  lineOf ((List.range 64).map fun k =>
    (if Config.discKeeps s.tick (line * 64 + k) then lineBytes before else lineBytes backing).getD k 0)

/-- Drop one line from L2, unless it is pinned, tentative or no VALUE (12 R259); copies in remote-data caches and at peers go with it
(R261). -/
def State.discLine (s : State) (line : Nat) : State :=
  match s.l2Find line with
  | none => s
  | some x =>
    if s.tag line ≠ 0 || s.pinned x then s
    else
      let k := s.homeSlice (line * 64)
      let l := if x.dirty then s.droppedLine line (s.line line) x.backing else s.line line
      let s := if x.peerBit then s.invalidatePeers none line else s
      let s := s.dropCode fun k => decide (k = .home line)
      { s with mem := s.mem.writeBytes (line * 64) (lineBytes l)
               l2 := mapSet s.l2 k ((mapGet [] s.l2 k).filter fun y => decide (y.line ≠ line))
               rdc := s.rdc.filter fun c => decide (c.line ≠ line ∨ c.peer.isSome) }

/-- The bytes of a bank line that a drop still writes: each byte reads as written or as at home (12 R259). -/
def State.keptMask (s : State) (x : BankLine) : BitVec 64 :=
  BitVec.ofNat 64 (((List.range 64).map fun k =>
    if bitOf x.dirty k && Config.discKeeps s.tick (x.pa + k) then 2 ^ k else 0).foldl (· + ·) 0)

/-- Drop a bank's line: its dirty bytes read as written or as at home. -/
def State.discBank (s : State) (r : Option ResId) (va : Nat) : State :=
  match s.bankOf r va with
  | none => s
  | some (f, b) => match mapFind b.lines (va / 64 % b.n) with
    | none => s
    | some x =>
      if x.va ≠ va / 64 * 64 then s
      else (s.setBank f { b with lines := mapErase b.lines (va / 64 % b.n) }).bankFlush f { x with dirty := s.keptMask x }

/-- DISC, as it runs (R288). -/
def State.runDisc (s : State) (t : ThreadId) (c : EngineCmd) : State :=
  let a := c.va.toNat
  let n := c.vb.toNat
  if windowOf a ≠ some .glob || (decide (0 < n) && windowOf (a + n - 1) ≠ some .glob) then
    s.cmdFaults t .ce c { code := .badWindow, w1 := c.va }
  else if 2 ^ 48 ≤ n then s.cmdFaults t .ce c { code := .argRange }
  else
    let lo := (a + 63) / 64
    let hi := (a + n) / 64
    let s := (List.range (hi - lo)).foldl (fun s i =>
      let va := (lo + i) * 64
      match s.translate t.die c.asid va with
      | .error _ => s
      | .ok l => let s := s.discBank c.res va
                 if l.p then s else s.discLine (l.pa / 64)) s
    s.cmdDone t .ce c

/-! ### Reads that may wait on cells -/

/-- What reading a list of byte ranges comes to: the bytes of each with its poison mark, a fault, or a wait on the cell of
the range named. -/
inductive Reads where
  | data (els : List (List Byte × Bool))
  | stop (x : Stop)
  | wait (va : Nat)
  deriving DecidableEq, Repr, Inhabited

/-- Read ranges in order, as loads. -/
def State.readRanges (s : State) (ag : Agent) : List (Nat × Nat) → Reads × State
  | [] => (.data [], s)
  | (a, n) :: rest => match s.resolve ag a n .r with
    | .error x => (.stop x, s)
    | .ok ps => match s.loadPieces ag ps with
      | (.error x, s) => (.stop x, s)
      | (.ok none, s) => (.wait a, s)
      | (.ok (some b), s) => match s.readRanges ag rest with
        | (.data bs, s) => (.data (b :: bs), s)
        | (.stop x, s) => (.stop x, s)
        | (.wait v, s) => (.wait v, s)

/-! ### Pieces of a command that takes several steps -/

/-- The piece of a list that a command takes up next: its accesses come in no order of their own (17 Table 17-1). -/
def State.somePiece (s : State) (l : List Nat) : Nat := l.getD (Config.freeNat s.tick % l.length) 0
/-- A read of a command is made: it waits no more, and what a parked access of that line has returned is used. -/
def State.pieceMade (s : State) (t : ThreadId) (u : Unit3) (c : EngineCmd) (a n : Nat) (f : EngineCmd → EngineCmd) : State :=
  let s := match s.resolve (s.engAgent t u c) a n .r with
    | .error _ => s
    | .ok ps => s.tookPieces (.engine t u c.seq) ps
  s.modCmd t u c.seq fun c => { f c with since := none }

/-! ### TFETCH (R284) -/

/-- The line that a TFETCH pins as it reads there: one that its home slice serves, and no bank of the pitch (12 R267). -/
def State.pinLine (s : State) (ag : Agent) (a : Nat) : Option Nat :=
  match s.resolve ag a 64 .r with
  | .error _ => none
  | .ok ps => ps.findSome? fun p => match p.target with
    | .scratch _ _ => none
    | .glob pa l va => if l.p || (s.bankServes ag.res l va).isSome then none else some (pa / 64)
/-- Does a line carry 15 pins already (12 R267)? -/
def State.pinsFull (s : State) (l : Nat) : Bool := (s.l2Find l).any fun x => decide (15 ≤ x.pins)
/-- Pin a line for a residency. -/
def State.pinFor (s : State) (r : ResId) (l : Nat) : State :=
  (s.modL2 l fun y => { y with pins := y.pins + 1 }).modRes r fun x => { x with pins := x.pins ++ [l] }

/-- A fetched packet as the slot receives it: VOID when its header is poisoned or refused (02 R57; 12 R262), VOID with
zero payload when a payload line is poisoned. -/
def packetTile (e : Expect) (unusable poison : Bool) (h : Line) (body : List Line) : Tile :=
  if unusable then e.voidTile
  else if poison then { header := h ||| (1 <<< 11), payload := body.map fun _ => 0 }
  else { header := h, payload := body }

/-- Clear the slot a TFETCH has reserved. Pins it has made stay until `TREL` or the scrub, as those of a tile that no operation
consumes do (R285). -/
def State.tfetchFaults (s : State) (t : ThreadId) (c : EngineCmd) (f : FeId) (k : Nat) (x : Stop) : State :=
  let s := if c.reserved then s.modTileSlot f k fun z => { z with tag := .empty } else s
  s.cmdFaults t .tf c x

/-- The declaration a TFETCH's slot has, whether the header it has read is poisoned, refused by it, and how many payload tokens
follow. -/
def State.tfetchShape (s : State) (c : EngineCmd) (r : ResId) (f : FeId) (k : Nat) : Option Expect × Bool × Bool × Nat :=
  let d := (vget (s.fe f).planes (s.portPlane r f)).slotDecl k
  let (hb, hq) := mapGet ([], false) c.got 0
  let bad := !hq && hdrRefused d (lineOf hb)
  (d, hq, bad, if hq || bad then (s.declOr d).voidTile.payload.length else (hdrTile (lineOf hb)).tokens)

/-- The packet is read: the reserved slot is filled. -/
def State.tfetchFill (s : State) (t : ThreadId) (c : EngineCmd) (r : ResId) (f : FeId) (k : Nat) : State :=
  let (d, hq, bad, n) := s.tfetchShape c r f k
  let s := if bad then s.countVoid f 1 else s
  let ls := (List.range n).map fun i => mapGet ([], false) c.got (i + 1)
  let tile := packetTile (s.declOr d) (hq || bad) (ls.any (·.2)) (lineOf (mapGet ([], false) c.got 0).1) (ls.map fun l => lineOf l.1)
  (s.fillTile f k tile none c.lines).cmdDone t .tf c

/-- Read one line of the packet at its home slice, and pin it: the header first, then the payload, its lines in any order; with
all read, fill the slot. -/
def State.tfetchRead (s : State) (t : ThreadId) (c : EngineCmd) (r : ResId) (f : FeId) (k : Nat) : State :=
  if c.reads = some [] then s.tfetchFill t c r f k
  else
    let ag := s.engAgent t .tf c
    let i := s.somePiece (c.reads.getD [0])
    let a := c.va.toNat + 64 * i
    let pin := s.pinLine ag a
    if pin.any (s.pinsFull) then s
    else match s.readRanges { ag with die := (pin.map fun l => (s.homeSlice (l * 64)).1).getD ag.die } [(a, 64)] with
    | (.stop x, s) => s.tfetchFaults t c f k x
    | (.wait _, s) => s.cmdWaits t .tf c
    | (.data ds, s) =>
      let s := match pin with
        | none => s
        | some l => s.pinFor r l
      let c' : EngineCmd := { c with got := mapSet c.got i (ds.headD ([], false)), lines := c.lines ++ pin.toList }
      let c' : EngineCmd := { c' with reads := some (match c.reads with
        | none => (List.range (s.tfetchShape c' r f k).2.2.2).map (· + 1)
        | some l => l.erase i) }
      s.pieceMade t .tf c a 64 fun _ => c'

/-- TFETCH, as it runs: its operands, then its slot, then its packet. -/
def State.runTfetch (s : State) (t : ThreadId) (c : EngineCmd) : State :=
  match c.res with
  | none => s.cmdFaults t .tf c { code := .argRange }
  | some r =>
    let x := s.res r
    let f := feOfIndex r x (fldN c.vb 0 11)
    let k := fldN c.vb 11 4
    if c.reserved then s.tfetchRead t c r f k
    else if fldN c.vb 15 49 ≠ 0 || x.urgent || decide (24 * x.h * x.w ≤ fldN c.vb 0 11) || !(s.fe f).hasTiles then
      s.cmdFaults t .tf c { code := .argRange }
    else if fldN c.va 0 6 ≠ 0 then s.cmdFaults t .tf c { code := .misaligned, w1 := c.va }
    else if windowOf c.va.toNat ≠ some .glob then s.cmdFaults t .tf c { code := .badWindow, w1 := c.va }
    else if (vget (s.fe f).tiles k).tag ≠ .empty then s
    else (s.modTileSlot f k fun z => { z with tag := .reserved }).modCmd t .tf c.seq fun c => { c with reserved := true }

/-! ### COPY (R286) -/

/-- The place of a code in the order of 09 R181. -/
def stopRank (c : Code) : Nat := match c with
  | .badWindow => 0
  | .windowCross => 0
  | .page => 1
  | .access => 2
  | _ => 3

/-- Mark the line of a piece poisoned, where the piece stands. -/
def State.poisonPiece (s : State) (ag : Agent) (p : Piece) : State :=
  match p.target with
  | .scratch _ _ => s
  | .glob pa l va => match s.tentWrites ag.res with
    | some o => { s with tent := s.tent.map fun t => if t.owner = o ∧ t.line = l.line pa then
        { t with poison := true, held := t.held.map fun h => { h with poison := true } } else t }
    | none => match s.bankServes ag.res l va with
      | some (f, b) => s.setBank f { b with lines := b.lines.map fun x =>
          if x.2.va = va / 64 * 64 then (x.1, { x.2 with poison := true }) else x }
      | none => if l.p then s else s.setPoison (pa / 64) true

/-- The lines of pieces that the device homes. -/
def pieceLines (ps : List Piece) : List Nat := ps.filterMap fun p => match p.target with
  | .scratch _ _ => none
  | .glob pa l _ => if l.p then none else some (pa / 64)

/-- A COPY starts: its operands, then the reads to make; the lines it writes are exempt from replacement while it is in flight. -/
def State.startCopy (s : State) (t : ThreadId) (c : EngineCmd) : State :=
  let n := c.vq.toNat
  let ag := s.engAgent t .ce c
  if 2 ^ 48 ≤ n then s.cmdFaults t .ce c { code := .argRange }
  else if n = 0 then s.cmdDone t .ce c
  else
    match s.resolve ag c.vb.toNat n .r, s.resolve ag c.va.toNat n .w with
    | .error x, .error y => s.cmdFaults t .ce c (if stopRank y.code < stopRank x.code then y else x)
    | .error x, .ok _ => s.cmdFaults t .ce c x
    | .ok _, .error y => s.cmdFaults t .ce c y
    | .ok _, .ok dst => s.modCmd t .ce c.seq fun c => { c with
        reads := some (List.range (linePieces c.vb.toNat n).length), lines := pieceLines dst }

/-- Read one piece of the source; with all read, the stores are to be made. -/
def State.copyRead (s : State) (t : ThreadId) (c : EngineCmd) (l : List Nat) : State :=
  let i := s.somePiece l
  let p := (linePieces c.vb.toNat c.vq.toNat).getD i (0, 0)
  match s.readRanges (s.engAgent t .ce c) [p] with
  | (.stop x, s) => s.cmdFaults t .ce c x
  | (.wait _, s) => s.cmdWaits t .ce c
  | (.data ds, s) => s.pieceMade t .ce c p.1 p.2 fun c =>
      { c with got := mapSet c.got i (ds.headD ([], false)), reads := some (l.erase i)
               writes := if (l.erase i).isEmpty then some (List.range (linePieces c.va.toNat c.vq.toNat).length) else none }

/-- Every byte that a COPY has read, in order, each with whether its line is poisoned. -/
def EngineCmd.source (c : EngineCmd) : List (Byte × Bool) :=
  (List.range c.got.length).flatMap fun i => let g := mapGet ([], false) c.got i
                                             g.1.map fun b => (b, g.2)

/-- Store one piece of the destination: a byte that comes from a poisoned line poisons the line it goes to. -/
def State.copyWrite (s : State) (t : ThreadId) (c : EngineCmd) (l : List Nat) : State :=
  let ag := s.engAgent t .ce c
  let i := s.somePiece l
  let (a, n) := (linePieces c.va.toNat c.vq.toNat).getD i (0, 0)
  let src := (c.source.drop (a - c.va.toNat)).take n
  match s.resolve ag a n .w with
  | .error x => s.cmdFaults t .ce c x
  | .ok ps => match s.storePieces ag ps (src.map (·.1)) with
    | (.stop x, s) => s.cmdFaults t .ce c x
    | (.wait, s) => s
    | (.done, s) =>
      let s := if src.any (·.2) then ps.foldl (fun s p => s.poisonPiece ag p) s else s
      s.modCmd t .ce c.seq fun c => { c with writes := some (l.erase i) }

/-- A COPY whose stores have performed ends: with POISON if it has read a poisoned line. -/
def State.copyEnds (s : State) (t : ThreadId) (c : EngineCmd) : State :=
  let src := linePieces c.vb.toNat c.vq.toNat
  match (List.range src.length).find? fun i => (mapGet ([], false) c.got i).2 with
  | none => s.cmdDone t .ce c
  | some i => s.cmdFaults t .ce c { code := .poison, w1 := wordN (src.getD i (0, 0)).1 }

/-- COPY, as it runs: every source byte is read before any destination byte is written; a line at a time (R286; 19 R384). -/
def State.runCopy (s : State) (t : ThreadId) (c : EngineCmd) : State :=
  match c.reads, c.writes with
  | none, _ => s.startCopy t c
  | some l, none => s.copyRead t c l
  | some _, some [] => s.copyEnds t c
  | some _, some l => s.copyWrite t c l

end Sys2Proof.Machine
end

