-- ==== Sys2Proof/Machine/ElemInt.lean ====
section
/-! DEFINITION. Integer element operations and DOT4 (10 R215, R216) -/

namespace Sys2Proof.Machine

/-- An operation element by element: every element's pattern from the operands' patterns; nothing when one fails. -/
def mapElems (T : Nat) (xs : List Line) (k : List Nat → Option Nat) : Option Line :=
  let ps := (List.range (typeElems T)).map fun i => k (xs.map fun x => elem T x i)
  if ps.all Option.isSome then some (ofElems T (ps.map fun p => p.getD 0)) else none

/-- Value of operand `i` of an element. -/
def argInt (T : Nat) (ps : List Nat) (i : Nat) : Int := patInt T (ps.getD i 0)
def argPat (ps : List Nat) (i : Nat) : Nat := ps.getD i 0

/-- All ones at the type's width, or zero. -/
def maskPat (T : Nat) (b : Bool) : Nat := if b then 2 ^ typeBits T - 1 else 0

/-- Leading zeros of an `n`-bit pattern. -/
def clzPat (n p : Nat) : Nat := n - bitLen p
/-- Set bits of a pattern. -/
def popcPat (n p : Nat) : Nat := ((List.range n).filter fun k => p.testBit k).length

/-- Elements of ADD: Variant(a + b). -/
def addEElems (T v : Nat) (xs : List Line) : Option Line := mapElems T xs fun ps => variant T v (argInt T ps 0 + argInt T ps 1)
/-- ADD: Variant(a + b) (Table 10-4). -/
def execAddE (T : BitVec 4) (q : BitVec 1) (v : BitVec 2) (u t : BitVec 9) (s : State) : Out :=
  .next (s.compute [.a, .b] (q = 1) [t, u] fun _ val => addEElems T.toNat v.toNat [val .a, val .b])

/-- Elements of SUB: Variant(a − b). -/
def subEElems (T v : Nat) (xs : List Line) : Option Line := mapElems T xs fun ps => variant T v (argInt T ps 0 - argInt T ps 1)
/-- SUB: Variant(a − b) (Table 10-4). -/
def execSubE (T : BitVec 4) (q : BitVec 1) (v : BitVec 2) (u t : BitVec 9) (s : State) : Out :=
  .next (s.compute [.a, .b] (q = 1) [t, u] fun _ val => subEElems T.toNat v.toNat [val .a, val .b])

/-- Elements of MUL: Variant(a × b). -/
def mulEElems (T v : Nat) (xs : List Line) : Option Line := mapElems T xs fun ps => variant T v (argInt T ps 0 * argInt T ps 1)
/-- MUL: Variant(a × b) (Table 10-4). -/
def execMulE (T : BitVec 4) (q : BitVec 1) (v : BitVec 2) (u t : BitVec 9) (s : State) : Out :=
  .next (s.compute [.a, .b] (q = 1) [t, u] fun _ val => mulEElems T.toNat v.toNat [val .a, val .b])

/-- Elements of MULH: floor(a × b / 2^n). -/
def mulhEElems (T : Nat) (xs : List Line) : Option Line := mapElems T xs fun ps => some (wrapInt T (argInt T ps 0 * argInt T ps 1 / 2 ^ typeBits T))
/-- MULH: floor(a × b / 2^n) (Table 10-4). -/
def execMulhE (T : BitVec 4) (q : BitVec 1) (u t : BitVec 9) (s : State) : Out :=
  .next (s.compute [.a, .b] (q = 1) [t, u] fun _ val => mulhEElems T.toNat [val .a, val .b])

/-- Elements of MAD: Variant(a × b + c), one check on the total. -/
def madElems (T v : Nat) (xs : List Line) : Option Line := mapElems T xs fun ps => variant T v (argInt T ps 0 * argInt T ps 1 + argInt T ps 2)
/-- MAD: Variant(a × b + c), one check on the total (Table 10-4). -/
def execMad (T : BitVec 4) (q : BitVec 1) (v : BitVec 2) (u t : BitVec 9) (s : State) : Out :=
  .next (s.compute [.a, .b, .c] (q = 1) [t, u] fun _ val => madElems T.toNat v.toNat [val .a, val .b, val .c])

/-- Elements of AND of the patterns. -/
def andEElems (T : Nat) (xs : List Line) : Option Line := mapElems T xs fun ps => some (argPat ps 0 &&& argPat ps 1)
/-- AND of the patterns (Table 10-4). -/
def execAndE (T : BitVec 4) (q : BitVec 1) (u t : BitVec 9) (s : State) : Out :=
  .next (s.compute [.a, .b] (q = 1) [t, u] fun _ val => andEElems T.toNat [val .a, val .b])

/-- Elements of OR of the patterns. -/
def orEElems (T : Nat) (xs : List Line) : Option Line := mapElems T xs fun ps => some (argPat ps 0 ||| argPat ps 1)
/-- OR of the patterns (Table 10-4). -/
def execOrE (T : BitVec 4) (q : BitVec 1) (u t : BitVec 9) (s : State) : Out :=
  .next (s.compute [.a, .b] (q = 1) [t, u] fun _ val => orEElems T.toNat [val .a, val .b])

/-- Elements of XOR of the patterns. -/
def xorEElems (T : Nat) (xs : List Line) : Option Line := mapElems T xs fun ps => some (argPat ps 0 ^^^ argPat ps 1)
/-- XOR of the patterns (Table 10-4). -/
def execXorE (T : BitVec 4) (q : BitVec 1) (u t : BitVec 9) (s : State) : Out :=
  .next (s.compute [.a, .b] (q = 1) [t, u] fun _ val => xorEElems T.toNat [val .a, val .b])

/-- Elements of ANDN: a & ~b. -/
def andnEElems (T : Nat) (xs : List Line) : Option Line := mapElems T xs fun ps => some (argPat ps 0 &&& (2 ^ typeBits T - 1 - argPat ps 1))
/-- ANDN: a & ~b (Table 10-4). -/
def execAndnE (T : BitVec 4) (q : BitVec 1) (u t : BitVec 9) (s : State) : Out :=
  .next (s.compute [.a, .b] (q = 1) [t, u] fun _ val => andnEElems T.toNat [val .a, val .b])

/-- Elements of SHL: Variant(a × 2^k), k = ZeroExt(b) mod n. -/
def shlEElems (T v : Nat) (xs : List Line) : Option Line := mapElems T xs fun ps => variant T v (argInt T ps 0 * 2 ^ (argPat ps 1 % typeBits T))
/-- SHL: Variant(a × 2^k), k = ZeroExt(b) mod n (Table 10-4). -/
def execShlE (T : BitVec 4) (q : BitVec 1) (v : BitVec 2) (u t : BitVec 9) (s : State) : Out :=
  .next (s.compute [.a, .b] (q = 1) [t, u] fun _ val => shlEElems T.toNat v.toNat [val .a, val .b])

/-- Elements of SHR: the pattern shifted right, zeros entering. -/
def shrEElems (T : Nat) (xs : List Line) : Option Line := mapElems T xs fun ps => some (argPat ps 0 / 2 ^ (argPat ps 1 % typeBits T))
/-- SHR: the pattern shifted right, zeros entering (Table 10-4). -/
def execShrE (T : BitVec 4) (q : BitVec 1) (u t : BitVec 9) (s : State) : Out :=
  .next (s.compute [.a, .b] (q = 1) [t, u] fun _ val => shrEElems T.toNat [val .a, val .b])

/-- Elements of SHRA: floor(a / 2^k). -/
def shraEElems (T : Nat) (xs : List Line) : Option Line := mapElems T xs fun ps => some (wrapInt T (argInt T ps 0 / 2 ^ (argPat ps 1 % typeBits T)))
/-- SHRA: floor(a / 2^k) (Table 10-4). -/
def execShraE (T : BitVec 4) (q : BitVec 1) (u t : BitVec 9) (s : State) : Out :=
  .next (s.compute [.a, .b] (q = 1) [t, u] fun _ val => shraEElems T.toNat [val .a, val .b])

/-- Elements of MIN: the lesser. -/
def minEElems (T : Nat) (xs : List Line) : Option Line := mapElems T xs fun ps => some (wrapInt T (min (argInt T ps 0) (argInt T ps 1)))
/-- MIN: the lesser (Table 10-4). -/
def execMinE (T : BitVec 4) (q : BitVec 1) (u t : BitVec 9) (s : State) : Out :=
  .next (s.compute [.a, .b] (q = 1) [t, u] fun _ val => minEElems T.toNat [val .a, val .b])

/-- Elements of MAX: the greater. -/
def maxEElems (T : Nat) (xs : List Line) : Option Line := mapElems T xs fun ps => some (wrapInt T (max (argInt T ps 0) (argInt T ps 1)))
/-- MAX: the greater (Table 10-4). -/
def execMaxE (T : BitVec 4) (q : BitVec 1) (u t : BitVec 9) (s : State) : Out :=
  .next (s.compute [.a, .b] (q = 1) [t, u] fun _ val => maxEElems T.toNat [val .a, val .b])

/-- Elements of ABS: Variant(|a|). -/
def absElems (T v : Nat) (xs : List Line) : Option Line := mapElems T xs fun ps => variant T v (argInt T ps 0).natAbs
/-- ABS: Variant(|a|) (Table 10-4). -/
def execAbs (T : BitVec 4) (q : BitVec 1) (v : BitVec 2) (u t : BitVec 9) (s : State) : Out :=
  .next (s.compute [.a] (q = 1) [t, u] fun _ val => absElems T.toNat v.toNat [val .a])

/-- Elements of CLZ: leading zeros of the pattern, n when it is zero. -/
def clzEElems (T : Nat) (xs : List Line) : Option Line := mapElems T xs fun ps => some (clzPat (typeBits T) (argPat ps 0))
/-- CLZ: leading zeros of the pattern, n when it is zero (Table 10-4). -/
def execClzE (T : BitVec 4) (q : BitVec 1) (u t : BitVec 9) (s : State) : Out :=
  .next (s.compute [.a] (q = 1) [t, u] fun _ val => clzEElems T.toNat [val .a])

/-- Elements of POPC: set bits of the pattern. -/
def popcEElems (T : Nat) (xs : List Line) : Option Line := mapElems T xs fun ps => some (popcPat (typeBits T) (argPat ps 0))
/-- POPC: set bits of the pattern (Table 10-4). -/
def execPopcE (T : BitVec 4) (q : BitVec 1) (u t : BitVec 9) (s : State) : Out :=
  .next (s.compute [.a] (q = 1) [t, u] fun _ val => popcEElems T.toNat [val .a])

/-- Elements of CMPEQ: all ones if a = b. -/
def cmpeqElems (T : Nat) (xs : List Line) : Option Line := mapElems T xs fun ps => some (maskPat T (decide (argInt T ps 0 = argInt T ps 1)))
/-- CMPEQ: all ones if a = b (Table 10-4). -/
def execCmpeq (T : BitVec 4) (q : BitVec 1) (u t : BitVec 9) (s : State) : Out :=
  .next (s.compute [.a, .b] (q = 1) [t, u] fun _ val => cmpeqElems T.toNat [val .a, val .b])

/-- Elements of CMPNE: all ones if a ≠ b. -/
def cmpneElems (T : Nat) (xs : List Line) : Option Line := mapElems T xs fun ps => some (maskPat T (decide (argInt T ps 0 ≠ argInt T ps 1)))
/-- CMPNE: all ones if a ≠ b (Table 10-4). -/
def execCmpne (T : BitVec 4) (q : BitVec 1) (u t : BitVec 9) (s : State) : Out :=
  .next (s.compute [.a, .b] (q = 1) [t, u] fun _ val => cmpneElems T.toNat [val .a, val .b])

/-- Elements of CMPLT: all ones if a < b. -/
def cmpltElems (T : Nat) (xs : List Line) : Option Line := mapElems T xs fun ps => some (maskPat T (decide (argInt T ps 0 < argInt T ps 1)))
/-- CMPLT: all ones if a < b (Table 10-4). -/
def execCmplt (T : BitVec 4) (q : BitVec 1) (u t : BitVec 9) (s : State) : Out :=
  .next (s.compute [.a, .b] (q = 1) [t, u] fun _ val => cmpltElems T.toNat [val .a, val .b])

/-- Elements of CMPLE: all ones if a ≤ b. -/
def cmpleElems (T : Nat) (xs : List Line) : Option Line := mapElems T xs fun ps => some (maskPat T (decide (argInt T ps 0 ≤ argInt T ps 1)))
/-- CMPLE: all ones if a ≤ b (Table 10-4). -/
def execCmple (T : BitVec 4) (q : BitVec 1) (u t : BitVec 9) (s : State) : Out :=
  .next (s.compute [.a, .b] (q = 1) [t, u] fun _ val => cmpleElems T.toNat [val .a, val .b])

/-- Elements of SEL: a if the pattern of c is not zero, else b. -/
def selElems (T : Nat) (xs : List Line) : Option Line := mapElems T xs fun ps => some (if argPat ps 2 ≠ 0 then argPat ps 0 else argPat ps 1)
/-- SEL: a if the pattern of c is not zero, else b (Table 10-4). -/
def execSel (T : BitVec 4) (q : BitVec 1) (u t : BitVec 9) (s : State) : Out :=
  .next (s.compute [.a, .b, .c] (q = 1) [t, u] fun _ val => selElems T.toNat [val .a, val .b, val .c])

/-- Byte `j` of lane `i`, signed or not. -/
def byteInt (signed : Bool) (x : Line) (i j : Nat) : Int :=
  let b := lane x i / 2 ^ (8 * j) % 256
  if signed && decide (128 ≤ b) then (b : Int) - 256 else b

/-- DOT4 (R216): per lane, the accumulator and four byte products, one Variant of the exact total. -/
def dot4Lanes (T v : Nat) (a b c : Line) : Option Line :=
  let ps := (List.range 16).map fun i =>
    variant T v ((List.range 4).foldl (fun acc j => acc + byteInt (typeSigned T) a i j * byteInt (typeSigned T) b i j)
      (patInt T (lane c i)))
  if ps.all Option.isSome then some (ofElems T (ps.map fun p => p.getD 0)) else none

/-- DOT4 (R216). -/
def execDot4 (T : BitVec 4) (q : BitVec 1) (v : BitVec 2) (u t : BitVec 9) (s : State) : Out :=
  .next (s.compute [.a, .b, .c] (q = 1) [t, u] fun _ val => dot4Lanes T.toNat v.toNat (val .a) (val .b) (val .c))

end Sys2Proof.Machine
end

