-- ==== Sys2Proof/Machine/ElemFloat.lean ====
section
/-! DEFINITION. Floating-point element operations (10 R217, R218) -/

namespace Sys2Proof.Machine

/-- The rounding mode of a variant: 00 is the plane default (02 R39). -/
def modeOf (default v : Nat) : Nat := if v = 0 then default else v

/-- FMIN and FMAX: −0 below +0, the canonical NaN if either is NaN. -/
def floatPick (f : FloatFmt) (greater : Bool) (p q : Nat) : Nat :=
  let a := f.val p
  let b := f.val q
  if a.isNan || b.isNan then f.nanBits
  else
    let below := a.lt b || (a.eq b && a.neg)
    if below = greater then q else p

/-- FCLASS: the one class bit of a pattern (R218). -/
def floatClass (f : FloatFmt) (p : Nat) : Nat :=
  let neg := decide (2 ^ (f.ebits + f.fbits) ≤ p)
  let ex := p / 2 ^ f.fbits % 2 ^ f.ebits
  let fr := p % 2 ^ f.fbits
  let k :=
    if ex = 2 ^ f.ebits - 1 then
      (if fr = 0 then (if neg then 0 else 7) else if fr < 2 ^ (f.fbits - 1) then 8 else 9)
    else if ex = 0 then (if fr = 0 then (if neg then 3 else 4) else if neg then 2 else 5)
    else if neg then 1 else 6
  2 ^ k

/-- Elements of FADD: Round(a + b). -/
def faddElems (T m : Nat) (xs : List Line) : Option Line := mapElems T xs fun ps => some ((fmtOf T).roundVal m (sumVals m [((fmtOf T).val (argPat ps 0)), ((fmtOf T).val (argPat ps 1))]))
/-- FADD: Round(a + b) (Table 10-5). -/
def execFadd (T : BitVec 4) (q : BitVec 1) (v : BitVec 2) (u t : BitVec 9) (s : State) : Out :=
  .next (s.compute [.a, .b] (q = 1) [t, u] fun rm val => faddElems T.toNat (modeOf rm v.toNat) [val .a, val .b])

/-- Elements of FSUB: Round(a − b). -/
def fsubElems (T m : Nat) (xs : List Line) : Option Line := mapElems T xs fun ps => some ((fmtOf T).roundVal m (sumVals m [((fmtOf T).val (argPat ps 0)), ((fmtOf T).val (argPat ps 1)).flip]))
/-- FSUB: Round(a − b) (Table 10-5). -/
def execFsub (T : BitVec 4) (q : BitVec 1) (v : BitVec 2) (u t : BitVec 9) (s : State) : Out :=
  .next (s.compute [.a, .b] (q = 1) [t, u] fun rm val => fsubElems T.toNat (modeOf rm v.toNat) [val .a, val .b])

/-- Elements of FMUL: Round(a × b). -/
def fmulElems (T m : Nat) (xs : List Line) : Option Line := mapElems T xs fun ps => some ((fmtOf T).roundVal m (mulVal ((fmtOf T).val (argPat ps 0)) ((fmtOf T).val (argPat ps 1))))
/-- FMUL: Round(a × b) (Table 10-5). -/
def execFmul (T : BitVec 4) (q : BitVec 1) (v : BitVec 2) (u t : BitVec 9) (s : State) : Out :=
  .next (s.compute [.a, .b] (q = 1) [t, u] fun rm val => fmulElems T.toNat (modeOf rm v.toNat) [val .a, val .b])

/-- Elements of FMA: Round(a × b + c), one rounding. -/
def fmaElems (T m : Nat) (xs : List Line) : Option Line := mapElems T xs fun ps => some ((fmtOf T).roundVal m (sumVals m [mulVal ((fmtOf T).val (argPat ps 0)) ((fmtOf T).val (argPat ps 1)), ((fmtOf T).val (argPat ps 2))]))
/-- FMA: Round(a × b + c), one rounding (Table 10-5). -/
def execFma (T : BitVec 4) (q : BitVec 1) (v : BitVec 2) (u t : BitVec 9) (s : State) : Out :=
  .next (s.compute [.a, .b, .c] (q = 1) [t, u] fun rm val => fmaElems T.toNat (modeOf rm v.toNat) [val .a, val .b, val .c])

/-- Elements of FMIN: the lesser. -/
def fminElems (T : Nat) (xs : List Line) : Option Line := mapElems T xs fun ps => some (floatPick (fmtOf T) false (argPat ps 0) (argPat ps 1))
/-- FMIN: the lesser (Table 10-5). -/
def execFmin (T : BitVec 4) (q : BitVec 1) (u t : BitVec 9) (s : State) : Out :=
  .next (s.compute [.a, .b] (q = 1) [t, u] fun _ val => fminElems T.toNat [val .a, val .b])

/-- Elements of FMAX: the greater. -/
def fmaxElems (T : Nat) (xs : List Line) : Option Line := mapElems T xs fun ps => some (floatPick (fmtOf T) true (argPat ps 0) (argPat ps 1))
/-- FMAX: the greater (Table 10-5). -/
def execFmax (T : BitVec 4) (q : BitVec 1) (u t : BitVec 9) (s : State) : Out :=
  .next (s.compute [.a, .b] (q = 1) [t, u] fun _ val => fmaxElems T.toNat [val .a, val .b])

/-- Elements of FABS: the sign bit cleared. -/
def fabsElems (T : Nat) (xs : List Line) : Option Line := mapElems T xs fun ps => some (argPat ps 0 % 2 ^ (typeBits T - 1))
/-- FABS: the sign bit cleared (Table 10-5). -/
def execFabs (T : BitVec 4) (q : BitVec 1) (u t : BitVec 9) (s : State) : Out :=
  .next (s.compute [.a] (q = 1) [t, u] fun _ val => fabsElems T.toNat [val .a])

/-- Elements of FNEG: the sign bit inverted. -/
def fnegElems (T : Nat) (xs : List Line) : Option Line := mapElems T xs fun ps => some (argPat ps 0 ^^^ 2 ^ (typeBits T - 1))
/-- FNEG: the sign bit inverted (Table 10-5). -/
def execFneg (T : BitVec 4) (q : BitVec 1) (u t : BitVec 9) (s : State) : Out :=
  .next (s.compute [.a] (q = 1) [t, u] fun _ val => fnegElems T.toNat [val .a])

/-- Elements of FCMPEQ: all ones if a = b. -/
def fcmpeqElems (T : Nat) (xs : List Line) : Option Line := mapElems T xs fun ps => some (maskPat T (((fmtOf T).val (argPat ps 0)).eq ((fmtOf T).val (argPat ps 1))))
/-- FCMPEQ: all ones if a = b (Table 10-5). -/
def execFcmpeq (T : BitVec 4) (q : BitVec 1) (u t : BitVec 9) (s : State) : Out :=
  .next (s.compute [.a, .b] (q = 1) [t, u] fun _ val => fcmpeqElems T.toNat [val .a, val .b])

/-- Elements of FCMPLT: all ones if a < b. -/
def fcmpltElems (T : Nat) (xs : List Line) : Option Line := mapElems T xs fun ps => some (maskPat T (((fmtOf T).val (argPat ps 0)).lt ((fmtOf T).val (argPat ps 1))))
/-- FCMPLT: all ones if a < b (Table 10-5). -/
def execFcmplt (T : BitVec 4) (q : BitVec 1) (u t : BitVec 9) (s : State) : Out :=
  .next (s.compute [.a, .b] (q = 1) [t, u] fun _ val => fcmpltElems T.toNat [val .a, val .b])

/-- Elements of FCMPLE: all ones if a ≤ b. -/
def fcmpleElems (T : Nat) (xs : List Line) : Option Line := mapElems T xs fun ps => some (maskPat T (((fmtOf T).val (argPat ps 0)).le ((fmtOf T).val (argPat ps 1))))
/-- FCMPLE: all ones if a ≤ b (Table 10-5). -/
def execFcmple (T : BitVec 4) (q : BitVec 1) (u t : BitVec 9) (s : State) : Out :=
  .next (s.compute [.a, .b] (q = 1) [t, u] fun _ val => fcmpleElems T.toNat [val .a, val .b])

/-- Elements of FRCP: Round(1 / a). -/
def frcpElems (T m : Nat) (xs : List Line) : Option Line := mapElems T xs fun ps => some ((fmtOf T).rcp m ((fmtOf T).val (argPat ps 0)))
/-- FRCP: Round(1 / a) (Table 10-5). -/
def execFrcp (T : BitVec 4) (q : BitVec 1) (v : BitVec 2) (u t : BitVec 9) (s : State) : Out :=
  .next (s.compute [.a] (q = 1) [t, u] fun rm val => frcpElems T.toNat (modeOf rm v.toNat) [val .a])

/-- Elements of FRSQ: Round(1 / √a). -/
def frsqElems (T m : Nat) (xs : List Line) : Option Line := mapElems T xs fun ps => some ((fmtOf T).rsq m ((fmtOf T).val (argPat ps 0)))
/-- FRSQ: Round(1 / √a) (Table 10-5). -/
def execFrsq (T : BitVec 4) (q : BitVec 1) (v : BitVec 2) (u t : BitVec 9) (s : State) : Out :=
  .next (s.compute [.a] (q = 1) [t, u] fun rm val => frsqElems T.toNat (modeOf rm v.toNat) [val .a])

/-- Elements of FEXP2: Round(2^a). -/
def fexp2Elems (T m : Nat) (xs : List Line) : Option Line := mapElems T xs fun ps => some ((fmtOf T).exp2 m (argPat ps 0) ((fmtOf T).val (argPat ps 0)))
/-- FEXP2: Round(2^a) (Table 10-5). -/
def execFexp2 (T : BitVec 4) (q : BitVec 1) (v : BitVec 2) (u t : BitVec 9) (s : State) : Out :=
  .next (s.compute [.a] (q = 1) [t, u] fun rm val => fexp2Elems T.toNat (modeOf rm v.toNat) [val .a])

/-- Elements of FLOG2: Round(log2 a). -/
def flog2Elems (T m : Nat) (xs : List Line) : Option Line := mapElems T xs fun ps => some ((fmtOf T).log2 m (argPat ps 0) ((fmtOf T).val (argPat ps 0)))
/-- FLOG2: Round(log2 a) (Table 10-5). -/
def execFlog2 (T : BitVec 4) (q : BitVec 1) (v : BitVec 2) (u t : BitVec 9) (s : State) : Out :=
  .next (s.compute [.a] (q = 1) [t, u] fun rm val => flog2Elems T.toNat (modeOf rm v.toNat) [val .a])

/-- Elements of FCLASS: the class mask. -/
def fclassElems (T : Nat) (xs : List Line) : Option Line := mapElems T xs fun ps => some (floatClass (fmtOf T) (argPat ps 0))
/-- FCLASS: the class mask (Table 10-5). -/
def execFclass (T : BitVec 4) (q : BitVec 1) (u t : BitVec 9) (s : State) : Out :=
  .next (s.compute [.a] (q = 1) [t, u] fun _ val => fclassElems T.toNat [val .a])

end Sys2Proof.Machine
end

