-- ==== Sys2Proof/Machine/ElemConv.lean ====
section
/-! DEFINITION. Conversions, cross-lane operations, bit islands, and the counter-based generator (10 R219-R224;
16 R339-R341). -/

namespace Sys2Proof.Machine

/-! ### The generator (16 R339, R340) -/

/-- `Mix(k, c)` (R339). -/
def mix (k c : BitVec 32) : BitVec 32 :=
  let x := (c ^^^ k) * 0x9E3779B9
  let x := (x ^^^ (x >>> 16)) ^^^ k
  let x := x * 0x85EBCA6B
  x ^^^ (x >>> 13)

/-- The uniform value of an output as an .f32 pattern (R339): w[31:8] × 2^-24. -/
def uniPat (w : BitVec 32) : Nat := (fmtOf 10).roundVal 0 (.fin false (fldN w 8 24) (-24))

/-- Draws in order: each item that needs a draw takes the next output of key `k` from counter `c`; the results and the
number of draws taken. -/
def drawEach {α β : Type} (k : BitVec 32) (c : BitVec 32) (needs : α → Bool) (put : α → Nat → β) :
    List α → List β × Nat
  | [] => ([], 0)
  | x :: xs =>
    if needs x then
      let r := drawEach k (c + 1) needs put xs
      (put x (fldN (mix k c) 8 24) :: r.1, r.2 + 1)
    else
      let r := drawEach k c needs put xs
      (put x 0 :: r.1, r.2)

/-! ### Conversions (R219-R222) -/

/-- One element of a CVT: source pattern to destination pattern, or nothing under `.ovt` (R220, 02 R44). -/
def cvtElem (S D v dflt : Nat) (p : Nat) : Option Nat :=
  if typeFloat D then
    let x := if typeFloat S then (fmtOf S).val p else Val.ofInt (patInt S p)
    some ((fmtOf D).roundVal (modeOf dflt v) x)
  else if typeFloat S then
    match (fmtOf S).val p with
    | .nan => if v = 2 then none else some 0
    | .inf n => if v = 2 then none else if v = 1 then some (wrapInt D (if n then typeMin D else typeMax D)) else some 0
    | x => variant D v ((x.toIntMode dflt).getD 0)
  else variant D v (patInt S p)

/-- Element patterns of a conversion: the source elements that the destination has room for, zeros after them (R220). -/
def cvtElems (S D : Nat) (x : Line) (k : Nat → Option Nat) : Option Line :=
  let ps := (List.range (typeElems D)).map fun i => if i < typeElems S then k (elem S x i) else some 0
  if ps.all Option.isSome then some (ofElems D (ps.map fun p => p.getD 0)) else none

/-- CVT (R220). -/
def execCvt (q : BitVec 1) (S D : BitVec 4) (v : BitVec 2) (t : BitVec 9) (s : State) : Out :=
  .next (s.compute [.a] (q = 1) [t] fun rm val =>
    cvtElems S.toNat D.toNat (val .a) (cvtElem S.toNat D.toNat v.toNat rm))

/-- CVTSR: each element rounded stochastically, drawing from the plane's generator in lane order (R221, 02 R43). -/
def execCvtsr (q : BitVec 1) (S D : BitVec 4) (t : BitVec 9) (s : State) : Out :=
  .next (s.element [.a] (q = 1) [t] fun g val s =>
    let p := s.plane s.curFe g.plane
    let fS := fmtOf S.toNat
    let fD := fmtOf D.toNat
    let n := min (typeElems S.toNat) (typeElems D.toNat)
    let xs := (List.range n).map fun i => fS.val (elem S.toNat (val .a) i)
    let r := drawEach p.genKey p.genCtr fD.draws (fun x u => fD.roundStoch u x) xs
    let s := s.modPlane s.curFe g.plane fun p => { p with genCtr := p.genCtr + BitVec.ofNat 32 r.2 }
    .value s (ofElems D.toNat r.1))

/-- The values that reach the BFP converter: through the butterfly stages if there are any, with subnormals read as zero
in the format they arrive in (02 R48, R50). -/
def bfpInputs (S stages : Nat) (ps : List Nat) : List Val :=
  if stages = 0 then ps.map (flushVal (fmtOf S))
  else (butterfly stages (ps.map (fmtOf S).val)).map fun x => flushVal (fmtOf 10) ((fmtOf 10).roundVal 0 x)

/-- The routing word of an FE's site in a plane (05 R112). -/
def State.routeOf (s : State) (f : FeId) (plane : Nat) : Line := mapGet 0 s.routes (f.die, feRow f, feCol f, plane)

/-- QBFP (R222). -/
def execQbfp (q : BitVec 1) (m S : BitVec 4) (v : BitVec 2) (t : BitVec 9) (s : State) : Out :=
  .next (s.element [.a] (q = 1) [t] fun g val s =>
    let rm := modeOf (s.plane s.curFe g.plane).rounding v.toNat
    let stages := fldN (s.routeOf s.curFe g.plane) (440 + 3 * g.block) 3
    let r := bfpConvert m.toNat (bfpInputs S.toNat stages (elemsOf S.toNat (val .a))) (rndMode rm)
    .value s (bfpToken m.toNat r.1 r.2))

/-- DQBFP (R222, 02 R49). -/
def execDqbfp (q : BitVec 1) (m D : BitVec 4) (v : BitVec 2) (t : BitVec 9) (s : State) : Out :=
  .next (s.compute [.a] (q = 1) [t] fun rm val =>
    let b := bfpOfToken m.toNat (val .a)
    some (ofElems D.toNat (b.2.map fun x => (fmtOf D.toNat).roundVal (modeOf rm v.toNat) (bfpVal m.toNat b.1 x))))

/-! ### Cross-lane operations (R223, 02 R51) -/

/-- One level of the reduction tree: neighbours added pairwise. -/
def pairUp (k : Nat → Nat → Nat) : List Nat → List Nat
  | a :: b :: xs => k a b :: pairUp k xs
  | xs => xs

/-- Round(a + b) of two patterns. -/
def addPats (f : FloatFmt) (m a b : Nat) : Nat := f.roundVal m (sumVals m [f.val a, f.val b])

/-- RED: the tree sum of a float, the exact sum of an integer under its variant, in every element. -/
def redLanes (T v m : Nat) (x : Line) : Option Line :=
  let ps := elemsOf T x
  let r :=
    if typeFloat T then
      some (((List.range (if typeElems T = 16 then 4 else 3)).foldl (fun ps _ => pairUp (addPats (fmtOf T) m) ps) ps).headD 0)
    else variant T v ((ps.map (patInt T)).foldl (· + ·) 0)
  r.map fun p => ofElems T (List.replicate (typeElems T) p)

/-- One level of SCAN: distance `d`. -/
def scanLevel (f : FloatFmt) (m d : Nat) (ps : List Nat) : List Nat :=
  ps.zipIdx.map fun p => if d ≤ p.2 then addPats f m p.1 (ps.getD (p.2 - d) 0) else p.1

/-- SCAN: inclusive prefix sums; a NaN is canonical in every element, the first too (02 R40, R223). -/
def scanLanes (T v m : Nat) (x : Line) : Option Line :=
  let ps := elemsOf T x
  if typeFloat T then
    let f := fmtOf T
    let canon := ps.map fun p => if (f.val p).isNan then f.nanBits else p
    some (ofElems T ((List.range (if typeElems T = 16 then 4 else 3)).foldl (fun ps k => scanLevel f m (2 ^ k) ps) canon))
  else
    let rs := (List.range ps.length).map fun i => variant T v (((ps.take (i + 1)).map (patInt T)).foldl (· + ·) 0)
    if rs.all Option.isSome then some (ofElems T (rs.map fun r => r.getD 0)) else none

/-- RED (Table 10-7). -/
def execRed (T : BitVec 4) (q : BitVec 1) (v : BitVec 2) (u t : BitVec 9) (s : State) : Out :=
  .next (s.compute [.a] (q = 1) [t, u] fun rm val => redLanes T.toNat v.toNat (modeOf rm v.toNat) (val .a))

/-- SCAN (Table 10-7). -/
def execScan (T : BitVec 4) (q : BitVec 1) (v : BitVec 2) (u t : BitVec 9) (s : State) : Out :=
  .next (s.compute [.a] (q = 1) [t, u] fun rm val => scanLanes T.toNat v.toNat (modeOf rm v.toNat) (val .a))

/-- SHUF: element i is the element of a that element i of b names, mod E. -/
def execShuf (T : BitVec 4) (q : BitVec 1) (u t : BitVec 9) (s : State) : Out :=
  .next (s.compute [.a, .b] (q = 1) [t, u] fun _ val =>
    let T := T.toNat
    let E := typeElems T
    some (ofElems T ((List.range E).map fun i => elem T (val .a) (elem T (val .b) i % E))))

/-- BCST: every element is element `k`. -/
def execBcst (k T : BitVec 4) (t : BitVec 9) (s : State) : Out :=
  .next (s.compute [.a] false [t] fun _ val =>
    some (ofElems T.toNat (List.replicate (typeElems T.toNat) (elem T.toNat (val .a) k.toNat))))

/-- ROTL: element i is element (i + k) mod E. -/
def execRotl (k T : BitVec 4) (t : BitVec 9) (s : State) : Out :=
  .next (s.compute [.a] false [t] fun _ val =>
    let T := T.toNat
    let E := typeElems T
    some (ofElems T ((List.range E).map fun i => elem T (val .a) ((i + k.toNat) % E))))

/-! ### Bit islands (R224, 05 R120) -/

/-- The bit a selector names: an operand bit, a table's flip-flop, or a table's output. -/
def Island.pick (x : Island) (a : Line) (comb : List Bool) (sel : Nat) : Bool :=
  if sel < 512 then bitOf a sel
  else if bitOf (vget x.luts (sel - 512)) 56 then bitOf x.ff (sel - 512)
  else comb.getD (sel - 512) false

/-- One pass over the 64 tables with the outputs of the pass before. -/
def Island.pass (x : Island) (a : Line) (comb : List Bool) : List Bool :=
  x.luts.toList.map fun l =>
    let i (k : Nat) : Nat := if x.pick a comb (fldN l (16 + 10 * k) 10) then 2 ^ k else 0
    bitOf l (i 0 + i 1 + i 2 + i 3)

/-- Every table's output: 64 passes settle tables whose chains pass no flip-flop and no table twice (05 R121). -/
def Island.eval (x : Island) (a : Line) : List Bool :=
  (List.range 64).foldl (fun comb _ => x.pass a comb) (List.replicate 64 false)

/-- 64 bits from a list, bit 0 first. -/
def bitsOf (bs : List Bool) : BitVec 64 := BitVec.ofNat 64 (bs.foldr (fun b n => (if b then 1 else 0) + 2 * n) 0)

/-- An evaluation: the 64 outputs, and the island with its flip-flops after it (R224). -/
def Island.step (x : Island) (a : Line) : BitVec 64 × Island :=
  let comb := bitsOf (x.eval a)
  let ffs := bitsOf (x.luts.toList.map fun l => bitOf l 56)
  ((x.ff &&& ffs) ||| (comb &&& ~~~ffs), { x with ff := (comb &&& ffs) ||| (x.ff &&& ~~~ffs) })

/-- BITX: evaluate the island on one side, in the plane of the firing. -/
def execBitx (q side : BitVec 1) (u t : BitVec 9) (s : State) : Out :=
  .next (s.element [.a] (q = 1) [t, u] fun g val s =>
    let f := s.curFe
    let key := (f.die, feRow f, if side = 1 then feCol f + 1 else feCol f - 1, g.plane)
    let r := (mapGet {} s.islands key).step (val .a)
    .value { s with islands := mapSet s.islands key r.2 } (BitVec.ofNat 512 r.1.toNat))

/-! ### RNG (16 R341) -/

/-- RNG: sixteen outputs of a key and counter, their uniform values, or a swap of the plane's generator. -/
def execRng (T : BitVec 4) (q : BitVec 1) (u t : BitVec 9) (s : State) : Out :=
  .next (s.element [.a] (q = 1) [t, u] fun g val s =>
    let k := BitVec.ofNat 32 (lane (val .a) 0)
    let c := BitVec.ofNat 32 (lane (val .a) 1)
    let outs := (List.range 16).map fun i => mix k (c + BitVec.ofNat 32 i)
    if T = 7 then
      let p := s.plane s.curFe g.plane
      .value (s.modPlane s.curFe g.plane fun p => { p with genKey := k, genCtr := c })
        (ofLanes [p.genKey.toNat, p.genCtr.toNat])
    else if T = 10 then .value s (ofLanes (outs.map uniPat))
    else .value s (ofLanes (outs.map BitVec.toNat)))

/-- RESID: the greatest lane goes to the guard, a unchanged to the targets (07 R157). -/
def execResid (q : BitVec 1) (u t : BitVec 9) (s : State) : Out :=
  .next (s.element [.a] (q = 1) [t, u] fun g val s =>
    match s.planeOwner s.curFe g.plane with
    | none => .value s (val .a)
    | some r => .value (s.deliverResid r (val .a)) (val .a))

end Sys2Proof.Machine
end

