-- ==== Sys2Proof/Machine/Mtu.lean ====
section
/-! DEFINITION. The matrix tile unit: when a record starts, what each operation computes, its release point and its
result (14 R303-R311; 02 R51-R53). -/

namespace Sys2Proof.Machine

/-! ### Elements of tiles -/

/-- The payload as one little-endian number. -/
def Tile.bits (t : Tile) : Nat := t.payload.foldr (fun l n => l.toNat + n * 2 ^ 512) 0
def bitsAt (x lo n : Nat) : Nat := x / 2 ^ lo % 2 ^ n

/-- Width of a float type in bits. -/
def floatBits (T : Nat) : Nat := typeBits T

/-- The pattern of element (i, j) of a dense float tile. -/
def densePat (T cols x i j : Nat) : Nat := bitsAt x ((i * cols + j) * floatBits T) (floatBits T)

/-- The decoded value of element (i, j) of a dense tile (02 R37, R45). -/
def denseVal (h : Line) (x i j : Nat) : Val :=
  let t := hdrTile h
  if t.fmt = 12 then
    let (b, k) := if t.bcol then (j, i) else (i, j)
    bfpVal t.mw (hdrExp h b) (bitsAt x (16 * t.mw * b + t.mw * k) t.mw)
  else (fmtOf t.fmt).val (densePat t.fmt t.cols x i j)

/-- One row of a sparse tile: its 48 values, and how many of its groups are malformed (02 R53). -/
def sparseRow (h : Line) (x i : Nat) : List Val × Nat :=
  let t := hdrTile h
  let n := nspN t.nsp
  let mb := (n * t.mw + 1) / 2
  let (val, idx) : (Nat → Val) × (Nat → Nat) :=
    if t.fmt = 12 then
      let base := i * (mb + 2 * n) * 8
      (fun k => bfpVal t.mw (hdrExp h i) (bitsAt x (base + t.mw * k) t.mw), fun k => bitsAt x (base + mb * 8 + 4 * k) 4)
    else
      (fun k => (fmtOf t.fmt).val (bitsAt x ((i * 4 * n + k) * 16) 16),
       fun k => bitsAt x (t.rows * 4 * n * 16 + i * 2 * n * 8 + 4 * k) 4)
  let bad (g : Nat) : Bool := (List.range n).any fun j =>
    decide (11 < idx (g * n + j)) || (decide (0 < j) && decide (idx (g * n + j) ≤ idx (g * n + j - 1)))
  let zero := Val.fin false 0 0
  let row := (List.range 48).map fun c =>
    let g := c / 12
    if bad g then zero
    else match (List.range n).find? fun j => idx (g * n + j) = c % 12 with
      | some j => val (g * n + j)
      | none => zero
  (row, ((List.range 4).filter bad).length)

/-- A payload from element patterns of `w` bits. -/
def packTokens (w : Nat) (ps : List Nat) : List Line :=
  let bytes := ps.flatMap fun p => leBytes (w / 8) p
  (List.range ((bytes.length + 63) / 64)).map fun k => lineOf ((bytes.drop (64 * k)).take 64)
/-- A dense float tile from its patterns in row-major order. -/
def denseTile (T rows cols scale : Nat) (ps : List Nat) : Tile :=
  { header := mkHdr { fmt := T, rows, cols } false scale [], payload := packTokens (floatBits T) ps }
/-- A .bfp tile from its blocks. -/
def bfpTile (t : TileFmt) (scale : Nat) (bs : List (Nat × List Nat)) : Tile :=
  { header := mkHdr t false scale (bs.map (·.1)), payload := packTokens (16 * t.mw) (bs.map fun b => bfpPack t.mw b.2) }

def hdrScaleVal (h : Line) : Val := (fmtOf 10).val (hdrScale h)

/-! ### Products (R307, R308) -/

/-- Row-major pairs. -/
def pairsOf (rows cols : Nat) : List (Nat × Nat) := (List.range rows).flatMap fun i => (List.range cols).map fun j => (i, j)

/-- One element of a product: the exact sum of `a k × b k × scale k` and C, rounded once. The mantissa products of .bfp are integers,
whose zeros have no sign but their scale's: their sum of zero is -0 when every scale is negative, and under RDN when it is formed from
products, or from zeros, of opposite signs (02 R41, R51). -/
def dotRound (TD mode : Nat) (bfp : Bool) (scales as bs : List Val) (c : List Val) : Nat :=
  let qs := ((as.zip bs).zip scales).map fun p => mulVal (mulVal p.1.1 p.1.2) p.2
  let xs := if bfp then (match sumVals mode qs with
      | .fin _ 0 _ => [Val.fin (if (qs.any fun q => !q.isZero) || (scales.any Val.neg && !scales.all Val.neg) then mode = 2 else scales.all Val.neg) 0 0]
      | x => [x])
    else qs
  (fmtOf TD).roundVal mode (sumVals mode (xs ++ c))

/-- `MMA` (R307). -/
def mmaTile (mode : Nat) (f : MtuFields) (a b : Tile) (c : Option Tile) : Tile :=
  let TD := f.td.toNat
  let K := if TD = 11 then 8 else 16
  let (xa, xb) := (a.bits, b.bits)
  let scale := mulVal (hdrScaleVal a.header) (hdrScaleVal b.header)
  let cv (i j : Nat) : List Val := match c with
    | none => []
    | some t => [mulVal (denseVal t.header t.bits i j) (hdrScaleVal t.header)]
  denseTile TD K K 0x3F800000 ((pairsOf K K).map fun p =>
    dotRound TD mode (f.ta = 12) (List.replicate K scale) ((List.range K).map fun k => denseVal a.header xa p.1 k)
      ((List.range K).map fun k => denseVal b.header xb k p.2) (cv p.1 p.2))

/-- `MMAS` (R308), and how many groups of A are malformed. Each of the three B tiles has its own SCALE. -/
def mmasTile (mode : Nat) (f : MtuFields) (a : Tile) (bs : List Tile) (c : Option Tile) : Tile × Nat :=
  let xa := a.bits
  let rows := (List.range 16).map fun i => sparseRow a.header xa i
  let bx := bs.map fun t => (t.header, t.bits)
  let bval (k j : Nat) : Val :=
    let t := bx.getD (k / 16) default
    denseVal t.1 t.2 (k % 16) j
  let scales := (List.range 48).map fun k => mulVal (hdrScaleVal a.header) (hdrScaleVal (bx.getD (k / 16) default).1)
  let cv (i j : Nat) : List Val := match c with
    | none => []
    | some t => [mulVal (denseVal t.header t.bits i j) (hdrScaleVal t.header)]
  let void (i j : Nat) : Bool := f.ta = 12 && (hdrExp a.header i = 0xFF || bx.any fun t => hdrExp t.1 j = 0xFF)
  (denseTile 10 16 16 0x3F800000 ((pairsOf 16 16).map fun p =>
    if void p.1 p.2 then (fmtOf 10).nanBits
    else dotRound 10 mode (f.ta = 12) scales (rows.getD p.1 default).1
      ((List.range 48).map fun k => bval k p.2) (cv p.1 p.2)),
   (rows.map (·.2)).foldl (· + ·) 0)

/-! ### Element by element (R309-R311) -/

/-- `TADD` and `TSCL` (R309). -/
def addTile (mode : Nat) (f : MtuFields) (a b : Tile) : Tile :=
  let T := f.td.toNat
  let t := hdrTile a.header
  let (xa, xb) := (a.bits, b.bits)
  denseTile T t.rows t.cols 0x3F800000 ((pairsOf t.rows t.cols).map fun p =>
    (fmtOf T).roundVal mode (sumVals mode [mulVal (denseVal a.header xa p.1 p.2) (hdrScaleVal a.header),
      mulVal (denseVal b.header xb p.1 p.2) (hdrScaleVal b.header)]))
def sclTile (mode : Nat) (f : MtuFields) (a b : Tile) : Tile :=
  let T := f.td.toNat
  let t := hdrTile a.header
  let u := hdrTile b.header
  let (xa, xb) := (a.bits, b.bits)
  denseTile T t.rows t.cols 0x3F800000 ((pairsOf t.rows t.cols).map fun p =>
    (fmtOf T).roundVal mode (mulVal (mulVal (denseVal a.header xa p.1 p.2) (hdrScaleVal a.header))
      (mulVal (denseVal b.header xb (if u.rows = 1 then 0 else p.1) (if u.cols = 1 then 0 else p.2)) (hdrScaleVal b.header))))

/-- Round an exact quotient to an integer stochastically (02 R43). -/
def rndStoch (u : Nat) : Val → Int
  | .nan => 0
  | .inf _ => 0
  | .fin n m e =>
    if 0 ≤ e then (if n then -1 else 1) * (m * 2 ^ e.toNat : Nat)
    else
      let k := (-e).toNat
      let w := m / 2 ^ k
      let r := m % 2 ^ k
      if r = 0 then (if n then -1 else 1) * (w : Nat)
      else if n then (if u * 2 ^ k < (2 ^ k - r) * 2 ^ 24 then -(w : Int) else -((w : Int) + 1))
      else (if u * 2 ^ k < r * 2 ^ 24 then (w : Int) + 1 else w)
/-- Does a quotient lie between two integers? -/
def drawsInt : Val → Bool
  | .nan => false
  | .inf _ => false
  | .fin _ m e => decide (e < 0) && m % 2 ^ (-e).toNat ≠ 0

/-- `TCVT` (R310): the tile, and the draws it takes. -/
def cvtTile (mode stages : Nat) (key ctr : BitVec 32) (f : MtuFields) (a : Tile) : Tile × Nat :=
  let t := hdrTile a.header
  let x := a.bits
  let TD := f.td.toNat
  let scale := hdrScale a.header
  let sr := f.sr = 1
  if TD = 12 then
    let m := f.mw.toNat
    let bcol := decide (f.bcol = 1)
    let nb := if bcol then t.cols else t.rows
    let blocks := (List.range nb).map fun b =>
      let ps := (List.range 16).map fun k => densePat t.fmt t.cols x (if bcol then k else b) (if bcol then b else k)
      let xs := bfpInputs t.fmt stages ps
      let void := xs.any fun v => match v with
        | .fin _ _ _ => false
        | .nan => true
        | .inf _ => true
      let E := if void then 0xFF else bfpExp xs
      (E, if E = 0 || E = 0xFF then xs.map fun _ => Val.fin false 0 0
          else xs.map fun v => v.scale (-((E : Int) - 127 - ((m : Int) - 1))))
    let q (i j : Nat) : Val := ((blocks.getD (if bcol then j else i) default).2).getD (if bcol then i else j) (.fin false 0 0)
    let order := pairsOf t.rows t.cols
    let r : List Int × Nat :=
      if sr then drawEach key ctr drawsInt (fun v u => rndStoch u v) (order.map fun p => q p.1 p.2)
      else (order.map fun p => ((q p.1 p.2).toIntMode mode).getD 0, 0)
    let mant (i j : Nat) : Nat := satS m (r.1.getD (i * t.cols + j) 0)
    let bs := blocks.zipIdx.map fun b =>
      (b.1.1, (List.range 16).map fun k => if bcol then mant k b.2 else mant b.2 k)
    (bfpTile { fmt := 12, mw := m, bcol, rows := t.rows, cols := t.cols } scale bs, r.2)
  else
    let fD := fmtOf TD
    let vs := (pairsOf t.rows t.cols).map fun p => denseVal a.header x p.1 p.2
    let r : List Nat × Nat := if sr then drawEach key ctr fD.draws (fun v u => fD.roundStoch u v) vs
                              else (vs.map (fD.roundVal mode), 0)
    (denseTile TD t.rows t.cols scale r.1, r.2)

/-- `TTRN` (R311). -/
def trnTile (a : Tile) : Tile :=
  let t := hdrTile a.header
  if t.fmt = 12 then
    { header := mkHdr { t with bcol := !t.bcol, rows := t.cols, cols := t.rows } false (hdrScale a.header)
        ((List.range 16).map (hdrExp a.header)), payload := a.payload }
  else
    let x := a.bits
    denseTile t.fmt t.cols t.rows (hdrScale a.header)
      ((pairsOf t.cols t.rows).map fun p => densePat t.fmt t.cols x p.2 p.1)

/-! ### Starting (R303-R305) -/

/-- Destination, reads of a record word. -/
def recReads (w : BitVec 64) : List (Nat × Nat × Expect) := mtuReads (fldN w 58 6) (mtuFields w)

/-- Is a record ready: its slots FULL, its destination EMPTY (R303)? -/
def Fe.recReady (x : Fe) (w : BitVec 64) : Bool :=
  decide (fldN w 58 6 ≠ 0) && decide ((vget x.tiles (fldN w 0 4)).tag = .empty) &&
  (recReads w).all fun r => decide ((vget x.tiles r.1).tag = .full)

/-- The entry the MTU starts next (R303). -/
def Fe.nextEntry (x : Fe) : Option Nat :=
  let p := vget x.planes x.active
  ((List.range 8).map fun i => (p.lastMtu + 1 + i) % 8).find? fun e => x.recReady (vget p.recs e)

/-- Busy cycles (Table 14-4). -/
def mtuBusy (op : Nat) (f : MtuFields) (stages elems : Nat) : Nat :=
  let m := f.mw.toNat
  let pad := if m ≤ 2 then 2 else if m ≤ 4 then 4 else 8
  let ta := f.ta.toNat
  match op with
  | 1 => if ta = 12 then pad else if ta = 11 then 64 else if ta = 10 then 128 else 32
  | 2 => if ta = 12 then (pad * nspN f.nsp.toNat + 3) / 4 else 8 * nspN f.nsp.toNat
  | _ => (if ta = 11 then (elems + 7) / 8 else (elems + 15) / 16) + (if op = 5 then stages else 0)

/-- The format of the VOID tile of an operation whose operands do not fit: 1 × 1 where the shape depends on an invalid
header (R305). -/
def mtuVoidFmt (op : Nat) (f : MtuFields) (a : Line) : TileFmt :=
  let m := if f.td = 12 then f.mw.toNat else 0
  let ok := hdrValid a
  let t := hdrTile a
  let sh : Nat × Nat := match op with
    | 1 => if f.td = 11 then (8, 8) else (16, 16)
    | 2 => (16, 16)
    | 6 => if ok then (t.cols, t.rows) else (1, 1)
    | _ => if ok then (t.rows, t.cols) else (1, 1)
  { fmt := f.td.toNat, mw := m, rows := sh.1, cols := sh.2
    bcol := f.td = 12 && (if op = 6 then !t.bcol else f.bcol = 1) }

/-- Does an operand's shape fit the operation, beyond its own expectation (R305, R310)? -/
def mtuShapeBad (op : Nat) (f : MtuFields) (hs : List Line) : Bool :=
  let a := hdrTile (hs.getD 0 0)
  let b := hdrTile (hs.getD 1 0)
  match op with
  | 3 => decide (b.rows ≠ a.rows ∨ b.cols ≠ a.cols)
  | 4 => !(decide (b.rows = a.rows ∨ b.rows = 1) && decide (b.cols = a.cols ∨ b.cols = 1))
  | 5 =>
    if f.td = 12 then (if f.bcol = 1 then decide (a.rows ≠ 16 ∨ 16 < a.cols) else decide (a.cols ≠ 16 ∨ 16 < a.rows))
    else decide (1024 < ({ fmt := f.td.toNat, rows := a.rows, cols := a.cols } : TileFmt).bytes)
  | _ => false

/-- What an operation computes from its operand tiles: the result, malformed groups, draws taken (R307-R311). -/
def mtuResultOf (op mode stages : Nat) (key ctr : BitVec 32) (f : MtuFields) (ts : List Tile) : Tile × Nat × Nat :=
  let t (k : Nat) : Tile := ts.getD k default
  match op with
  | 1 => (mmaTile mode f (t 0) (t 1) ts[2]?, 0, 0)
  | 2 => let r := mmasTile mode f (t 0) [t 1, t 2, t 3] ts[4]?
         (r.1, r.2, 0)
  | 3 => (addTile mode f (t 0) (t 1), 0, 0)
  | 4 => (sclTile mode f (t 0) (t 1), 0, 0)
  | 5 => let r := cvtTile mode stages key ctr f (t 0)
         (r.1, 0, r.2)
  | _ => (trnTile (t 0), 0, 0)

/-- An operation with its result: the headers of its operands are checked and the result is formed (R305, R307-R311); how many draws it
takes. Its operands stand in their slots from its start to its release point. -/
def MtuOp.form (o : MtuOp) (x : Fe) : MtuOp × Nat :=
  let p := vget x.planes o.plane
  let rs := mtuReads o.op o.fields
  let ts := rs.map fun r => (vget x.tiles r.1).tile
  let hs := ts.map (·.header)
  let bad := ((rs.zip hs).any fun p => hdrRefused (some p.1.2.2) p.2) || mtuShapeBad o.op o.fields hs
  let r := if bad || hs.any hdrVoid then (voidTile (mtuVoidFmt o.op o.fields (hs.getD 0 0)), 0, 0)
           else mtuResultOf o.op (modeOf p.rounding o.fields.rm.toNat) o.stages o.genKey o.genCtr o.fields ts
  ({ o with result := r.1, mismatch := bad, malformed := r.2.1 }, r.2.2)

/-- Start the operation of the current record of the current FE: the MTU is free, the record is the next to start and
its residency may start work (R303, R304). A `TCVT` takes its draws in this cycle (16 R340). -/
def State.mtuStart (s : State) (op : Nat) (f : MtuFields) : State :=
  let fe := s.curFe
  let x := s.fe fe
  if (s.mayStart fe false).isNone || x.mtu.isSome || decide (x.nextEntry ≠ some s.curMtu) then s
  else
    let rs := mtuReads op f
    let a := hdrTile ((rs.head?.map fun r => (vget x.tiles r.1).tile.header).getD 0)
    let stages := if op = 5 && f.td = 12 then fldN (s.routeOf fe x.active) (464 + 3 * s.curMtu) 3 else 0
    let o : MtuOp := { plane := x.active, entry := s.curMtu, dst := f.dst.toNat, reads := rs.map fun r => (r.1, r.2.1)
                       op, fields := f, stages, start := s.cyc, busy := mtuBusy op f stages (a.rows * a.cols)
                       genKey := (vget x.planes x.active).genKey, genCtr := (vget x.planes x.active).genCtr }
    let draws := if op = 5 then (o.form x).2 else 0
    let s := s.modFe fe fun x => { x with mtu := some o }
    let s := s.modTileSlot fe f.dst.toNat fun t => { t with tag := .reserved }
    s.modPlane fe x.active fun p => { p with lastMtu := s.curMtu, genCtr := p.genCtr + BitVec.ofNat 32 draws }

/-- MMA (R307). -/
def execMma (f : MtuFields) (s : State) : Out := .next (s.mtuStart 1 f)
/-- MMAS (R308). -/
def execMmas (f : MtuFields) (s : State) : Out := .next (s.mtuStart 2 f)
/-- TADD (R309). -/
def execTadd (f : MtuFields) (s : State) : Out := .next (s.mtuStart 3 f)
/-- TSCL (R309). -/
def execTscl (f : MtuFields) (s : State) : Out := .next (s.mtuStart 4 f)
/-- TCVT (R310). -/
def execTcvt (f : MtuFields) (s : State) : Out := .next (s.mtuStart 5 f)
/-- TTRN (R311). -/
def execTtrn (f : MtuFields) (s : State) : Out := .next (s.mtuStart 6 f)

/-- The release point, B cycles after the start: the operands are read, every slot read takes `Read`, the counts rise (R304, R305,
R308). -/
def execMtuReleasePoint (f : FeId) (s : State) : Out :=
  .next (match (s.fe f).mtu with
    | none => s
    | some o =>
      if s.cyc < o.start + o.busy then s
      else
        let o := (o.form (s.fe f)).1
        let s := o.reads.foldl (fun s r => s.readTile f r.1 r.2) s
        let s := s.countVoid f (if o.mismatch then 1 else 0)
        (s.modFe f fun x => { x with mtu := none, mtuOut := x.mtuOut ++ [o], malformed := x.malformed + BitVec.ofNat 32 o.malformed }).count
          f.die 6 o.malformed)

/-- Ten cycles after the release point the destination is FULL (R304). -/
def execMtuResult (f : FeId) (s : State) : Out :=
  .next (match (s.fe f).mtuOut with
    | [] => s
    | o :: os =>
      if s.cyc < o.start + o.busy + 10 then s
      else (s.fillTile f o.dst o.result none []).modFe f fun x => { x with mtuOut := os })

end Sys2Proof.Machine
end

