-- ==== Sys2Proof/Machine/Fabric.lean ====
section
/-! DEFINITION. What happens in the fabric between instructions: firings start, planes drain, cuts are taken, tokens hop,
credits return, the heads of ports act (05 R113-R119; 08 R164-R166; 10 R199-R201, R209, R210; 11 R229; 18 R368, R375). -/

namespace Sys2Proof.Machine

/-! ### Room and rates (05 R118; 08 R164, R165) -/

/-- Places of an input port: 8, and behind a rotation's back port its delay stages (05 R122; log entry 12). -/
def State.inLimit (s : State) (f : FeId) (plane port : Nat) : Nat :=
  match s.planeOwner f plane with
  | none => 8
  | some r => match (s.res r).rots.find? fun q => decide (q.seam = f ∧ q.plane = plane ∧ q.back ≤ port ∧ port < q.back + q.width) with
    | none => 8
    | some q => 8 + (q.depth - q.latency)

/-- Places an input port has in use: tokens held, places whose credit is owed, tokens a firing has read. -/
def State.inUsed (s : State) (f : FeId) (plane port : Nat) : Nat :=
  let q := vget (s.plane f plane).inp port
  let read := match (s.fe f).firingOf plane with
    | none => 0
    | some g => (g.pins.filter fun p => decide (p.port = port) && p.fresh.isSome).length
  q.fifo.length + q.owed + read

/-- Does the next token that reaches a port come behind one that a firing has read and may give back? -/
def State.headTaken (s : State) (f : FeId) (plane port : Nat) : Bool :=
  ((s.fe f).firingOf plane).any fun g => g.pins.any fun p => decide (p.port = port) && p.fresh.isSome

/-- A token enters an input port: a port that a tile edge enters checks and frames it (02 R57, R58); it may stand at the head at
once. -/
def State.putIn (s : State) (f : FeId) (plane port : Nat) (t : Token) : State :=
  let q := vget (s.plane f plane).inp port
  let q := if t.kind = 5 then { q with eosIn := q.eosIn + 1 } else q
  let (q, bad) := match (s.edgeInto f plane port).filter fun e => bitOf e.cdecl 0 with
    | none => ({ q with fifo := q.fifo ++ [t] }, 0)
    | some e => q.frameTok (declTile e.cdecl) t
  let s := (if bad = 0 then s else s.countVoid f bad).modIn f plane port fun _ => q
  if s.headTaken f plane port then s else s.headArrives f plane port

/-- Do the input ports hold what a block consumes: a token for each PIN, a whole packet of its edge's declaration for each TFILL,
or the header alone on a port that no edge enters (R118, R164; 14 R312)? -/
def State.consumes (s : State) (f : FeId) (plane : Nat) (b : Block) : Bool :=
  b.slots.all fun p =>
    let port := fldN p.2 22 3
    let q := vget (s.plane f plane).inp port
    let open_ := !s.stoppedPort f port false
    if wordOp p.2 = 1 then q.resident.isSome || (open_ && !q.fifo.isEmpty)
    else if wordOp p.2 = 0x5A then match q.fifo with
      | [] => false
      | h :: _ => open_ && (h.kind ≠ 0 || match s.edgeInto f plane port with
        | none => true
        | some e => decide (1 + (declTile e.cdecl).tokens ≤ (q.fifo.filter fun t => t.kind = 0).length))
    else true

/-- The format that a plane's records fix for a slot: the one they expect there, or that of the result they put there, from the format of
A for an operation whose shape A gives (R118; 14 R300, R305). -/
def Plane.slotFmt (p : Plane) : Nat → Nat → Option TileFmt
  | 0, _ => none
  | n + 1, k =>
    match (p.slotDecl k).filter fun e => e.shape.isSome with
    | some e => some e.tile
    | none => match p.recs.toList.find? fun w => decide (fldN w 58 6 ≠ 0 ∧ fldN w 0 4 = k) with
      | none => none
      | some w =>
        let op := fldN w 58 6
        let f := mtuFields w
        if op ≤ 2 then some (mtuVoidFmt op f 0)
        else (p.slotFmt n f.sa.toNat).map fun a => mtuVoidFmt op f (mkHdr a false 0x3F800000 [])
/-- Tokens of the packet that a TOUT of slot `k` emits on a port that no edge leaves: those of the format that a TFILL of the block or
the plane's records fix for the slot; else as many as the header states that stands in the slot, or that a TFILL of the same block is
to put there. Where none is there when the firing is decided, the header alone counts, as for a TFILL without an edge (R118; 14 R312;
DESIGN CHOICE, log entry 13). -/
def State.streamPacket (s : State) (f : FeId) (plane : Nat) (b : Block) (slot k : Nat) : Nat :=
  let fills := b.slots.filter fun p => decide (p.1 < slot ∧ wordOp p.2 = 0x5A ∧ fldN p.2 18 4 = k)
  let edge := fills.getLast?.bind fun p => s.edgeInto f plane (fldN p.2 22 3)
  match edge, (s.plane f plane).slotFmt 9 k, fills.getLast? with
  | some e, _, _ => 1 + (declTile e.cdecl).tokens
  | none, some t, _ => 1 + t.tokens
  | none, none, some (_, w) => match (vget (s.plane f plane).inp (fldN w 22 3)).fifo with
    | h :: _ => if h.kind = 0 && hdrValid h.data then 1 + (hdrTile h.data).tokens else 1
    | [] => 1
  | none, none, none =>
    let t := vget (s.fe f).tiles k
    if t.tag = .full then 1 + (hdrTile t.tile.header).tokens else 1

/-- The greatest number of tokens a firing of the block emits on a port. -/
def State.production (s : State) (f : FeId) (plane : Nat) (b : Block) (port : Nat) : Nat :=
  (b.slots.map fun p =>
    let outs := ((wordTargets p.2).filter fun t => decide (tgtClass t = 5 ∧ tgtIdx t = port)).length
    let here := decide (fldN p.2 22 3 = port)
    outs + (if wordOp p.2 = 2 && here then 1
            else if wordOp p.2 = 0x5B && here then match s.edgesFrom f plane port with
              | [] => s.streamPacket f plane b p.1 (fldN p.2 18 4)
              | e :: _ => 1 + (declTile e.pdecl).tokens
            else 0)).foldl (· + ·) 0

/-- Have the output ports room for what a block produces (R164)? -/
def State.produces (s : State) (f : FeId) (plane : Nat) (b : Block) : Bool :=
  (List.range 8).all fun k => decide (s.production f plane b k ≤ (vget (s.plane f plane).outp k).free)

/-! ### The firing decision (10 R199) -/

/-- Rows of Table 10-1. -/
inductive Decision where
  | none | drain | cut | fire
  deriving DecidableEq, Repr, Inhabited

def Plane.decision (p : Plane) : Decision :=
  let ins := p.unionIn
  let all (k : BitVec 3) : Bool := ins.all fun i => match (vget p.inp i).fifo with
    | [] => false
    | h :: _ => h.kind = k
  let some_ (k : BitVec 3) : Bool := ins.any fun i => match (vget p.inp i).fifo with
    | [] => false
    | h :: _ => h.kind = k
  if p.drained then .none
  else if ins.isEmpty then if p.fired then .drain else .fire
  else if all 5 then .drain
  else if all 6 then .cut
  else if some_ 6 then .none
  else .fire

/-- Is the selected block of a plane a seam (11 R231)? -/
def Plane.isSeam (p : Plane) : Bool := match vget p.blocks p.sel with
  | none => false
  | some b => match b.words with
    | [] => false
    | w :: _ => wordOp w = 0x6B

/-- Is a slot in flight in the loop an FE belongs to (11 R227)? -/
def State.loopBusy (s : State) (f : FeId) : Bool := match s.loopOf f (s.fe f).active with
  | none => false
  | some (_, q) => q.slots.any (·.inflight)

/-- Trace the start of a firing (19 Table 19-2 class 0): the block, and the ordinal in the upper half. -/
def State.traceFiring (s : State) (f : FeId) (plane block : Nat) : State :=
  match s.planeOwner f plane with
  | none => s
  | some r => s.traceRec f.die 0 (s.res r).asid (some r.idx) (s.throughDoor (some r)) f.page f.pos plane (wordN (block + (s.fe f).ordinal % 2 ^ 32 * 2 ^ 32)) 0

/-- Begin a firing of a block; firings are counted from arming (10 R206). -/
def State.beginFiring (s : State) (f : FeId) (plane block : Nat) (kind : FireKind) : State :=
  (s.traceFiring f plane block).modFe f fun x =>
    { x with firing := some { plane, block, kind, ordinal := x.ordinal }, ordinal := x.ordinal + 1 }

/-- The state an FE decides in: its ports' heads have acted; none while a firing runs or the FE may not start one. -/
def State.decides (s : State) (f : FeId) : Option State :=
  if (s.fe f).firing.isSome || s.stoppedFe f then none
  else
    let s := s.settle f (s.fe f).active
    (s.mayStart f (s.loopBusy f)).map fun _ => s

/-- FIRING_START: row 6 of Table 10-1. -/
def execFiringStart (f : FeId) (s : State) : Out :=
  .next (match s.decides f with
    | none => s
    | some s =>
      let plane := (s.fe f).active
      let p := s.plane f plane
      match vget p.blocks p.sel with
      | none => s
      | some b => if p.decision = .fire && !p.isSeam && s.consumes f plane b && s.produces f plane b then
          s.beginFiring f plane p.sel .normal
        else s)

/-- The lowest-indexed block of a kind. -/
def Plane.blockOfKind (p : Plane) (k : Nat) : Option (Nat × Block) :=
  (List.range 8).findSome? fun n => match vget p.blocks n with
    | none => none
    | some b => if fldN b.header 24 2 = k then some (n, b) else none

/-- PLANE_DRAIN: rows 2 and 3; with no drain block the plane ends its emissions at once (R200). -/
def execPlaneDrain (f : FeId) (s : State) : Out :=
  .next (match s.decides f with
    | none => s
    | some s =>
      let plane := (s.fe f).active
      let p := s.plane f plane
      if p.decision ≠ .drain || p.isSeam then s
      else match p.blockOfKind 2 with
        | some (n, b) => if s.produces f plane b then s.beginFiring f plane n .drain else s
        | none => if p.room p.unionOut then s.endDrain f { plane, block := 0, kind := .drain } else s)

/-- Is the MARK at the heads of a plane's ports one of a debug cut? -/
def Plane.debugMark (p : Plane) : Bool := p.unionIn.any fun k => (vget p.inp k).fifo.head?.any fun t => (markOf t).2

/-- CUT_TAKE: row 4, once every access the port issued has performed; in a debug cut no cut block fires (R201, 18 R368;
19 R388). -/
def execCutTake (f : FeId) (s : State) : Out :=
  .next (match s.decides f with
    | none => s
    | some s =>
      let plane := (s.fe f).active
      let p := s.plane f plane
      if p.decision ≠ .cut || p.isSeam || (s.fe f).port.any (fun o => decide (o.plane = plane)) then s
      else match if p.debugMark then none else p.blockOfKind 3 with
        | some (n, b) => if s.produces f plane b then s.beginFiring f plane n .cut else s
        | none => if p.room p.unionOut then s.endCut f { plane, block := 0, kind := .cut } else s)

/-- Could an FE start a firing of any kind now? -/
def State.canStart (s : State) (f : FeId) : Bool :=
  match s.decides f with
  | none => false
  | some s =>
    let plane := (s.fe f).active
    let p := s.plane f plane
    let ready (b : Option (Nat × Block)) : Bool := match b with
      | some (_, b) => s.produces f plane b
      | none => p.room p.unionOut
    if p.isSeam then false
    else match p.decision with
      | .none => false
      | .drain => ready (p.blockOfKind 2)
      | .cut => ready (if p.debugMark then none else p.blockOfKind 3)
      | .fire => match vget p.blocks p.sel with
        | none => false
        | some b => s.consumes f plane b && s.produces f plane b

/-- PORT_HEAD_TOKEN: a port acts on the tokens that reach its head, outside firings of its plane (R209, R210). -/
def execPortHeadToken (f : FeId) (port : Nat) (s : State) : Out :=
  .next (
    let plane := (s.fe f).active
    if (s.fe f).firing.isSome || s.front.dbg.frozen then s
    else s.settlePort f plane port ((vget (s.plane f plane).inp port).fifo.length + 1))

/-! ### Tokens on their way (05 R112-R115) -/

/-- The residency whose tokens a box's registers hold: plane 5's, or the others'. -/
def State.boxOwner (s : State) (die row col : Nat) (p5 : Bool) : Option (ResId × Residency) :=
  match (s.die die).res.find? fun p => decide (p.2.state = .armed) && p.2.urgent == p5 && p.2.covers row col &&
      p.2.predecessor.isNone with
  | some p => some (⟨die, p.1⟩, p.2)
  | none => ((s.die die).res.find? fun p => decide (p.2.state = .armed) && p.2.urgent == p5 && p.2.covers row col).map
      fun p => (⟨die, p.1⟩, p.2)

/-- The plane whose routing word a box obeys: an FE's own, an island's or slice's the residency's. -/
def State.boxPlane (s : State) (die row col : Nat) (p5 : Bool) (x : Residency) : Nat :=
  if p5 then 5
  else match feAt die row col with
    | none => x.plane
    | some f => ((s.fe f).beneath).getD (s.fe f).active

/-- Where a token of a source goes at a box: outgoing tracks, and input ports of the site. -/
structure Dests where
  tracks : List (Nat × Nat)
  ports : List Nat
  deriving DecidableEq, Repr, Inhabited

/-- What an incoming track (side, track) drives at a box with a routing word. -/
def trackDests (w : Line) (isFe : Bool) (side track : Nat) : Dests :=
  { tracks := ((List.range 64).filter fun k =>
      let c := fldN w (6 * k) 6
      let others := [0, 1, 2, 3].filter fun x => x ≠ k / 16
      1 ≤ c && c ≤ 48 && others.getD ((c - 1) / 16) 4 = side && (c - 1) % 16 = track).map fun k => (k / 16, k % 16)
    ports := if isFe then (List.range 8).filter fun k =>
        let c := fldN w (384 + 7 * k) 7
        1 ≤ c && c ≤ 64 && (c - 1) / 16 = side && (c - 1) % 16 = track
      else [] }
/-- What an output port drives at its own box. -/
def portDests (w : Line) (port : Nat) : Dests :=
  { tracks := ((List.range 64).filter fun k => fldN w (6 * k) 6 = 49 + port).map fun k => (k / 16, k % 16), ports := [] }

def sideOf : Nat → Side
  | 0 => .n
  | 1 => .e
  | 2 => .s
  | _ => .w
def sideNum : Side → Nat
  | .n => 0
  | .e => 1
  | .s => 2
  | .w => 3
/-- The box a track of length `n` leads to, if it is on the die (log entry 11). -/
def boxAway (row col side n : Nat) : Option (Nat × Nat) := match side with
  | 0 => if n ≤ row then some (row - n, col) else none
  | 1 => if col + n < 64 then some (row, col + n) else none
  | 2 => if row + n < 24 then some (row + n, col) else none
  | _ => if n ≤ col then some (row, col - n) else none
def trackLength (t : Nat) : Nat := if t < 8 then 1 else if t < 14 then 4 else 16

/-- A token arrives at an input port. Emitted after an EOS on its port it is discarded and counted, and its place's credit
goes back (10 R213). At an edge that is no loop edge SF and SH are dropped (11 R229). -/
def State.arriveAt (s : State) (f : FeId) (plane port : Nat) (t : Token) : State :=
  if t.late then (s.countVoid f 1).modIn f plane port fun q => { q with owed := q.owed + t.places }
  else s.putIn f plane port (if s.loopPort f plane port then t else { t with sf := false, sh := false })

/-- Has a port of a plane that a spliced successor follows taken its EOS? What comes behind it is the successor's, and waits until
the FE has switched (06 R138). -/
def State.endedPort (s : State) (f : FeId) (plane port : Nat) : Bool :=
  let p := s.plane f plane
  (p.drained || (vget p.inp port).fifo.any fun t => t.kind = 5) && match s.planeOwner f plane with
    | none => false
    | some r => (s.res r).successor.isSome
/-- Is a token one of a spliced successor, for a port that still runs the predecessor: it waits, wherever the EOS is (06 R138)? -/
def State.aheadOf (s : State) (f : FeId) (plane : Nat) (t : Token) : Bool := match t.next, s.planeOwner f plane with
  | some n, some r => (s.res r).successor.any fun k => decide ((s.res ⟨r.die, k⟩).armSeq = n)
  | some _, none => false
  | none, _ => false
/-- May a token enter an input port? One to be discarded takes no place in its FIFO. -/
def State.portRoom (s : State) (f : FeId) (plane port : Nat) (t : Token) : Bool :=
  (t.late || (decide (s.inUsed f plane port < s.inLimit f plane port) && !s.endedPort f plane port)) && !s.aheadOf f plane t

/-- Move a token from a source into all its destinations at once; none when it must stay. A register leads out of the
pitch for no token (R114). -/
def State.spread (s : State) (die row col : Nat) (p5 : Bool) (x : Residency) (d : Dests) (t : Token) : Option State :=
  let key (y : Nat × Nat) : LatchKey := ⟨die, row, col, sideOf y.1, y.2, p5⟩
  let plane := s.boxPlane die row col p5 x
  let f := (feAt die row col).getD default
  let out (y : Nat × Nat) : Bool := match boxAway row col y.1 (trackLength y.2) with
    | none => false
    | some b => x.covers b.1 b.2
  if (d.tracks.isEmpty && d.ports.isEmpty) || (d.tracks.any fun y => !out y || (mapFind s.latches (key y)).isSome) ||
      d.ports.any (fun k => !s.portRoom f plane k t) then none
  else
    let s := d.tracks.foldl (fun s y => { s with latches := mapSet s.latches (key y) t }) s
    some (d.ports.foldl (fun s k => s.arriveAt f plane k t) s)

/-- The plane of a spliced predecessor at an FE that has passed to its successor: what it has emitted may still be in its output
registers (06 R138). -/
def State.leftPlane (s : State) (f : FeId) : Option Nat :=
  if (s.fe f).switched then ((s.die f.die).res.find? fun p => p.2.pages.contains f.page && p.2.successor.isSome).map fun p => p.2.plane
  else none
/-- Planes whose tokens at an FE's output port may move, and whether plane 5's do: not while plane 5 holds them (18 R375); a
spliced predecessor's go first (06 R138). -/
def State.outSource (s : State) (f : FeId) (port : Nat) : List (Nat × Bool) :=
  match (s.fe f).beneath with
  | some _ => [(5, true)]
  | none => match (s.leftPlane f).filter fun k => !(vget (s.plane f k).outp port).reg.isEmpty with
    | some k => [(k, false)]
    | none => [((s.fe f).active, decide ((s.fe f).active = 5))]

/-- A token leaves an output register: onto every track that the routing word drives from its port and every network edge, in one
step (R113, R115); with neither it stays for a stream binding. What an FE that the debugger has stopped has emitted waits in its output
registers (19 R384). -/
def State.hopOut (s : State) (f : FeId) (port : Nat) : State :=
  (s.outSource f port).foldl (fun s y =>
    let (plane, p5) := y
    let row := feRow f
    let col := feCol f
    match s.boxOwner f.die row col p5, (vget (s.plane f plane).outp port).reg with
    | some (r, x), t :: rest =>
      let es := s.edgesFrom f plane port
      let nets := es.filter (·.net)
      let running := (s.loopOf f plane).isSome && ((s.fe f).firingOf plane).isSome
      let w := mapGet 0 s.routes (f.die, row, col, plane)
      let d := portDests w port
      let owner := (s.planeOwner f plane).getD r
      if (es.isEmpty && d.tracks.isEmpty) || running || s.stoppedFe f || s.stoppedPort f port true || (nets.any fun e => decide (15 ≤ e.netq.length)) then s
      else
        let moved := if d.tracks.isEmpty && es.all (·.net) then some s else s.spread f.die row col p5 x d t
        match moved with
        | none => s
        | some s =>
          let put (e : Edge) : Edge := if nets.any (fun n => n.key = e.key) then { e with netq := e.netq ++ [t] } else e
          let s := s.modRes owner fun x => { x with edges := x.edges.map put }
          s.modOut f plane port fun o => { o with reg := rest }
    | _, _ => s) s

/-- A token leaves a track register for the box its track leads to. -/
def State.hopTrack (s : State) (k : LatchKey) : State :=
  match mapFind s.latches k, s.boxOwner k.die k.row k.col k.p5 with
  | some t, some (_, x) =>
    if !k.p5 && (s.boxOwner k.die k.row k.col true).isSome then s
    else match boxAway k.row k.col (sideNum k.side) (trackLength k.track) with
      | none => s
      | some (row, col) =>
        if !x.covers row col then s
        else
          let w := mapGet 0 s.routes (k.die, row, col, s.boxPlane k.die row col k.p5 x)
          let d := trackDests w (feAt k.die row col).isSome ((sideNum k.side + 2) % 4) k.track
          match s.spread k.die row col k.p5 x d t with
          | none => s
          | some s => { s with latches := mapErase s.latches k }
  | _, _ => s

/-- A token leaves the page network for its consumer, which runs its residency by then (06 R138). -/
def State.hopNet (s : State) (r : ResId) (edge : Nat) : State :=
  match (s.res r).edges.find? fun e => e.key = edge with
  | none => s
  | some e => match e.netq with
    | [] => s
    | t :: rest =>
      let plane := s.portPlane r e.dst
      if !s.portRoom e.dst plane e.dstp t || s.planeOwner e.dst plane ≠ some r || s.spliceWaits r e.dst || (!(s.res r).urgent && (s.fe e.dst).beneath.isSome) then s
      else (s.modRes r fun x => { x with edges := x.edges.map fun y => if y.key = edge then { y with netq := rest } else y }).arriveAt
        e.dst plane e.dstp t

/-- TOKEN_HOP (R113): in place while the device is frozen. -/
def execTokenHop (src : HopFrom) (s : State) : Out :=
  .next (if s.front.dbg.frozen then s
    else match src with
      | .outReg f port => s.hopOut f port
      | .latch k => s.hopTrack k
      | .net r edge => s.hopNet r edge)

/-- CREDIT_RETURN: a place freed in an input port goes back to its producer, whose counter rises once every edge of its
port has a credit (08 R165). -/
def execCreditReturn (f : FeId) (port : Nat) (s : State) : Out :=
  .next (
    let plane := (s.fe f).active
    let q := vget (s.plane f plane).inp port
    if q.owed = 0 || s.front.dbg.frozen then s
    else
      let s := s.modIn f plane port fun q => { q with owed := q.owed - 1 }
      match s.planeOwner f plane, s.edgeInto f plane port with
      | some r, some e =>
        let mine (y : Edge) : Bool := decide (y.plane = e.plane ∧ y.src = e.src ∧ y.srcp = e.srcp)
        let add (y : Edge) : Edge := if y.key = e.key then { y with credits := y.credits + 1 } else y
        let es := (s.res r).edges.map add
        if (es.filter mine).all (fun y => decide (0 < y.credits)) then
          let s := s.modRes r fun x => { x with edges := es.map fun y => if mine y then { y with credits := y.credits - 1 } else y }
          s.modOut e.src e.plane e.srcp fun o => { o with free := o.free + 1 }
        else s.modRes r fun x => { x with edges := es }
      | _, _ => s)

end Sys2Proof.Machine
end

