-- ==== Sys2Proof/Machine/Streams.lean ====
section
/-! DEFINITION. Stream bindings: their start, what they read, spill and deliver, what they take and store, their end
(13 R275-R283; 12 R268, R269; 11 R236, R237; 18 R362, R368, R371; 19 R388). -/

namespace Sys2Proof.Machine

/-! ### Patterns (R275, R276) -/

def patEsz (p : Line) : Nat := fldN p 448 3
def patFmt (p : Line) : Nat := fldN p 451 4
def patComm (p : Line) : Bool := bitOf p 455
def patMw (p : Line) : Nat := fldN p 456 4
def patPfw (p : Line) : Nat := if fldN p 464 7 = 0 then 16 else fldN p 464 7
/-- Elements per token (Table 13-3). -/
def patG (p : Line) : Nat := if patFmt p = 12 || patEsz p = 4 then 1 else if patEsz p = 3 then 8 else 16
/-- Bytes of an element, its alignment; a block's mantissas are byte-aligned. -/
def patBytes (p : Line) : Nat := if patFmt p = 12 then 2 * patMw p else if patEsz p = 4 then 64 else 2 ^ patEsz p
def patAlign (p : Line) : Nat := if patFmt p = 12 then 1 else patBytes p
def patEmpty (p : Line) : Bool := (List.range 4).any fun k => patCnt p k = 0

/-- Address of element (i0, i1, i2, i3). -/
def patAddr (p : Line) (c : Vector Nat 4) : Nat :=
  let stride (k : Nat) : Int := if patFmt p = 12 && k = 3 then 0 else patStr p k
  (((fldN p 0 64 : Int) + ((List.range 4).map fun k => ((vget c k : Nat) : Int) * stride k).foldl (· + ·) 0) % 2 ^ 64).toNat
/-- Address of a block's exponent byte. -/
def patExp (p : Line) (c : Vector Nat 4) : Nat :=
  (fldN p 384 64 + vget c 0 + patCnt p 0 * (vget c 1 + patCnt p 1 * vget c 2)) % 2 ^ 64

/-- The elements of the token that begins at `c`: their places in it, and their counters. -/
def tokenElems (p : Line) (c : Vector Nat 4) : List (Nat × Vector Nat 4) :=
  let g := patG p
  let i0 := vget c 0
  (List.range (min ((i0 / g + 1) * g) (patCnt p 0) - i0)).map fun j => ((i0 + j) % g, vset c 0 (i0 + j))

/-- Is dimension `k` used (R276)? -/
def patUsed (p : Line) (k : Nat) : Bool := k = 0 || decide (1 < patCnt p k)
/-- The END level behind the last token of a run (R276). -/
def endLevel (p : Line) (c : Vector Nat 4) : Nat :=
  let last (k : Nat) : Bool := k = 0 || decide (vget c k + 1 = patCnt p k)
  ((List.range 4).filter fun k => patUsed p k && (List.range (k + 1)).all fun j => !patUsed p j || last j).foldl max 0

/-- The counters behind the token at `c`, the END level when it ends a run, and whether it is the last: then i0 equals
CNT0 (25 R432). -/
def nextToken (p : Line) (c : Vector Nat 4) : Vector Nat 4 × Option Nat × Bool :=
  let g := patG p
  let n := (vget c 0 / g + 1) * g
  if n < patCnt p 0 then (vset c 0 n, none, false)
  else
    let lvl := some (endLevel p c)
    match ([1, 2, 3] : List Nat).find? fun k => decide (vget c k + 1 < patCnt p k) with
    | none => (vset c 0 (patCnt p 0), lvl, true)
    | some k => (Vector.ofFn fun (i : Fin 4) => if i.val < k then 0 else if i.val = k then vget c k + 1 else vget c i.val,
        lvl, false)

/-! ### Bindings of a residency -/

def State.binding (s : State) (r : ResId) (k : Nat) : Option Binding := mapFind (s.res r).binds k
def State.modBind (s : State) (r : ResId) (k : Nat) (f : Binding → Binding) : State :=
  s.modRes r fun x => { x with binds := x.binds.map fun b => if b.1 = k then (b.1, f b.2) else b }
def State.modRot (s : State) (r : ResId) (rot : Nat) (f : Rotation → Rotation) : State :=
  s.modRes r fun x => { x with rots := x.rots.map fun q => if q.num = rot then f q else q }
def State.rot (s : State) (r : ResId) (rot : Nat) : Option Rotation := (s.res r).rots.find? fun q => q.num = rot
def Rotation.modSlot (q : Rotation) (ph : Nat) (f : Slot → Slot) : Rotation :=
  { q with slots := q.slots.zipIdx.map fun z => if z.2 = ph then f z.1 else z.1 }

/-- Counters of the first element an input binding has not delivered: one read ahead, one in the spill queue, or the next to read
(13 R283; 18 R371). -/
def Binding.undelivered (b : Binding) : Vector Nat 4 :=
  let held := b.spill.map (·.ctr) ++ (b.buf.filter fun t => t.tok.kind = 0).map (·.ctr)
  held.foldl (fun m c => if patElem b.pat c < patElem b.pat m then c else m) b.ctr
/-- An input binding with nothing read ahead. -/
def Binding.rewound (b : Binding) (c : Vector Nat 4) : Binding :=
  { b with ctr := c, exhausted := patEmpty b.pat || decide (patCnt b.pat 0 ≤ vget c 0), buf := [], early := [], spill := [], endDue := none }

/-- Do streams of a residency move at an FE: armed, not ended, not frozen, not paused, and the FE passed to it, if it is a spliced
successor (06 R138; 18 R362, R375; 19 R384)? -/
def State.streamsMove (s : State) (r : ResId) (f : FeId) : Bool :=
  let x := s.res r
  decide (x.state = .armed) && !x.freed && decide (x.freeze = 0) && !s.front.dbg.frozen &&
    (x.urgent || (s.fe f).beneath.isNone) && !s.spliceWaits r f

/-- Does a binding occupy a port or a slot (R278)? -/
def Binding.occupies (b : Binding) (input : Bool) (d : BindEnd) : Bool :=
  (decide ((b.kind = .input) = input) && decide (b.dest = d)) ||
    (input && match d with
      | .port f p => b.list.contains (f, p)
      | .slot _ _ => false)
/-- Is a port or slot busy? A port is one of its FE's, whichever residency of its planes binds it. -/
def State.endBusy (s : State) (r : ResId) (input : Bool) (d : BindEnd) : Bool :=
  match d with
  | .slot _ _ => (s.res r).binds.any fun b => b.2.occupies input d
  | .port _ _ => s.allRes.any fun y => decide (y.1.die = r.die ∧ y.2.urgent = (s.res r).urgent) &&
      y.2.binds.any fun b => b.2.occupies input d

/-- Has a thread's core a binding context for it (R278)? -/
def State.contextFree (s : State) (t : ThreadId) : Bool :=
  let owners := s.allRes.flatMap fun y => (y.2.binds.filter fun b => !b.2.discarding).map fun b => b.2.owner
  let here := owners.filter fun o => decide (o.die = t.die ∧ o.page = t.page)
  let t0s := (here.filter fun o => decide (o.tid = 0)).length
  if t.tid = 0 then decide (here.length < 32) else decide (here.length - t0s + (t0s - 2) < 30)

/-! ### Selectors (Table 13-4) -/

/-- What a selector names; none when it is invalid for the use. -/
def State.selector (s : State) (r : ResId) (v : Word) (input : Bool) : Option BindEnd :=
  let x := s.res r
  if fldN v 26 38 ≠ 0 then none
  else if bitOf v 14 then
    if fldN v 0 14 ≠ 0 || !input then none
    else match s.rot r (fldN v 15 3) with
      | none => none
      | some q => if fldN v 18 8 < q.depth then some (.slot q.num (fldN v 18 8)) else none
  else if 24 * x.h * x.w ≤ fldN v 0 11 then none
  else
    let f := feOfIndex r x (fldN v 0 11)
    let p := fldN v 11 3
    let edged := x.edges.any fun e => if input then decide (e.dst = f ∧ e.dstp = p) else decide (e.src = f ∧ e.srcp = p)
    if edged then none else some (.port f p)

/-- The input ports a multicast list names (R281); none when the list is invalid. -/
def State.mcList (s : State) (r : ResId) (l : Line) : Option (List (FeId × Nat)) :=
  let es := (List.range 15).map fun i => fldN l (32 * i) 32
  let used := es.takeWhile fun e => decide (e ≠ 0xFFFFFFFF)
  if fldN l 480 32 ≠ 0xFFFFFFFF || used.isEmpty then none
  else used.mapM fun e => if 2 ^ 14 ≤ e % 2 ^ 15 then none else match s.selector r (wordN e) true with
    | some (.port f p) => some (f, p)
    | _ => none

/-! ### Ends and faults -/

/-- A slot keeps the counters of its last binding (25 R432). -/
def State.keepCtr (s : State) (r : ResId) (b : Binding) : State :=
  match b.dest with
  | .port _ _ => s
  | .slot rot ph => s.modRot r rot fun q => q.modSlot ph fun z => { z with ctr := b.undelivered }
/-- A binding ends and its port or slot is free; its command stays. -/
def State.unbind (s : State) (r : ResId) (k : Nat) : State :=
  match s.binding r k with
  | none => s
  | some b =>
    let s := s.keepCtr r b
    let s := s.unparkBinding r k
    s.modRes r fun x => { x with binds := mapErase x.binds k }
/-- A binding ends of itself: its command is complete but for the push. -/
def State.bindEnds (s : State) (r : ResId) (k : Nat) (b : Binding) : State :=
  (s.unbind r k).modCmd b.owner .se b.cmd.seq fun c => { c with done := true }
/-- A binding ends with an engine fault (R273). -/
def State.bindFaults (s : State) (r : ResId) (k : Nat) (b : Binding) (x : Stop) : State :=
  ((s.keepCtr r b).dropBinding r k).cmdFaults b.owner .se b.cmd x

/-! ### Start (R278-R282) -/

/-- The counters a binding starts at, or the fault of a `STRM.RESUME`'s read, which may wait. An empty pattern has no element to come
(25 R432). -/
def State.startCtr (s : State) (t : ThreadId) (c : EngineCmd) (pat : Line) : Except Stop (Option (Vector Nat 4)) × State :=
  let zero : Vector Nat 4 := .replicate 4 0
  if c.op ≠ .strmResume then (.ok (some (if patEmpty pat then vset zero 0 (patCnt pat 0) else zero)), s)
  else if fldN c.vb 0 3 ≠ 0 then (.error { code := .misaligned, w1 := c.vb }, s)
  else match s.recordRead (s.engAgent t .se c) c.vb.toNat 16 with
    | (.error x, s) => (.error x, s)
    | (.ok none, s) => (.ok none, s)
    | (.ok (some bs), s) =>
      let v : Vector Nat 4 := Vector.ofFn fun (i : Fin 4) => leNat ((bs.drop (4 * i.val)).take 4)
      (if (List.range 4).all fun k => decide (vget v k < patCnt pat k) then .ok (some v) else .error { code := .argRange }, s)
/-- The list of a `STRM.MC`, empty for other forms, or the fault of its read, which may wait. -/
def State.startList (s : State) (t : ThreadId) (r : ResId) (c : EngineCmd) : Except Stop (Option (List (FeId × Nat))) × State :=
  if c.op ≠ .strmMc then (.ok (some []), s)
  else if fldN c.vb 0 6 ≠ 0 then (.error { code := .misaligned, w1 := c.vb }, s)
  else match s.recordRead (s.engAgent t .se c) c.vb.toNat 64 with
    | (.error x, s) => (.error x, s)
    | (.ok none, s) => (.ok none, s)
    | (.ok (some bs), s) => match s.mcList r (lineOf bs) with
      | none => (.error { code := .argRange }, s)
      | some l => (.ok (some l), s)

/-- A binding stands: its command runs. -/
def State.bindMake (s : State) (t : ThreadId) (c : EngineCmd) (r : ResId) (b : Binding) : State :=
  let s := s.modThr t fun x => { x with se := { waiting := x.se.waiting.drop 1, running := x.se.running ++ [c] } }
  s.modRes r fun x => { x with binds := x.binds ++ [(x.nextBind, b)], nextBind := x.nextBind + 1 }
/-- Start a binding command at the head of its queue, once its end and a context are free. -/
def State.bindStart (s : State) (t : ThreadId) (c : EngineCmd) : State :=
  let input := c.op = .strmIn || c.op = .strmResume
  match c.res with
  | none => s.cmdFaults t .se c { code := .argRange }
  | some r => match s.selector r c.va input with
    | none => s.cmdFaults t .se c { code := .argRange }
    | some d =>
      if s.endBusy r input d || !s.contextFree t then s
      else
        let pat := vget (s.thr t).pat c.pat.toNat
        match s.startCtr t c pat with
        | (.error x, s) => s.cmdFaults t .se c x
        | (.ok none, s) => s
        | (.ok (some v), s) => match s.startList t r c with
          | (.error x, s) => s.cmdFaults t .se c x
          | (.ok none, s) => s
          | (.ok (some l), s) =>
            if l.any fun p => s.endBusy r true (.port p.1 p.2) then s
            else
              let kind : BindKind := if input then .input else if c.op = .strmMc then .multicast else .output
              s.bindMake t c r { kind, dest := d, list := l, pat, owner := t, cmd := c, ctr := v, atBoundary := true
                                 exhausted := patEmpty pat }

/-- STREAM_BINDING_START: the stores its thread has made perform before it reads anything (R273). -/
def execStreamBindingStart (t : ThreadId) (s : State) : Out :=
  .next (match (s.thr t).se.waiting with
    | [] => s
    | c :: _ =>
      if !c.op.binds || !s.queueReady t .se then s
      else
        let s := s.drain t
        if s.drained t then s.bindStart t c else s)

/-! ### Reading (R279, 12 R262, R268, R269) -/

/-- What reading a token comes to. -/
inductive Fed where
  | tok (data : Line) (void : Bool)
  | stop (x : Stop)
  | page (va : Nat)
  | cell (va : Nat)
  deriving DecidableEq, Repr, Inhabited

/-- The pattern an element of a poisoned line takes (R279). -/
def voidElem (p : Line) : Nat := match patEsz p with
  | 0 => 0xFF
  | 1 => 0x7E00
  | 2 => 0x7FC00000
  | _ => 0x7FF8000000000000

/-- A token from its elements: places, bytes, poison. -/
def tokenOf (p : Line) (els : List (Nat × List Byte × Bool)) : Line :=
  let pats := (List.range (patG p)).map fun i => match els.find? fun e => e.1 = i with
    | none => 0
    | some e => if e.2.2 then voidElem p else leNat e.2.1
  ofElems (patFmt p) pats

/-- The byte ranges of the token at counters `c`: one an element, a block's mantissas and its exponent apart. -/
def tokenRanges (p : Line) (c : Vector Nat 4) : List (Nat × Nat) :=
  if patFmt p = 12 then [(patAddr p c, patBytes p), (patExp p c, 1)]
  else (tokenElems p c).map fun e => (patAddr p e.2, patBytes p)
/-- The data of a token from the bytes of its ranges, and whether any line of them is poisoned (R279, R275). -/
def tokenData (p : Line) (c : Vector Nat 4) (ls : List (List Byte × Bool)) : Line × Bool :=
  let void := ls.any (·.2)
  let bytes (i : Nat) : List Byte := (ls.getD i ([], false)).1
  (if patFmt p = 12 then
      if void then bfpToken (patMw p) 0xFF (List.replicate 16 0)
      else bfpToken (patMw p) (leNat (bytes 1)) (bfpUnpack (patMw p) (leNat (bytes 0)))
    else if patEsz p = 4 then if void then ofLanes (List.replicate 16 0x7FC00000) else lineOf (bytes 0)
    else tokenOf p (((tokenElems p c).zip ls).map fun x => (x.1.1, x.2.1, x.2.2)), void)
/-- Read the token at counters `c`: those of its ranges that have not been read ahead. -/
def State.readTok (s : State) (ag : Agent) (p : Line) (c : Vector Nat 4) (early : FMap (Nat × Nat) (List Byte × Bool)) : Fed × State :=
  let ranges := tokenRanges p c
  let got (i : Nat) : Option (List Byte × Bool) := mapFind early (patElem p c, i)
  match ranges.find? fun x => decide (x.1 % patAlign p ≠ 0) with
  | some x => (.stop { code := .misaligned, w1 := wordN x.1 }, s)
  | none => match s.readRanges ag ((ranges.zipIdx.filter fun x => (got x.2).isNone).map (·.1)) with
    | (.stop x, s) => (if x.code = .page then .page x.w1.toNat else .stop x, s)
    | (.wait v, s) => (.cell v, s)
    | (.data ls, s) =>
      let all := ((List.range ranges.length).foldl (fun (a : List (List Byte × Bool) × List (List Byte × Bool)) i => match got i with
        | some x => (a.1 ++ [x], a.2)
        | none => (a.1 ++ a.2.take 1, a.2.drop 1)) ([], ls)).1
      let (data, void) := tokenData p c all
      (.tok data void, s.tookReturns ag.who)

def bindAgent (r : ResId) (k : Nat) (b : Binding) (c : Vector Nat 4) (since : Nat) : Agent :=
  { who := .binding r k (patElem b.pat c), asid := b.cmd.asid, die := b.owner.die, res := some r, since }

/-- Does a PAGE record of a binding await its response (R269)? -/
def State.pageRecordOut (s : State) (die : Nat) (r : ResId) (k : Nat) : Bool :=
  let q := (s.die die).frq
  let mine (src : Option Requester) (w : Rec8) : Bool := match src with
    | some (.binding r' k' _) => decide (r' = r ∧ k' = k) && !bitOf (vget w 2) 19
    | _ => false
  (q.due.any fun x => mine x.2.2 x.1) || q.waiting.any fun w => mine (some w.src) w.words

/-- The record of a spilled element (R269): replayable, with the code PAGE. -/
def spillRec (s : State) (r : ResId) (b : Binding) (c : Vector Nat 4) (page : Bool) (va : Nat) : Rec8 :=
  let x := s.res r
  let (fe, port) := match b.dest with
    | .port f p => (x.index f, p)
    | .slot _ _ => (0, 0)
  let w2 := port + fe * 8 + b.cmd.pat.toNat * 2 ^ 14 + (if patComm b.pat then 2 ^ 18 else 0) + (if page then 0 else 2 ^ 19)
  rec8 [wordN (codeNum .page), wordN va, wordN w2, wordN (fldN b.pat 0 64), wordN (vget c 0 + vget c 1 * 2 ^ 32),
    wordN (vget c 2 + vget c 3 * 2 ^ 32), 0, originWord b.owner.die b.owner.page r.idx b.cmd.asid 1 b.owner.tid]

/-- A spill writes its record, or adds to SPILLS (R269). -/
def State.spillNote (s : State) (r : ResId) (k : Nat) (b : Binding) (c : Vector Nat 4) (page first : Bool) (va : Nat) :
    State :=
  let die := b.owner.die
  if if page then !s.pageRecordOut die r k else first then
    s.frqDue die (spillRec s r b c page va) 1 (some (.binding r k (patElem b.pat c)))
  else s.count die 4 1

/-- A spill is resolved: its record waits for no response. -/
def State.spillDone (s : State) (die : Nat) (q : Requester) : State :=
  s.modDie die fun d => { d with frq := { d.frq with
    due := d.frq.due.map fun x => if x.2.2 = some q then (x.1, x.2.1, none) else x
    waiting := d.frq.waiting.filter fun w => decide (w.src ≠ q) } }

/-- The END token of a level, as read behind a token. -/
def endTok (lvl : Nat) (c : Vector Nat 4) : ReadTok := { tok := { kind := BitVec.ofNat 3 (lvl + 1) }, ctr := c }
def Binding.toPort (b : Binding) : Bool := match b.dest with
  | .port _ _ => true
  | .slot _ _ => false

/-- Tokens a binding has read and not delivered. -/
def Binding.readAhead (b : Binding) : Nat := (b.buf.filter fun t => t.tok.kind = 0).length
/-- May a binding read on: its elements, its spills (12 R268)? -/
def Binding.readsOn (b : Binding) : Bool :=
  !b.exhausted && !b.stopping && (b.spill.isEmpty || (patComm b.pat && decide (b.spill.length < 16)))
/-- What has been read ahead of the token at `c` is used. -/
def Binding.tookEarly (b : Binding) (c : Vector Nat 4) : Binding :=
  { b with early := b.early.filter fun e => decide (e.1.1 ≠ patElem b.pat c) }

/-- Counters of the token `j` places behind `c` in pattern order, if the pattern goes so far. -/
def tokenAfter (p : Line) (c : Vector Nat 4) : Nat → Option (Vector Nat 4)
  | 0 => some c
  | j + 1 =>
    let (n, _, last) := nextToken p c
    if last then none else tokenAfter p n j
/-- Read one element of a token that is not the next, within the window: its reads come in any order (R279; 17 R347). One that would
fault or meet a cell that is not VALUE is left for the token's own turn. -/
def State.readEarly (s : State) (r : ResId) (k : Nat) (b : Binding) (j i : Nat) : State :=
  if !b.readsOn || decide (patPfw b.pat ≤ b.readAhead + j) then s
  else match tokenAfter b.pat b.ctr j with
    | none => s
    | some c => match (tokenRanges b.pat c)[i]? with
      | none => s
      | some x =>
        let ag := bindAgent r k b c s.cyc
        let key := (patElem b.pat c, i)
        if x.1 % patAlign b.pat ≠ 0 || (mapFind b.early key).isSome then s
        else match s.resolve ag x.1 x.2 .r with
          | .error _ => s
          | .ok ps =>
            if ps.any fun p => match p.target with
              | .scratch _ _ => false
              | .glob pa l _ => l.t && !l.p && (s.tag (pa / 64) ≠ 0 || s.parkedAt ag.who (pa / 64)) then s
            else match s.loadPieces ag ps with
              | (.error _, _) => s
              | (.ok none, s') => s'
              | (.ok (some g), s') => (s'.tookPieces ag.who ps).modBind r k fun b => { b with early := mapSet b.early key g }

/-- Read the next token of an input binding, if its window, its spills and its run allow. -/
def State.readNext (s : State) (r : ResId) (k : Nat) (b : Binding) : State :=
  if !b.readsOn || decide (patPfw b.pat ≤ b.readAhead) || b.endDue.isSome then s
  else
    let c := b.ctr
    let (n, lvl, last) := nextToken b.pat c
    let on (s : State) (f : Binding → Binding) : State :=
      s.modBind r k fun b => { f (b.tookEarly c) with ctr := n, exhausted := last }
    let spill (s : State) (page : Bool) (va : Nat) : State :=
      let parked := (s.parkedOn (.binding r k (patElem b.pat c))).isSome
      let s := s.spillNote r k b c page b.spill.isEmpty va
      on s fun b => { b with spill := b.spill ++ [{ ctr := c, isPage := page, since := if page || parked then none else some s.cyc }]
                             endDue := lvl }
    match s.readTok (bindAgent r k b c s.cyc) b.pat c b.early with
    | (.stop x, s) => s.bindFaults r k b x
    | (.page va, s) => spill s true va
    | (.cell va, s) => spill s false va
    | (.tok d v, s) =>
      let t : ReadTok := { tok := { data := d, ord := BitVec.ofNat 32 (Config.freeNat s.tick) }, ctr := c, void := v }
      match lvl with
      | none => on s fun b => { b with buf := b.buf ++ [t] }
      | some l =>
        if b.spill.isEmpty then on s fun b => { b with buf := b.buf ++ (if b.toPort then [t, endTok l n] else [t]) }
        else on s fun b => { b with buf := b.buf ++ [t], endDue := some l }

/-- Read again the oldest spilled token, if its cause may be resolved; else read on. -/
def State.readStep (s : State) (r : ResId) (k : Nat) (b : Binding) : State :=
  match b.spill with
  | [] => s.readNext r k b
  | p :: rest =>
    let who := Requester.binding r k (patElem b.pat p.ctr)
    if p.isPage && !p.retry then s.readNext r k b
    else match s.readTok (bindAgent r k b p.ctr (p.since.getD s.cyc)) b.pat p.ctr b.early with
      | (.stop x, s) => s.bindFaults r k b x
      | (.tok d v, s) =>
        let t : ReadTok := { tok := { data := d, ord := BitVec.ofNat 32 (Config.freeNat s.tick) }, ctr := p.ctr, void := v }
        (s.spillDone b.owner.die who).modBind r k fun b =>
          { b.tookEarly p.ctr with
                   spill := rest
                   buf := b.buf ++ [t] ++ (if rest.isEmpty && b.toPort then
                     (match b.endDue with
                      | some l => [endTok l b.ctr]
                      | none => []) else [])
                   endDue := if rest.isEmpty then none else b.endDue }
      | (.page va, s) =>
        let s := s.modBind r k fun b => { b with spill := { p with isPage := true, retry := false } :: rest }
        s.spillNote r k b p.ctr true false va
      | (.cell va, s) =>
        let since := if (s.parkedOn who).isSome then none else some (p.since.getD s.cyc)
        let s := s.modBind r k fun b => { b with spill := { p with isPage := false, since } :: rest }
        let s := if p.isPage then s.spillNote r k b p.ctr false true va else s
        match s.binding r k with
        | none => s
        | some b => s.readNext r k b

/-! ### Delivery (R279, R283; 18 R368, R371) -/

/-- Are the tokens read in pattern order, and the next delivery no END? Then a MARK may come between two tokens. -/
def Binding.markable (b : Binding) : Bool :=
  let ids := (b.buf.filter fun t => t.tok.kind = 0).map fun t => patElem b.pat t.ctr
  b.spill.isEmpty && b.endDue.isNone && (match b.buf with
    | [] => true
    | t :: _ => t.tok.kind = 0) && (ids.zip (ids.drop 1)).all fun p => decide (p.1 < p.2)

/-- The token of cut `n` (18 R368, 19 R388). -/
def markTok (n : BitVec 32) (debug : Bool) (ord : Nat) : Token :=
  { kind := 6, data := ofLanes [n.toNat, if debug then 1 else 0], ord := BitVec.ofNat 32 ord }

/-- A token that a stream delivers enters an input port, one of the rate limiter's window (06 R137). -/
def State.admitToken (s : State) (f : FeId) (plane port : Nat) (t : Token) : State :=
  (s.modIn f plane port fun q => { q with admitted := q.admitted + 1 }).putIn f plane port t

/-- Insert the MARK that is due and record the counters. -/
def State.insertMark (s : State) (r : ResId) (k : Nat) (b : Binding) (f : FeId) (plane port : Nat) (n : BitVec 32)
    (debug : Bool) : State :=
  let made := { (b.rewound b.undelivered) with markDue := none }
  let s := s.modRes r fun x => { x with cut := x.cut.map fun c =>
    { c with inPending := c.inPending.filter fun j => decide (j ≠ k), made := c.made ++ [(k, made)] } }
  (s.modBind r k fun b => { b with markDue := none }).admitToken f plane port (markTok n debug (Config.freeNat s.tick))

/-- A of a pitch (06 R137): lowered for the lowest priority first, never below 64. -/
def State.rateOf (s : State) (x : Residency) : Nat :=
  if x.urgent then 1024 else 1024 - min (s.front.rateCut - 960 * (3 - x.prio)) 960
/-- May a stream deliver one more token to an input port: a place in its FIFO and one in the window (06 R137)? -/
def State.admits (s : State) (r : ResId) (f : FeId) (port : Nat) : Bool :=
  let plane := s.portPlane r f
  decide (s.inUsed f plane port < 8 ∧ (vget (s.plane f plane).inp port).admitted < s.rateOf (s.res r)) && s.streamsMove r f

/-- Deliver to a port what comes next: a MARK due, a token read, or EOS at the end. -/
def State.deliverPort (s : State) (r : ResId) (k : Nat) (b : Binding) (f : FeId) (port : Nat) : State :=
  let plane := s.portPlane r f
  if !s.admits r f port || ((s.res r).preempt.isSome && b.atBoundary) then s
  else match b.markDue.filter fun _ => b.markable with
    | some (n, debug) => s.insertMark r k b f plane port n debug
    | none => match b.buf with
      | t :: rest =>
        let s := s.modBind r k fun b =>
          { b with buf := rest, atBoundary := decide (2 ≤ t.tok.kind.toNat) }
        let s := if t.void then s.count b.owner.die 2 1 else s
        s.admitToken f plane port t.tok
      | [] =>
        if (b.exhausted || b.stopping) && b.spill.isEmpty && b.endDue.isNone then
          let s := s.admitToken f plane port { kind := 5, ord := BitVec.ofNat 32 (Config.freeNat s.tick) }
          let s := s.noteEos r b.owner b.cmd.seq f plane port (vget (s.plane f plane).inp port).eosIn
          if b.stopping then (s.unbind r k).endCmd b.owner .se b.cmd.seq else s.bindEnds r k b
        else s

/-- Tokens the queues of all rotations seamed at an FE hold, of whichever residency (11 R237). -/
def State.chunkStore (s : State) (f : FeId) : Nat :=
  ((s.die f.die).res.flatMap fun p => (p.2.rots.filter fun q => decide (q.seam = f)).flatMap fun q =>
    q.slots.map fun z => z.queue.length).foldl (· + ·) 0

/-- Deliver to a slot's queue: discarded and counted where the slot is EMPTY (11 R236, R237). -/
def State.deliverSlot (s : State) (r : ResId) (k : Nat) (b : Binding) (rot ph : Nat) : State :=
  match s.rot r rot with
  | none => s
  | some q =>
    let z := q.slots.getD ph {}
    if b.paused || (s.res r).preempt.isSome then s
    else match b.buf with
      | [] => if b.exhausted && b.spill.isEmpty then s.bindEnds r k b else s
      | t :: rest =>
        let off (s : State) : State :=
          (s.modBind r k fun b => { b with buf := rest, atBoundary := false }).count b.owner.die 2 (if t.void then 1 else 0)
        if z.status = .empty then (off s).countVoid q.seam 1
        else if 2 * q.chunk ≤ z.queue.length || 256 ≤ s.chunkStore q.seam then s
        else (off s).modRot r rot fun q => q.modSlot ph fun z => { z with queue := z.queue ++ [(t.tok.data, some t.ctr)] }

/-- STREAM_DELIVER: read, or deliver the next token, END or EOS; nothing while the engine has stopped at a hit (19 R383). -/
def execStreamDeliver (r : ResId) (bind : Nat) (turn : StreamTurn) (s : State) : Out :=
  .next (match s.binding r bind with
    | none => s
    | some b =>
      if b.kind ≠ .input || b.owner.tid = 8 then s
      else
        let f := match b.dest with
          | .port f _ => f
          | .slot rot _ => ((s.rot r rot).map (·.seam)).getD default
        if !s.engineLive b.owner then s
        else match turn with
          | .read => s.readStep r bind b
          | .ahead j i => s.readEarly r bind b j i
          | .deliver =>
            if !s.streamsMove r f then s
            else match b.dest with
              | .port f p => s.deliverPort r bind b f p
              | .slot rot ph => s.deliverSlot r bind b rot ph)

/-! ### Taking and storing (R280, R281, R283) -/

/-- The stores of a DATA token's elements: addresses and bytes. -/
def takenBytes (p : Line) (c : Vector Nat 4) (d : Line) : List (Nat × List Byte) :=
  if patFmt p = 12 then
    let (e, ms) := bfpOfToken (patMw p) d
    [(patAddr p c, leBytes (2 * patMw p) (bfpPack (patMw p) ms)), (patExp p c, leBytes 1 e)]
  else if patEsz p = 4 then [(patAddr p c, lineBytes d)]
  else (tokenElems p c).map fun e => (patAddr p e.2, leBytes (patBytes p) (elem (patFmt p) d e.1))

/-- Where the stores go, line by line, or the fault of the first that cannot. -/
def State.takeStores (s : State) (ag : Agent) (p : Line) : List (Nat × List Byte) → Except Stop (List BindStore)
  | [] => .ok []
  | (a, bs) :: rest =>
    if a % patAlign p ≠ 0 then .error { code := .misaligned, w1 := wordN a }
    else match s.resolve ag a bs.length .w with
      | .error x => .error x
      | .ok ps => match s.takeStores ag p rest with
        | .error x => .error x
        | .ok l => .ok ((ps.map fun q => (⟨q.va, q.target, (bs.drop (q.va - a)).take q.len⟩ : BindStore)) ++ l)

/-- What a taken token does to the binding, its port emptied already. -/
def State.takeToken (s : State) (r : ResId) (k : Nat) (b : Binding) (t : Token) : State :=
  if t.kind = 0 then
    if b.exhausted then s.count b.owner.die 11 1
    else match s.takeStores (bindAgent r k b b.ctr s.cyc) b.pat (takenBytes b.pat b.ctr t.data) with
      | .error x => s.bindFaults r k b x
      | .ok l =>
        let (n, _, last) := nextToken b.pat b.ctr
        s.modBind r k fun b => { b with stores := b.stores ++ l, ctr := n, exhausted := last }
  else if t.kind = 5 then s.modBind r k fun b => { b with eosDone := true }
  else if t.kind = 6 then
    let (n, debug) := markOf t
    let live := (s.res r).cut.any fun c => c.num = n && c.debug = debug
    let s := s.modRes r fun x => { x with cut := x.cut.map fun c =>
      if c.num = n && c.debug = debug then
        { c with outPending := c.outPending.filter fun j => decide (j ≠ k)
                 made := c.made ++ [(k, { b with stores := [], cutStores := 0 })] }
      else c }
    if live then s.modBind r k fun b => { b with cutStores := b.stores.length, paused := debug } else s
  else s

/-- STREAM_TAKE: the head token of the output port, with a credit back to it; a multicast forwards it when every listed
port has a credit. A stopped engine takes none, and a stopped FE's tokens wait (19 R383, R384). -/
def execStreamTake (r : ResId) (bind : Nat) (s : State) : Out :=
  .next (match s.binding r bind with
    | none => s
    | some b => match b.dest with
      | .slot _ _ => s
      | .port f p =>
        let plane := s.portPlane r f
        if b.kind = .input || b.owner.tid = 8 || !s.engineLive b.owner || !s.streamsMove r f || s.stoppedFe f || s.stoppedPort f p true then s
        else match (vget (s.plane f plane).outp p).reg with
          | [] => s
          | t :: rest =>
            let pop (s : State) : State := s.modOut f plane p fun o => { o with reg := rest, free := o.free + 1 }
            if b.discarding then if t.kind = 5 then (pop s).unbind r bind else pop s
            else if b.stopping || b.eosDone || b.paused then s
            else if b.list.any fun x => !s.admits r x.1 x.2 then s
            else
              let s := (pop s).noteStore (some r)
              let s := b.list.foldl (fun s x => s.admitToken x.1 (s.portPlane r x.1) x.2 t) s
              s.takeToken r bind b t)

/-- Was the store at a place of an output binding taken past the MARK of a cut in progress (18 R368)? -/
def State.bindPast (s : State) (r : ResId) (k : Nat) (b : Binding) (pos : Nat) : Bool :=
  (s.res r).cut.any fun c => !c.debug && !c.outPending.contains k && decide (b.cutStores ≤ pos)

/-- Perform a store that an output binding has taken: stores to the same byte keep their order. -/
def State.performBind (s : State) (r : ResId) (k pos : Nat) : State :=
  match s.binding r k with
  | none => s
  | some b => match b.stores[pos]? with
    | none => s
    | some x =>
      let span (y : BindStore) : List (Nat × Nat × Nat) := let n := targetByte y.target 0
                                                           [(n.1, n.2, y.data.length)]
      if (b.stores.take pos).any fun y => spansMeet (span y) (span x) then s
      else match s.storePieces { bindAgent r k b b.ctr s.cyc with past := s.bindPast r k b pos } [⟨x.va, x.data.length, x.target⟩] x.data with
        | (.stop y, s) => s.bindFaults r k b y
        | (.wait, s) => s
        | (.done, s) => s.modBind r k fun b =>
            { b with stores := b.stores.eraseIdx pos, cutStores := if pos < b.cutStores then b.cutStores - 1 else b.cutStores }

/-! ### STRM.STOP (R283) and completion (R272) -/

/-- The bindings a selector names, and nothing when it is invalid. -/
def State.stopNames (s : State) (r : ResId) (v : Word) : Option (List Nat) :=
  let x := s.res r
  let pick (f : Binding → Bool) : List Nat := (x.binds.filter fun b => f b.2 && !b.2.discarding).map (·.1)
  if fldN v 26 38 ≠ 0 then none
  else if bitOf v 14 then match s.selector r v true with
    | none => none
    | some d => some (pick fun b => decide (b.dest = d))
  else if 24 * x.h * x.w ≤ fldN v 0 11 then none
  else some (pick fun b => decide (b.dest = .port (feOfIndex r x (fldN v 0 11)) (fldN v 11 3)))

/-- Stop one binding: an input drops what it has not delivered, a slot binding ends at once. -/
def State.stopBind (s : State) (r : ResId) (k : Nat) : State :=
  match s.binding r k with
  | none => s
  | some b =>
    if b.kind ≠ .input then s.modBind r k fun b => { b with stopping := true }
    else
      let s := (b.spill.foldl (fun s p => s.spillDone b.owner.die (.binding r k (patElem b.pat p.ctr))) s).unparkBinding r k
      let s := s.modBind r k fun b => { (b.rewound b.undelivered) with stopping := true, markDue := none }
      if b.toPort then s else (s.unbind r k).endCmd b.owner .se b.cmd.seq

/-- STRM.STOP starts. -/
def State.startStop (s : State) (t : ThreadId) (c : EngineCmd) : State :=
  match c.res.bind fun r => (s.stopNames r c.va).map fun l => (r, l) with
  | none => s.cmdFaults t .se c { code := .argRange }
  | some (r, l) => (l.foldl (fun s k => s.stopBind r k) s).modCmd t .se c.seq fun c => { c with stops := l }

/-- Has a binding that STRM.STOP ends ended? -/
def State.stopDone (s : State) (r : ResId) (k : Nat) : Bool :=
  match s.binding r k with
  | none => true
  | some b => b.discarding

/-- An output binding whose stores have all performed ends: with EOS taken it completes; stopped, it completes without its
push and the port discards to its next EOS; the ports of its list are free. -/
def State.outEnds (s : State) (r : ResId) (k : Nat) (b : Binding) : State :=
  if !b.stores.isEmpty then s
  else if b.stopping then
    let s := s.endCmd b.owner .se b.cmd.seq
    if b.eosDone then s.unbind r k else s.modBind r k fun b => { b with discarding := true, list := [] }
  else if b.eosDone then s.bindEnds r k b
  else s

/-- Run a command that has started. -/
def State.runCmd (s : State) (t : ThreadId) (u : Unit3) (c : EngineCmd) : State :=
  if c.done then s.cmdDone t u c
  else match c.op with
    | .spat => s.runSpat t c
    | .trel => s.runTrel t c
    | .pref => s.runPref t c
    | .disc => s.runDisc t c
    | .tfetch => s.runTfetch t c
    | .copy => s.runCopy t c
    | .strmStop => match c.res with
      | none => s.cmdDone t u c
      | some r => if c.stops.all fun k => s.stopDone r k then s.cmdDone t u c else s
    | .strmIn | .strmResume | .strmOut | .strmMc => match c.res with
      | none => s
      | some r => match (s.res r).binds.find? fun b => decide (b.2.owner = t ∧ b.2.cmd.seq = c.seq) with
        | none => s
        | some (k, b) => if b.kind = .input then s else s.outEnds r k b

/-- ENGINE_COMPLETE: a command that has started goes on to its completion and its push; the oldest waiting one, if it
binds no stream, starts, after the stores its thread has made (R273). -/
def execEngineComplete (t : ThreadId) (unit : Unit3) (pos : Nat) (s : State) : Out :=
  .next (
    let q := unitQueue unit (s.thr t)
    if !s.engineLive t then s
    else match q.running[pos]? with
      | some c => s.runCmd t unit c
      | none => match q.waiting with
        | [] => s
        | c :: rest =>
          if c.op.binds || !s.queueReady t unit || pos ≠ q.running.length then s
          else
            let s := s.drain t
            if !s.drained t then s
            else
              let s := s.modThr t fun x => modUnit unit x fun q => { waiting := rest, running := q.running ++ [c] }
              if c.op = .strmStop then s.startStop t c else s.runCmd t unit c)

/-- A plane with the counts of its input ports at zero. -/
def Plane.newWindow (p : Plane) : Plane := { p with inp := p.inp.map fun q => { q with admitted := 0 } }
/-- An FE whose input ports count anew in a residency's planes. -/
def Fe.newWindow (y : Fe) (x : Residency) : Fe :=
  { y with planes := Vector.ofFn fun (i : Fin 6) =>
      let p := vget y.planes i.val
      if x.usesPlane i.val then p.newWindow else p }
/-- The counts of a residency's input ports begin anew. -/
def State.newWindow (s : State) (r : ResId) : State :=
  let x := s.res r
  (pitchFes r x).foldl (fun s f => s.modFe f fun y => y.newWindow x) s

/-- The residencies that a pitch carries: two, while one is spliced onto the other (06 R138). -/
def State.pitchResidencies (s : State) (r : ResId) : List ResId :=
  let x := s.res r
  r :: (x.successor.toList ++ x.predecessor.toList).map fun k => ⟨r.die, k⟩
/-- RATE_WINDOW: a window of 1,024 cycles of the pitch has passed (06 R137). -/
def execRateWindow (r : ResId) (s : State) : Out :=
  .next (
    if s.front.dbg.frozen || s.cyc < (s.res r).windowFrom + 1024 then s
    else (s.pitchResidencies r).foldl (fun t q => (t.newWindow q).modRes q fun x => { x with windowFrom := s.cyc }) s)

end Sys2Proof.Machine
end

