-- ==== Sys2Proof/Machine/Spores.lean ====
section
/-! DEFINITION. The SPORE instructions and KVT; how parked requesters time out and cycles are found; fills, walks, and the
accesses that perform (12 R260, R261, R265; 15 R317-R329; 16 R342-R344; 17 R349). -/

namespace Sys2Proof.Machine

/-! ### SPORE forms (15 R329) -/

/-- A spore record malformed by R318; the device writes its ASID. -/
def sporeBad (x : Line) : Bool :=
  let entry := fldN x 0 64
  let rule := fldN x 128 2
  let guard := bitOf x 130
  let q := fldN x 192 64
  fldN x 131 13 ≠ 0 || fldN x 170 22 ≠ 0 || fldN x 256 64 ≠ 0 ||
  (if rule = 2 then q = 0 || q % 64 ≠ 0 else fldN x 160 10 ≠ 0 || q ≠ 0) ||
  (guard && rule ≠ 0) || entry = 0 || (if guard then entry % 64 ≠ 0 else entry % 4 ≠ 0)

/-- Where a SPORE instruction's cell stands and the 64 bytes it brings, or its trap, in the order of R329; a cell behind a lost pool port
is out of reach (12 R271). -/
def State.sporeArgs (s : State) (ra : Word) (src : Option Word) (set : Bool) (k : State → Nat → Line → Ctl) : Ctl :=
  let ag := s.curAgent
  let rb := src.getD 0
  if fldN ra 0 6 ≠ 0 then trapWith s .misaligned ra
  else if fldN rb 0 6 ≠ 0 then trapWith s .misaligned rb
  else if windowOf ra.toNat ≠ some .glob then trapWith s .badWindow ra
  else if src.isSome && noTarget rb then trapWith s .badWindow rb
  else
    let cell := s.resolve ag ra.toNat 64 (if src.isSome then .w else .r)
    let from_ : Except Stop (List Piece) := match src with
      | none => .ok []
      | some b => s.resolve ag b.toNat 64 .r
    match cell, from_ with
    | .error x, .error y => .trap s (if stopRank y.code < stopRank x.code then y else x)
    | .error x, .ok _ => .trap s x
    | .ok _, .error y => .trap s y
    | .ok ps, .ok _ =>
      let act (s : State) (bs : List Byte) : Ctl := match (ps.headD default).target with
        | .scratch _ _ => trapWith s .badWindow ra
        | .glob pa l va =>
          if !l.t then trapWith s .sporeUntagged ra
          else if set && sporeBad (lineOf bs) then trapWith s .argRange ra
          else match s.gone l va with
            | some x => .trap s x
            | none => k s (pa / 64) (lineOf bs)
      match src with
      | none => act s []
      | some b => s.withRecord b.toNat 64 act

/-- Does a cell of another ASID refuse the thread (R328)? -/
def State.foreign (s : State) (line : Nat) : Bool :=
  s.tag line ≠ 0 && cellAsid (s.tag line) (s.line line) ≠ s.cur.asid

/-- A thread's action on a cell at its home slice, once the slice has the line and peers have dropped their copies: it meets the
watch entries, and is traced, as a store does (12 R261, R267; 19 R382, R390). -/
def State.cellAction (s : State) (line : Nat) (k : State → Ctl) : Ctl :=
  let ag := s.curAgent
  match s.askPeers ag.who line with
  | (false, s) => .wait s
  | (true, s) => match s.l2For line ag.asid with
    | none => .wait (s.holdWay ag.who line)
    | some s => k (((s.unholdReq ag.who line).watch ag.asid (line * 64) 64 true (some (.thread s.curThread))).traceAccess ag (line * 64) 1)

/-- SET, FILL and FAIL: the earlier stores of the thread perform first. -/
def State.sporeWrite (s : State) (a b : BitVec 5) (set : Bool) (k : State → Nat → Line → Ctl) : Ctl :=
  let ra := s.rd a
  s.afterStores fun s => s.sporeArgs ra (some (s.rd b)) set fun s line src =>
    if s.foreign line then trapWith s .access ra else k s line src

/-- SPORE.SET (R329). -/
def execSporeSet (a b : BitVec 5) (u p : BitVec 3) (s : State) : Out :=
  .next (s.control u p fun s => s.sporeWrite a b true fun s line src =>
    if s.tag line = 2 then
      .trap s { code := .sporeBusy, w1 := s.rd a, w2 := (growerOf (s.line line)).zeroExtend 64 }
    else s.cellAction line fun s => .retire (s.setCell line (putFld src 144 16 s.cur.asid.toNat) 1))

/-- SPORE.FILL (R327, R329): of a VALUE cell a 64-byte `ST.rel` (R328). That a surrogate's or SNAP residency's FILL of a SPORE or FAILED
cell performs at once, where its stores to a VALUE cell are tentative, is the model's choice (DESIGN CHOICE, log entry 81). -/
def execSporeFill (a b : BitVec 5) (u p : BitVec 3) (s : State) : Out :=
  .next (s.control u p fun s => s.sporeWrite a b false fun s line src =>
    if s.tag line ≠ 0 then s.cellAction line fun s => .retire (s.fillCell line src)
    else match s.resolve s.curAgent (s.rd a).toNat 64 .w with
      | .error x => .trap s x
      | .ok ps => match s.storePieces s.curAgent ps (lineBytes src) with
        | (.stop x, s) => .trap s x
        | (.wait, s) => .wait s
        | (.done, s) => .retire s)

/-- SPORE.FAIL (R327, R329). -/
def execSporeFail (a b : BitVec 5) (u p : BitVec 3) (s : State) : Out :=
  .next (s.control u p fun s => s.sporeWrite a b false fun s line src =>
    s.cellAction line fun s => .retire (s.failCell line src s.cur.asid))

/-- The word of Table 15-7. -/
def State.peekWord (s : State) (line : Nat) : Word :=
  let t := s.tag line
  let l := s.line line
  wordN (t.toNat + (if t = 2 then fldN l 32 7 * 2 ^ 8 + fldN l 0 32 * 2 ^ 32 else if t = 3 then fldN l 0 16 * 2 ^ 16 else 0))

/-- SPORE.PEEK (R329): a load under TSO, so the thread's own stores to the cell perform first; the slice fills the line and its tag
(12 R266). -/
def execSporePeek (a b : BitVec 5) (u p : BitVec 3) (s : State) : Out :=
  .next (s.control u p fun s =>
    let ra := s.rd a
    s.sporeArgs ra none false fun s line _ =>
      let ag := s.curAgent
      let s := s.drainLine s.curThread (0, line * 64)
      if s.cur.sbuf.any fun x => decide (targetByte x.target 0 = (0, line * 64)) then .wait s
      else match s.l2For line ag.asid with
        | none => .wait (s.holdWay ag.who line)
        | some s =>
          let s := s.unholdReq ag.who line
          if s.foreign line then trapWith s .access ra
          else .retire ((s.traceAccess ag (line * 64) 0).wr b (s.peekWord line)))

/-! ### KVT (16 R344) -/

/-- What a part of a `KVT` comes to: done, a fault, or a wait. -/
inductive KvtPart where
  | ok | stop (x : Stop) | wait
  deriving DecidableEq, Repr, Inhabited

/-- Store at an address for the current thread. -/
def State.kvtStore (s : State) (a : Nat) (bs : List Byte) : KvtPart × State :=
  match s.resolve s.curAgent a bs.length .w with
  | .error x => (.stop x, s)
  | .ok ps => match s.storePieces s.curAgent ps bs with
    | (.stop x, s) => (.stop x, s)
    | (.wait, s) => (.wait, s)
    | (.done, s) => (.ok, s)

/-- The decrement of a REFCNT that a peer homes: the peer compares and swaps in one access, and a count that has changed since it was
read is read anew. -/
def State.kvtPeer (s : State) (ag : Agent) (pa : Nat) (l : Leaf) (p : Piece) : KvtPart × State :=
  let cas (n : Nat) : Acc := .amo 2 4 1 (pa % 64) false (BitVec.ofNat 512 (n - 1)) (BitVec.ofNat 512 n)
  match s.askedFor ag.who l.peer (pa / 64) .amo with
  | some x => match s.peerAmo ag pa l (cas 0) with
    | (.line y _, s) => (if (match x.msg with
        | .amo _ _ _ _ _ _ _ c => decide (c = BitVec.ofNat 512 (leNat ((p.bytes y).take 4)))
        | _ => false) then .ok else .wait, s.tookReturns ag.who)
    | (.stop y, s) => (.stop y, s)
    | (.wait, s) => (.wait, s)
  | none => match s.recordRead ag p.va 8 with
    | (.error x, s) => (.stop x, s)
    | (.ok none, s) => (.wait, s)
    | (.ok (some bs), s) =>
      let n := leNat (bs.take 4)
      if n = 0 then (.ok, s.count ag.die 10 1) else (.wait, (s.peerAmo ag pa l (cas n)).2)
/-- One decrement of a page record's REFCNT at its home, or a count of KVUNDER on the die of that home, or the thread's for a line that a
peer homes. -/
def State.kvtDrop (s : State) (r : Word) : KvtPart × State :=
  let ag := s.curAgent
  if fldN r 0 6 ≠ 0 then (.stop { code := .misaligned, w1 := r }, s)
  else match s.resolve ag r.toNat 8 .w with
    | .error x => (.stop x, s)
    | .ok ps =>
      let p := ps.headD default
      match s.amoAtPeer ag p with
      | some (pa, l) => s.kvtPeer ag pa l p
      | none => match s.recordRead ag r.toNat 8 with
        | (.error x, s) => (.stop x, s)
        | (.ok none, s) => (.wait, s)
        | (.ok (some bs), s) =>
          let n := leNat (bs.take 4)
          if n = 0 then
            let die := match p.target with
              | .glob pa _ _ => (s.homeSlice pa).1
              | .scratch f _ => f.die
            (.ok, s.count die 10 1)
          else s.kvtStore r.toNat (leBytes 4 (n - 1))

/-- The entries from `e` on, ascending; the first one's decrement may have performed. A fault leaves what is done done; a wait is
taken up where it stands, which the answer names: entry, and whether its decrement has performed. -/
def State.kvtEntries (s : State) (list e : Nat) (dropped : Bool) : Nat → KvtPart × (Nat × Bool) × State
  | 0 => (.ok, (e, false), s)
  | n + 1 =>
    let at_ := list + 64 + 8 * e
    match s.recordRead s.curAgent at_ 8 with
    | (.error x, s) => (.stop x, (e, false), s)
    | (.ok none, s) => (.wait, (e, dropped), s)
    | (.ok (some bs), s) =>
      let r := wordN (leNat bs)
      if r = 0 then s.kvtEntries list (e + 1) false n
      else match (if dropped then (.ok, s) else s.kvtDrop r : KvtPart × State) with
        | (.stop x, s) => (.stop x, (e, false), s)
        | (.wait, s) => (.wait, (e, false), s)
        | (.ok, s) => match s.kvtStore at_ (List.replicate 8 0) with
          | (.stop x, s) => (.stop x, (e, true), s)
          | (.wait, s) => (.wait, (e, true), s)
          | (.ok, s) => s.kvtEntries list (e + 1) false n

/-- A `KVT` that waits within its effect goes on from an entry: nothing abandons it (R344; 09 R182). -/
def kvtStage (e : Nat) (dropped : Bool) : Nat := 3 + 2 * e + (if dropped then 1 else 0)

/-- KVT's effect: the entries no longer kept, then the header. -/
def State.kvtRun (s : State) (list nent keep : Nat) (header : Line) : Ctl :=
  let (e, dropped) := if s.cur.stage < 3 then (keep, false) else ((s.cur.stage - 3) / 2, (s.cur.stage - 3) % 2 = 1)
  match s.kvtEntries list e dropped (nent - e) with
  | (.stop x, _, s) => .trap s x
  | (.wait, (e, d), s) => .wait (s.modCur fun y => { y with stage := kvtStage e d })
  | (.ok, (e, _), s) => match s.kvtStore list (lineBytes header) with
    | (.stop x, s) => .trap s x
    | (.wait, s) => .wait (s.modCur fun y => { y with stage := kvtStage e false })
    | (.ok, s) => .retire s

/-- KVT (R344): a release, so the thread's earlier stores perform first. -/
def execKvt (a b : BitVec 5) (u p : BitVec 3) (s : State) : Out :=
  .next (s.control u p fun s =>
    let ra := s.rd a
    let rb := s.rd b
    if fldN ra 0 6 ≠ 0 then trapWith s .misaligned ra
    else if windowOf ra.toNat ≠ some .glob then trapWith s .badWindow ra
    else s.afterStores fun s => s.withRecord ra.toNat 64 fun s bs =>
      let h := lineOf bs
      let npos := fldN h 0 32
      let ptok := fldN h 32 16
      let nent := fldN h 64 32
      let n := rb.toNat
      if fldN h 48 16 ≠ 0 || fldN h 128 384 ≠ 0 || ptok = 0 || decide (fldN h 96 32 < nent) || decide (npos < n) then
        trapWith s .argRange ra
      else
        let keep := (n + ptok - 1) / ptok
        s.kvtRun ra.toNat nent keep (putFld (putFld h 0 32 n) 64 32 keep))

/-! ### What stops a requester that is parked (R325, R326) -/

/-- Stop a parked requester: a precise trap, a fabric fault or an engine fault. -/
def State.stopRequester (s : State) (q : Requester) (x : Stop) : State :=
  match q with
  | .thread t => s.takeTrap t x.code x.w1 x.w2 x.w3 (s.thr t).word (s.thr t).pc
  | .fePort f id => match (s.fe f).port.find? fun o => decide (o.id = id) with
    | none => s
    | some o => (s.unparkWho q).opFaults f o x
  | .binding r k _ => match s.binding r k with
    | none => s
    | some b => s.bindFaults r k b x
  | .engine t u seq => match (unitQueue u (s.thr t)).running.find? fun c => decide (c.seq = seq) with
    | none => s
    | some c => match c.op, c.res with
      | .tfetch, some r => s.tfetchFaults t c (feOfIndex r (s.res r) (fldN c.vb 0 11)) (fldN c.vb 11 4) x
      | _, _ => s.cmdFaults t u c x

/-- The chase of R325 from cell `x`, for `h` hops: the last cell read, when it finds cell `a`. -/
def State.chase (s : State) (a : Nat) : Nat → Nat → Option Nat
  | 0, _ => none
  | h + 1, x =>
    if s.tag x ≠ 2 then none
    else
      let y := fldN (s.line x) 64 64 / 64
      if y = a then some x
      else if y = 0 || s.tag y ≠ 2 then none
      else s.chase a h y

/-- WAITS_FOR_CHASE: the oldest chase that a task grower's park owes. -/
def execWaitsForChase (t : ThreadId) (s : State) : Out :=
  .next (match (s.thr t).chases with
    | [] => s
    | (q, b) :: rest =>
      if s.stoppedThread t || (s.thr t).paused.isSome then s
      else
        let s := s.modThr t fun x => { x with chases := rest }
        match s.growsCell q, s.parkedOn q with
        | some a, some b' =>
          if b' ≠ b then s
          else match s.chase a 3 b with
            | none => s
            | some x =>
              let va := match (s.waitersAt (s.slot b)).find? fun w => decide (w.who = q) with
                | some w => w.va
                | none => 0
              s.stopRequester q { code := .sporeCycle, w1 := va, w2 := (growerOf (s.line b)).zeroExtend 64, w3 := wordN (x * 64) }
        | _, _ => s)

/-- SPORE_TIMEOUT: a waiter parked for the limit of its cell's die; none whose requester is paused, frozen or saved (R326). -/
def execSporeTimeout (die slice pos : Nat) (s : State) : Out :=
  .next (match (s.waitersAt (die, slice))[pos]? with
    | none => s
    | some w =>
      let frozen := match w.who with
        | .thread t => s.stoppedThread t || (s.thr t).paused.isSome || (s.thr t).status = .saved
        | .engine t _ _ => !s.engineLive t
        | .fePort f id => s.stoppedFe f || ((s.fe f).beneath.isSome && (s.fe f).port.any fun o => decide (o.id = id ∧ o.plane ≠ 5))
        | .binding r k _ => (s.binding r k).all fun b => !s.engineLive b.owner
      if frozen || s.cyc < w.since + (s.die die).parkLimit then s
      else s.stopRequester w.who
        { code := .sporeTimeout, w1 := w.va, w2 := (growerOf (s.line w.cell)).zeroExtend 64 })

/-- BACK_OFF_RETRY: a refused access is made again; a thread's by its next turn. -/
def execBackOffRetry (q : Requester) (s : State) : Out :=
  .next (match q with
    | .thread t => { s with agenda := .thread t :: s.agenda }
    | .fePort f id => match (s.fe f).port.findIdx? fun o => decide (o.id = id) with
      | none => s
      | some pos => s.performPort f pos
    | .binding r k _ => match s.binding r k with
      | none => s
      | some b => if s.engineLive b.owner then s.readStep r k b else s
    | .engine t u seq => match (unitQueue u (s.thr t)).running.find? fun c => decide (c.seq = seq) with
      | none => s
      | some c => if s.engineLive t then s.runCmd t u c else s)

/-! ### Fills and walks (12 R260, R261, R265) -/

/-- The unit of a die whose fills and walks no agent's access waits for: the engine of a thread that no core has (model). -/
def fillUnit (die : Nat) : Requester := .engine ⟨die, 48, 0⟩ .se 0
/-- L2_FILL: for an access at an ASID and an address in its space, from a die, the line's home slice fills it if it is
missing, and the die's remote-data cache takes a copy if it may: a VALUE line homed elsewhere or on a peer, cacheable,
with no tentative copy (R260, R261). Nothing fills from behind a lost port or a peer that is gone (R270, R271). -/
def execL2Fill (die : Nat) (addr : Nat × Nat) (s : State) : Out :=
  .next (
    let a := BitVec.ofNat 16 addr.1
    let va := addr.2
    if windowOf va ≠ some .glob then s
    else match s.translate die a va with
    | .error _ => s
    | .ok l =>
      if (s.gone l va).isSome then s
      else
        let tent := s.tent.any fun t => decide (t.line = l.line l.pa)
        match s.sliceLoad { who := fillUnit die, asid := a, die } l.pa l tent with
        | (none, s') => s'
        | (some _, s') => s'.tookReturns (fillUnit die))

/-- The lines a walk has read are in their slices, marked walked; false while one waits for a way (12 R265, R267). -/
def State.walked (s : State) (q : Requester) (asid : BitVec 16) (made : List Nat) : Bool × State :=
  made.foldl (fun (r : Bool × State) l => match r.2.l2For l asid with
    | none => (false, r.2.holdWay q l)
    | some s => (r.1, (s.unholdReq q l).modL2 l fun x => { x with walked := true })) (true, s)
/-- PAGE_WALK: a walker completes once the lines it reads are there; what it found is kept in the tile. -/
def execPageWalk (die asid va : Nat) (s : State) : Out :=
  .next (
    let a := BitVec.ofNat 16 asid
    match s.walk a va with
    | .error _ => s
    | .ok w => match s.walked (fillUnit die) a w.made with
      | (false, s) => s
      | (true, s) =>
        let tile := s.tlbTile die va
        let mine := s.tlb.filter fun e => decide (e.die = die ∧ e.tile = tile ∧ e.block = w.block)
        let full := (if w.block then 64 else 1024) ≤ mine.length
        let rest := if full then (match mine.getLast? with
          | some e => s.tlb.erase e
          | none => s.tlb) else s.tlb
        let e : TlbEntry :=
          { die, tile, asid := a, vpn := if w.block then va / 2 ^ 29 else va / 2 ^ 16, block := w.block
            leaf := { w.leaf with pa := w.leaf.pa - (if w.block then va % 2 ^ 29 else va % 2 ^ 16) }, made := w.made
            incarnation := (vget s.front.peers w.leaf.peer).incarnation.toNat }
        { s with tlb := e :: rest })

/-! ### Accesses that perform (17 R349) -/

/-- A PITCH spore's service entry (R321). -/
def serviceEntry (x : Service) : List Byte :=
  leBytes 8 x.va.toNat ++ leBytes 8 (fldN x.spore 0 64) ++ leBytes 8 (fldN x.spore 64 64) ++
    leBytes 24 (fldN x.spore 320 192) ++ List.replicate 16 0

/-- Append a service entry to its queue: it waits while the queue is full, and a queue it cannot use fails the cell. -/
def State.serviceAppend (s : State) (die pos : Nat) : State :=
  match (s.die die).services[pos]? with
  | none => s
  | some x =>
    let asid := fld x.spore 144 16
    let q := fldN x.spore 192 64
    let gone (s : State) : State := s.modDie die fun d => { d with services := d.services.eraseIdx pos }
    let fail (c : Code) : State := (gone s).failGrowing x.cell (codeNum c)
    match s.unitRead die asid q 64 .rw with
    | .error c => fail c
    | .ok bs =>
      let r := lineOf bs
      let head := fldN r 0 32
      let tail := fldN r 32 32
      let size := fldN r 64 32
      if size = 0 || 2 ^ 31 < size then fail .argRange
      else if size ≤ (tail + 2 ^ 32 - head) % 2 ^ 32 then s
      else
        let place := (fldN r 128 64 + tail % size * 64) % 2 ^ 64
        match s.unitRead die asid place 64 .rw with
        | .error c => fail c
        | .ok _ => match s.unitWrite die asid place (serviceEntry x) with
          | .error c => fail c
          | .ok s => match s.unitWrite die asid (q + 4) (leBytes 4 (tail + 1)) with
            | .error c => (gone s).failGrowing x.cell (codeNum c)
            | .ok s => gone s

/-- ACCESS_PERFORM: an access that has been made performs: a buffered store, an access at an FE's port, a store of an output
binding, a service entry. -/
def execAccessPerform (a : AccessRef) (s : State) : Out :=
  .next (match a with
    | .storeBuffer t => (s.performStore t).2
    | .fePort f pos => s.performPort f pos
    | .binding r k pos => s.performBind r k pos
    | .service die pos => s.serviceAppend die pos)

end Sys2Proof.Machine
end

