-- ==== Sys2Proof/Machine/Records.lean ====
section
/-! DEFINITION. Launch records, completion pairs, rectangles of pages, and the leave pool (06 R128-R135; 08 R158-R162). -/

namespace Sys2Proof.Machine

/-! ### Fields of a launch record (Table 6-1) -/

def recImage (l : Line) : Nat := fldN l 0 64
def recH (l : Line) : Nat := fldN l 64 3
def recW (l : Line) : Nat := fldN l 67 4
def recPrio (l : Line) : Nat := fldN l 71 2
def recQueue (l : Line) : Nat := recPrio l * 4 + fldN l 73 2
def recSnap (l : Line) : Bool := bitOf l 75
def recGang (l : Line) : Bool := bitOf l 76
def recSplice (l : Line) : Bool := bitOf l 77
def recGsl (l : Line) : Bool := bitOf l 78
def recPower (l : Line) : Nat := fldN l 79 4
def recDie (l : Line) : Nat := fldN l 83 3
def recAsid (l : Line) : BitVec 16 := fld l 88 16
def recDone (l : Line) : Word := fld l 320 64
def recArg (l : Line) : Word := fld l 384 64
def recEntry (l : Line) : Nat := fldN l 448 32
def recAge (l : Line) : Nat := if fldN l 480 16 = 0 then 4000 else fldN l 480 16
def recSlack (l : Line) : Nat := if fldN l 496 16 = 0 then 50 else fldN l 496 16

/-- A record malformed in any launch (R129). -/
def recBad (l : Line) : Bool :=
  fldN l 0 6 ≠ 0 || recH l < 1 || 6 < recH l || recW l < 1 || 8 < recW l || recGsl l || (4 ≤ recDie l && recDie l ≤ 6) ||
  fldN l 86 2 ≠ 0 || fldN l 120 8 ≠ 0 || (!recGang l && fldN l 104 16 ≠ 0) || fldN l 128 3 ≠ 0 || fldN l 192 3 ≠ 0 ||
  fldN l 320 4 ≠ 0
/-- A host record that is malformed: SPLICE is 0 in it. -/
def hostRecBad (l : Line) : Bool := recBad l || recSplice l
/-- A device record that is malformed, given to `SPLICE` or to `LAUNCH`. -/
def deviceRecBad (l : Line) (splice : Bool) : Bool := recBad l || recAsid l ≠ 0 || recGang l || recSplice l ≠ splice

/-! ### Completion pairs (R133) -/

/-- Add 1 to word 0 and write word 1, as one action at home; a peer that homes the pair is sent it (17 R349; 21 R411). Where DONE does not
translate with W, or lies on a line out of reach, a poisoned line or a cell that is not VALUE, the manual gives no outcome: nothing is written and the
completion is lost (DESIGN CHOICE, log entry 78). -/
def State.pairDone (s : State) (die : Nat) (asid : BitVec 16) (done : Word) (status : Nat) : State :=
  if done = 0 || windowOf done.toNat ≠ some .glob then s
  else match s.translateFor die asid done.toNat .w with
    | .error _ => s
    | .ok l =>
      let line := l.pa / 64
      if (s.gone l done.toNat).isSome then s
      else if l.p then s.ask { who := none, peer := l.peer, line, msg := .pair l.peer l.pa status }
      else if s.poisoned line || (l.t && s.tag line ≠ 0) then s
      else (s.homeStore l.pa l.t (leBytes 8 (leNat (s.mem.readBytes l.pa 8) + 1) ++ leBytes 8 status)).ownLine line asid

/-! ### Rectangles (08 R159, R162) -/

def rectPages (band group h w : Nat) : List Nat :=
  (List.range (h * w)).map fun k => pageNum (band + k / w) (group + k % w)
/-- The first row-major origin whose pages all satisfy `ok`. -/
def firstOrigin (h w : Nat) (ok : Nat → Bool) : Option (Nat × Nat) :=
  (((List.range (7 - h)).flatMap fun b => (List.range (9 - w)).map fun g => (b, g))).find? fun o =>
    (rectPages o.1 o.2 h w).all ok
/-- Could a shape ever fit a die? -/
def Die.everFits (x : Die) (h w : Nat) : Bool := (firstOrigin h w x.pageLive).isSome

/-! ### Leave (06 R135, R143) -/

def LeaveReq.before (a b : LeaveReq) : Bool := decide (a.prio < b.prio)
/-- The request the controller grants next: of those that fit the pool, the lowest priority number, first come. At LEVEL 2
it grants none (21 R419). -/
def State.leaveNext (s : State) : Option LeaveReq :=
  if 2 ≤ s.front.level then none
  else (s.front.leaveReqs.filter fun q => !q.granted && decide (q.units ≤ s.front.poolFree)).foldl (fun m q => match m with
    | none => some q
    | some x => if q.before x then some q else some x) none
/-- Grant one request that waits. -/
def State.grantLeave (s : State) : State :=
  match s.leaveNext with
  | none => s
  | some q => { s with front := { s.front with
      poolFree := s.front.poolFree - q.units
      leaveReqs := s.front.leaveReqs.map fun x => if x.who = q.who then { x with granted := true } else x } }
/-- Take units at once: none when the pool lacks them, or a request that waits and fits comes first. -/
def State.takeLeave (s : State) (units : Nat) : Option State :=
  if s.leaveNext.isSome || 2 ≤ s.front.level || s.front.poolFree < units then none
  else some { s with front := { s.front with poolFree := s.front.poolFree - units } }
/-- Does the pool hold `n` units that the controller may grant now (21 R419)? -/
def State.poolHolds (s : State) (n : Nat) : Bool := decide (s.front.level < 2 ∧ n ≤ s.front.poolFree)
/-- Take units that the pool holds. -/
def State.drawPool (s : State) (n : Nat) : State := { s with front := { s.front with poolFree := s.front.poolFree - n } }
/-- Give units back to the pool. -/
def State.giveLeave (s : State) (units : Nat) : State :=
  { s with front := { s.front with poolFree := s.front.poolFree + units } }
/-- Ask, or find what was asked for granted: then the request is gone and its units are the asker's. -/
def State.askLeave (s : State) (who : LeaveFor) (units prio : Nat) (drawn : Nat := 0) : Bool × State :=
  match s.front.leaveReqs.find? fun q => q.who = who with
  | some q =>
    if q.granted then (true, { s with front := { s.front with leaveReqs := s.front.leaveReqs.filter fun x => x.who ≠ who } })
    else (false, s)
  | none => match s.takeLeave units with
    | some s => (true, s)
    | none => (false, { s with front := { s.front with leaveReqs := s.front.leaveReqs ++ [{ who, units, drawn, prio }] } })

/-- Explicit leave of a residency that waiting `CFG.ARM`s have drawn (06 R141). -/
def State.drawnOf (s : State) (r : ResId) : Nat :=
  ((s.front.leaveReqs.filter fun q => match q.who with
    | .cfgArm _ z => z = r
    | .pwrAsk _ _ => false
    | .arm _ => false).map (·.drawn)).sum

/-- LEAVE_GRANT (R135). -/
def execLeaveGrant (s : State) : Out := .next (if s.front.dbg.frozen then s else s.grantLeave)

/-! ### CP queues (06 R130, R131) -/

/-- Put a record at the end of its queue, its wait events tested; none when the queue holds 64. -/
def State.queueRec (s : State) (die queue : Nat) (q : QRec) : Option State :=
  if 64 ≤ (vget (s.die die).queues queue).length then none
  else
    let q := s.testRec die none q
    some (s.modDie die fun d => { d with queues := vmod d.queues queue fun l => l ++ [q] })

/-! ### Reservations (08 R161) -/

/-- Clear every RSV of a die and its reservation. -/
def Die.unreserve (x : Die) : Die := { x with reservation := none, pages := x.pages.map fun p => { p with rsv := false } }
/-- Does a reservation belong to the record at a place of a queue? -/
def Die.reservedFor (x : Die) (queue pos : Nat) : Bool := match x.reservation with
  | none => false
  | some (k, p, _, _, _) => k = queue && p = pos

/-- Take the record at a place out of its queue; a reservation of it goes, one of a record behind it moves up. -/
def Die.dropRec (x : Die) (queue pos : Nat) : Die :=
  let x := { x with queues := vmod x.queues queue fun l => l.eraseIdx pos }
  match x.reservation with
  | none => x
  | some (k, p, b, g, n) =>
    if k ≠ queue || p < pos then x
    else if p = pos then x.unreserve
    else { x with reservation := some (k, p - 1, b, g, n) }

/-- Take every record that `p` holds of out of a die's queues. -/
def Die.dropRecs (x : Die) (p : QRec → Bool) : Die :=
  (List.range 16).foldl (fun x k => ((vget x.queues k).zipIdx.filter fun q => p q.1).reverse.foldl (fun x q => x.dropRec k q.2) x) x

end Sys2Proof.Machine
end

