-- ==== Sys2Proof/Machine/Guard.lean ====
section
/-! DEFINITION. Guarded-surrogate launches: GSL, the issue of tiles, decisions, the end of a guard (07 R144-R156). -/

namespace Sys2Proof.Machine

def GuardEntry.tile (g : GuardEntry) (i : Nat) : GTile := mapGet {} g.tiles i
def GuardEntry.count (g : GuardEntry) : Nat := fldN g.record 448 16 + 1
def GuardEntry.paired (g : GuardEntry) : Bool := bitOf g.record 470

/-! ### Decisions (R147, R151, Table 7-2) -/

/-- Does a tile pass (R147), with no store marked by R148? -/
def GTile.passes (g : GTile) (tol : BitVec 32) : Bool :=
  let f := fmtOf 10
  g.deliv && !g.marked && !(f.val g.res.toNat).isNan && !(f.val tol.toNat).isNan && !(f.val tol.toNat).lt (f.val g.res.toNat)

/-- DONE increments and the result area (R153): PASS, FAIL, FALLBACK, TM1, the bitmap. -/
def GuardEntry.counts (g : GuardEntry) : Nat × Nat × Nat :=
  let ts := (List.range g.count).map g.tile
  ((ts.filter fun t => t.code = 1).length, (ts.filter fun t => t.code ≠ 1 && !t.viaFallback).length,
    (ts.filter fun t => t.code ≠ 1 && t.viaFallback).length)
def GuardEntry.area (g : GuardEntry) : List Byte :=
  let (p, f, b) := g.counts
  let map := (List.range ((g.count + 3) / 4)).map fun k => BitVec.ofNat 8
    ((List.range 4).map fun j => if 4 * k + j < g.count then (g.tile (4 * k + j)).code.toNat * 4 ^ j else 0).sum
  leBytes 4 p ++ leBytes 4 f ++ leBytes 4 b ++ leBytes 2 (g.count - 1) ++ List.replicate 50 0 ++ map
/-- The status of a guard whose tiles are all DONE. -/
def GuardEntry.status (g : GuardEntry) : Nat :=
  match (List.range g.count).find? fun i => (g.tile i).code = 0 with
  | none => 0
  | some i => (g.tile i).status

/-- A spore's guard performs `SPORE.FILL` with the bytes at OBASE, or `SPORE.FAIL`, on its cell as it ends, under its ASID: a cell of
another ASID refuses it (R155; 15 R328). Where the 64 bytes at OBASE cannot be read the cell fails with the code of that read (DESIGN CHOICE,
log entry 80). -/
def State.guardCell (s : State) (die e : Nat) (g : GuardEntry) (cell : Nat) : State :=
  let fail (code : Nat) : State := s.failCell cell (putFld (putFld 0 0 16 code) 16 32 (2 * 2 ^ 30 + die * 2 ^ 28 + e * 2 ^ 24)) g.asid
  if s.tag cell ≠ 0 && cellAsid (s.tag cell) (s.line cell) ≠ g.asid then s
  else if g.status ≠ 0 then fail g.status
  else match s.unitRead die g.asid (fldN g.record 192 64) 64 .r with
    | .error c => fail (codeNum c)
    | .ok bs => s.fillCell cell (lineOf bs)

/-- End a guard whose tiles are all DONE: result area, completion, counters, and its entry is free (R153-R155). A result area that
cannot be written is left unwritten, and the pair takes its status all the same (DESIGN CHOICE, log entry 79). -/
def State.guardEnds (s : State) (die e : Nat) : State :=
  match vget (s.die die).guards e with
  | none => s
  | some g =>
    if !(List.range g.count).all fun i => (g.tile i).state = .done then s
    else
      let s := match s.unitWrite die g.asid (fldN g.record 320 64) g.area with
        | .ok s => s
        | .error _ => s
      let (p, f, b) := g.counts
      let s := ((s.count die 12 p).count die 13 f).count die 14 b
      let s := match g.cell with
        | none => s.pairDone die g.asid g.pair g.status
        | some c => s.guardCell die e g c
      s.modDie die fun d => { d with guards := vset d.guards e none }

/-- A tile passes: once what peers home of its stores has performed there, its decision point makes the rest memory (R151). -/
def State.tileCommit (s : State) (die e t : Nat) (asid : BitVec 16) : State :=
  let o := TentOwner.tile die e t
  if s.commitOwed o then (s.commitSend o asid).modTile die e t fun x => { x with state := .deciding, due := 0 }
  else ((s.commitTent o asid).modTile die e t fun x => { x with state := .done, code := 1, due := 0 }).guardEnds die e
/-- A residency of a tile has completed (Table 7-2). -/
def State.tileDone (s : State) (die e t : Nat) (status : Nat) : State :=
  match vget (s.die die).guards e with
  | none => s
  | some g =>
    let x := g.tile t
    match x.state with
    | .running =>
      if status ≠ 0 then s.modTile die e t fun x => { x with state := .failed }
      else if 1 < x.due then s.modTile die e t fun x => { x with due := x.due - 1 }
      else if x.passes g.tol then s.tileCommit die e t g.asid
      else s.modTile die e t fun x => { x with state := .failed, due := 0 }
    | .exact =>
      let code := if status ≠ 0 then 0 else if x.viaFallback then 3 else 2
      (s.modTile die e t fun x => { x with state := .done, code, status }).guardEnds die e
    | .queued | .deciding | .failed | .fallback | .done => s

/-- The completion of a launch: the pair its record names, or the guard that issued it (06 R133; 07 R145). -/
def State.launchDone (s : State) (die : Nat) (record : Line) (asid : BitVec 16) (role : GuardRole) (status : Nat) : State :=
  match role with
  | .none => s.pairDone die asid (recDone record) status
  | .surrogate e t => s.tileDone die e t status
  | .checker e t => s.tileDone die e t status
  | .exact e t => s.tileDone die e t status

/-! ### Issue (R145, R152) -/

/-- The record a guard issues for an image whose header it has read (R145). -/
def guardRec (g : GuardEntry) (die : Nat) (i : Image) : Line :=
  let l := putFld (putFld (putFld (putFld 0 0 64 i.addr) 64 3 i.h) 67 4 i.w) 71 2 (fldN g.record 471 2)
  let l := putFld (putFld (putFld (putFld l 78 1 1) 79 4 i.power) 83 3 die) 88 16 g.asid.toNat
  putFld (putFld l 384 64 (fldN g.record 384 64)) 448 32 0xFFFFFFFF

/-- Issue one record of a tile: a header that cannot be read or is malformed counts as a completion with status 1, a shape
that can never fit with status 2. -/
def State.guardIssue (s : State) (die : Nat) (g : GuardEntry) (role : GuardRole) (tile addr : Nat) : State :=
  match s.unitRead die g.asid addr 64 .r with
  | .error _ => s.launchDone die 0 g.asid role 1
  | .ok bs =>
    let i : Image := { addr, header := lineOf bs }
    if !i.headerOk then s.launchDone die 0 g.asid role 1
    else if !(s.die die).everFits i.h i.w then s.launchDone die 0 g.asid role 2
    else
      let r := guardRec g die i
      (s.queueRec die (recQueue r) { record := r, asid := g.asid, guard := role, tile }).getD s

/-- Room for `n` records in the queue a guard uses. -/
def State.guardRoom (s : State) (die : Nat) (g : GuardEntry) (n : Nat) : Bool :=
  decide ((vget (s.die die).queues (4 * fldN g.record 471 2)).length + n ≤ 64)

/-- Is a role one of a tile of an entry? -/
def GuardRole.isTile (x : GuardRole) (e t : Nat) : Bool := match x with
  | .none => false
  | .surrogate e' t' => e' = e && t' = t
  | .checker e' t' => e' = e && t' = t
  | .exact _ _ => false
/-- A residency of a guard that the guard counts no more: entry 16 is none. -/
def GuardRole.cut : GuardRole → GuardRole
  | .none => .none
  | .surrogate _ t => .surrogate 16 t
  | .checker _ t => .checker 16 t
  | .exact _ t => .exact 16 t

/-- The request for leave of a residency not yet armed is withdrawn. -/
def State.dropArm (s : State) (r : ResId) : State :=
  let mine (q : LeaveReq) : Bool := q.who = LeaveFor.arm r
  let back := ((s.front.leaveReqs.filter fun q => mine q && q.granted).map (·.units)).sum
  { s with front := { s.front with leaveReqs := s.front.leaveReqs.filter fun q => !mine q
                                   poolFree := s.front.poolFree + back } }

/-- End a residency as `CFG.FREE` ends one, with a status; one that is not armed never is (06 R141). -/
def State.freeRes (s : State) (r : ResId) (status : Nat) : State :=
  let s := s.endRes r status
  if (s.res r).state = .armed then s else (s.dropArm r).modRes r fun x => { x with halted := true }
/-- The guard ends a residency of a tile and counts it no more (R148). -/
def State.guardFree (s : State) (r : ResId) : State := (s.freeRes r 0).modRes r fun x => { x with guard := x.guard.cut }

/-- DISCARD of a tile in FAIL or FALLBACK: its residencies end, its records leave their queue, its copies are dropped, and
its exact record is due (R148, R151, R152). -/
def State.tileDiscard (s : State) (die e t : Nat) (viaFallback : Bool) : State :=
  let mine := ((s.die die).res.filter fun p => p.2.guard.isTile e t).map fun p => (⟨die, p.1⟩ : ResId)
  let s := mine.foldl (fun s r => s.guardFree r) s
  let s := s.modDie die fun d => d.dropRecs fun q => q.guard.isTile e t
  let s := (s.discardTent (.tile die e t)).modTile die e t fun x => { x with state := .exact, viaFallback }
  s.modDie die fun d => { d with guards := vmod d.guards e (Option.map fun g => { g with exactOrder := g.exactOrder ++ [t] }) }

/-- A tile enters RUNNING. -/
def State.tileRun (s : State) (die e : Nat) (g : GuardEntry) (t : Nat) : State :=
  let s := s.modTile die e t fun x => { x with state := .running, due := if g.paired then 2 else 1 }
  let s := s.guardIssue die g (.surrogate e t) t (fldN g.record 0 64)
  if g.paired then s.guardIssue die g (.checker e t) t (fldN g.record 64 64) else s

/-- GUARD_TILE_ISSUE: a free entry takes the oldest guard that waits for one; an entry in use decides a tile that peers have
kept waiting, discards a tile, issues an exact record, or starts its lowest QUEUED tile (R152, R155). -/
def execGuardTileIssue (die entry : Nat) (s : State) : Out :=
  .next (if s.front.dbg.frozen then s
    else match vget (s.die die).guards entry with
    | none => match (s.die die).guardWait with
      | [] => s
      | (r, asid, cell) :: rest =>
        if 16 ≤ entry then s
        else
          let g : GuardEntry := { record := r, asid, tol := fld r 480 32, pair := 0, cell := some cell }
          let s := s.growth cell fun l => if fldN l 30 2 = 2 && bitOf l 23 then
            putFld l 0 32 (2 * 2 ^ 30 + die * 2 ^ 28 + entry * 2 ^ 24) else l
          s.modDie die fun d => { d with guards := vset d.guards entry (some g), guardWait := rest }
    | some g =>
      let ts := (List.range g.count)
      match ts.find? fun i => (g.tile i).state = .deciding with
      | some i => s.tileCommit die entry i g.asid
      | none => match ts.find? fun i => (g.tile i).state = .failed || (g.tile i).state = .fallback with
      | some i => s.tileDiscard die entry i ((g.tile i).state = .fallback)
      | none => match g.exactOrder with
        | i :: rest =>
          if !s.guardRoom die g 1 then s
          else
            let s := s.modDie die fun d => { d with guards := vmod d.guards entry (Option.map fun g => { g with exactOrder := rest }) }
            s.guardIssue die g (.exact entry i) i (fldN g.record 128 64)
        | [] =>
          let busy := (ts.filter fun i => (g.tile i).state = .running || (g.tile i).state = .deciding).length
          match ts.find? fun i => (g.tile i).state = .queued with
          | some i =>
            if busy ≤ fldN g.record 464 6 && s.guardRoom die g 2 then s.tileRun die entry g i else s
          | none => s)

/-! ### GSL (R156) -/

/-- The tolerance `GSL` copies: +0 on a task thread (R146, R156). -/
def State.gtolFor (s : State) (k : BitVec 3) : BitVec 32 :=
  match s.pitchOf s.curThread with
  | none => 0
  | some r => vget (s.res r).gtol k.toNat

/-- Does the current thread's residency come from a GSL = 1 record? -/
def State.fromGuard (s : State) : Bool := match s.curRes with
  | none => false
  | some r => recGsl (s.res r).record

/-- GSL (R156): a release. R156 wants a free entry of the die; that the lowest free one is taken is the model's choice (DESIGN CHOICE, log
entry 82). -/
def execGsl (a b : BitVec 5) (k u p : BitVec 3) (s : State) : Out :=
  .next (s.control u p fun s =>
    let ra := s.rd a
    let rb := s.rd b
    let die := s.curThread.die
    if s.curThread.tid = 0 || s.fromGuard then trapWith s .access
    else if fldN ra 0 6 ≠ 0 then trapWith s .misaligned ra
    else if fldN rb 0 4 ≠ 0 || rb = 0 then trapWith s .misaligned rb
    else s.afterStores fun s => s.withRecord ra.toNat 64 fun s bs =>
      let rec_ := lineOf bs
      if guardBad rec_ then trapWith s .argRange
      else match (List.range 16).find? fun e => (vget (s.die die).guards e).isNone && (s.die die).guardWait.isEmpty with
        | none => .wait s
        | some e =>
          let g : GuardEntry := { record := rec_, asid := s.cur.asid, tol := s.gtolFor k, pair := rb }
          .retire (s.modDie die fun d => { d with guards := vset d.guards e (some g) }))

end Sys2Proof.Machine
end

