-- ==== Sys2Proof/Machine/Cfg.lean ====
section
/-! DEFINITION. CFG: loading and arming planes of a running residency, plane switches, the sequencer ring, freeing; the power
instructions (06 R135, R141, R143; 05 R125-R127; 17 R352). -/

namespace Sys2Proof.Machine

/-! ### Installing an accepted image -/

/-- What a residency keeps of an image once its planes stand in the context store. -/
def Staged.kept (st : Staged) : Staged := { st with feBlocks := [], routes := [], islands := [] }

/-- Write planes, routing words and islands into the context store. -/
def State.installPlanes (s : State) (st : Staged) : State :=
  let s := st.feBlocks.foldl (fun s x => s.modFe x.1 fun f => { f with planes := vset f.planes x.2.1 x.2.2 }) s
  { s with routes := st.routes.foldl (fun m x => mapSet m x.1 x.2) s.routes
           islands := st.islands.foldl (fun m x => mapSet m x.1 x.2) s.islands }

/-- Lay out the local memory of the FEs: banks, tile slots, delay buffers, and the rest scratch, over all that the pitch now holds
(05 R124). -/
def State.installLocal (s : State) (st : Staged) : State :=
  let s := st.banks.foldl (fun s b => s.setBank b.1 b.2) s
  st.local_.foldl (fun s x =>
    let h := s.localHeld x.1 []
    s.modFe x.1 fun f => { f with hasTiles := h.2.1, delay := h.2.2, scratch := 131072 - localUse h.1 h.2.1 h.2.2 }) s

/-- A plane's free-space counters at the capacities of its ports (08 R165). -/
def Plane.credited (p : Plane) (x : Residency) (f : FeId) (plane : Nat) : Plane :=
  { p with outp := Vector.ofFn fun (k : Fin 8) => { vget p.outp k.val with free := x.portCapacity f plane k.val } }
def State.creditPlanes (s : State) (r : ResId) (st : Staged) : State :=
  st.feBlocks.foldl (fun s x => s.modPlane x.1 x.2.1 fun p => p.credited (s.res r) x.1 x.2.1) s

/-- An image's edges and rotations, its edges named in the residency beside those that stand there (05 R115; 06 R141). -/
def Staged.named (st : Staged) (es : List Edge) : Staged :=
  let n := 2 ^ 16 * (es.foldl (fun m e => max m (e.key / 2 ^ 16 + 1)) 0)
  { st with edges := st.edges.map fun e => { e with key := e.id + n }
            rots := st.rots.map fun q => { q with loopEdges := q.loopEdges.map (· + n) } }
/-- A residency with an image's edges, rotations and banks; those of planes written anew go. -/
def Residency.join (x : Residency) (st : Staged) : Residency :=
  let es := x.edges.filter fun e => !st.planes.contains e.plane
  let st := st.named es
  { x with edges := es ++ st.edges
           rots := (x.rots.filter fun q => !st.planes.contains q.plane) ++ st.rots
           image := { x.image with
             planes := x.image.planes ++ st.planes.filter fun p => !x.image.planes.contains p
             banks := x.image.banks ++ st.banks, footprint := x.image.footprint ++ st.footprint }
           staged := none }

/-- Prefetch the data footprint of an image (05 R106; 12 R269). -/
def State.prefetchAll (s : State) (die : Nat) (asid : BitVec 16) (ps : List (Nat × Nat)) : State :=
  ps.foldl (fun s p => s.prefetch die asid p.1 p.2) s

/-- Do bank ranges meet those of an armed residency (05 R127)? -/
def State.bankBusy (s : State) (bs : List (FeId × Bank)) : Bool :=
  s.allRes.any fun y => decide (y.2.state = .armed) && y.2.image.banks.any fun o => bs.any fun b =>
    decide (b.2.base < o.2.base + o.2.len ∧ o.2.base < b.2.base + b.2.len)

/-! ### CFG.LOAD, CFG.ARM, CFG.FREE (R141) -/

/-- The residency whose pitch a `CFG` form of the current thread acts on: none on thread 0 and for an evaluator. -/
def State.cfgRes (s : State) : Option ResId := if s.curThread.tid = 0 then none else s.curRes

/-- Must the residency not write these planes now (R141)? -/
def Residency.loadBusy (x : Residency) (st : Staged) : Bool :=
  let ringed := x.ringRun || (x.switch.bind (·.ring)).isSome
  x.urgent ||
  (st.planes.any fun p => !x.usesPlane p || p = x.plane || (x.switch.map (·.target)) = some p ||
    (ringed && x.ring.any fun e => e.1 = p) || x.rots.any fun q => q.plane = p) ||
  (st.rots.any fun q => x.rots.any fun z => z.num = q.num) ||
  st.banks.any fun b => x.image.banks.any fun o => o.1 = b.1

/-- A refusal of CFG.LOAD: the status, and the delivery to the control thread, which freezes nothing (05 R125). -/
def State.loadRefused (s : State) (r : ResId) (b : BitVec 5) (a : Nat) (x : LoadStop) : Ctl :=
  .retire ((s.deliver r { words := loadRec s r s.curThread a x }).wr b (wordN (codeNum x.code)))

/-- How a `CFG.LOAD` reads an image: as records are read. A read that has to wait answers with this stop, which names the piece that it waits
for: the whole check is made again once that is over. -/
def State.cfgReader (s : State) : Reader := fun a n => match (s.recordRead s.curAgent a n).1 with
  | .error x => .error x
  | .ok (some bs) => .ok bs
  | .ok none => .error { code := .killed, w1 := wordN a, w2 := wordN n }

/-- What reading an image leaves in the caches, its reads being those of records (17 R347; 19 R390). -/
def State.tookImage (s : State) (i : Image) : State :=
  let parts := (i.addr, 64 + 16 * i.nsec) :: (i.dir.filter fun e => e.kind ≠ 9 && e.kind ≠ 10).map fun e => (i.addr + e.off, e.slen)
  parts.foldl (fun s x => (s.recordRead s.curAgent x.1 x.2).2) s

/-- CFG.LOAD. -/
def execCfgLoad (a b : BitVec 5) (u p : BitVec 3) (s : State) : Out :=
  .next (s.control u p fun s => match s.cfgRes with
    | none => trapWith s .access
    | some r =>
      let s := s.drain s.curThread
      if !s.drained s.curThread then .wait s
      else
        let x := s.res r
        let addr := (s.rd a).toNat
        match checkImage s.cfgReader addr x.h x.w (s.pitchHeld r x) with
        | .error (.unread y) =>
          if y.code = .killed then .wait (s.recordRead s.curAgent y.w1.toNat y.w2.toNat).2 else .trap s y
        | .error (.refused y) => s.loadRefused r b addr y
        | .ok (i, ps) =>
          let s := s.tookImage i
          let st := i.staged r x
          if x.loadBusy st then s.loadRefused r b addr { code := .cfgBusy }
          else
            let s := (s.patch r.die s.cur.asid ps).prefetchAll r.die s.cur.asid st.footprint
            .retire ((s.modRes r fun x => { x with staged := some st }).wr b 0))

/-- Staged planes join the residency with `k` units of explicit leave drawn and `n` more taken. -/
def State.joinStaged (s : State) (r : ResId) (st : Staged) (k n : Nat) : State :=
  let s := (s.installPlanes st).modRes r fun x => { x.join st with
    power := max x.power st.power, classLeave := x.classLeave + k + n, explicitLeave := x.explicitLeave - k }
  (s.installLocal st).creditPlanes r st

/-- CFG.ARM: banks first, then the leave that the staged class needs beyond the current one. What it draws of leave taken with `PWR.ASK` is
drawn as it asks for the rest; a change of either need withdraws what it has asked for. -/
def execCfgArm (b : BitVec 5) (u p : BitVec 3) (s : State) : Out :=
  .next (s.control u p fun s => match s.cfgRes with
    | none => trapWith s .access
    | some r =>
      let x := s.res r
      let t := s.curThread
      match x.staged with
      | none => .retire ((s.cancelLeave t).wr b 0)
      | some st =>
        if s.bankBusy st.banks then .retire ((s.cancelLeave t).wr b 11)
        else
          let need := (st.power + 1) * x.h * x.w - x.classLeave
          let asked (s : State) : Option LeaveReq := s.front.leaveReqs.find? fun q => q.who = LeaveFor.cfgArm t r
          let s := if (asked s).any fun q => q.drawn + q.units ≠ need then s.cancelLeave t else s
          let k := match asked s with
            | some q => q.drawn
            | none => min (x.explicitLeave - s.drawnOf r) need
          if need - k = 0 then .retire ((s.joinStaged r st k 0).wr b 0)
          else match s.askLeave (.cfgArm t r) (need - k) x.prio k with
            | (true, s) => .retire ((s.joinStaged r st k (need - k)).wr b 0)
            | (false, s) => .wait s)

/-- CFG.FREE: a status an earlier ending set stands. -/
def execCfgFree (u p : BitVec 3) (s : State) : Out :=
  .next (s.control u p fun s => match s.cfgRes with
    | none => trapWith s .access
    | some r => .retire (s.endRes r (s.res r).status))

/-! ### Plane switches (R141, 17 R352) -/

/-- Ask for a switch to a plane and wait until it is made: stage 1 from then on, stage 2 once its own wait is over. -/
def State.awaitSwitch (s : State) (r : ResId) (target : Nat) (ring : Option Nat) (entries : List (Nat × Nat)) : Ctl :=
  let busy := (s.res r).switch.isSome
  if s.cur.stage ≠ 0 then if busy then .wait s else .retire s
  else if busy then .wait s
  else
    let s := s.modRes r fun x => { x with
      ringRun := false, ring := if ring.isSome then entries else x.ring, drains := []
      switch := some { target, ring, asker := some s.curThread, since := s.cyc } }
    .wait (s.modCur fun y => { y with stage := 1 })

/-- CFG.SWAP. An urgent residency has no plane from 0 to 4. -/
def execCfgSwap (a : BitVec 5) (u p : BitVec 3) (s : State) : Out :=
  .next (s.control u p fun s => match s.cfgRes with
    | none => trapWith s .access
    | some r =>
      if 4 < (s.rd a).toNat || (s.res r).urgent then trapWith s .argRange
      else s.awaitSwitch r (s.rd a).toNat none [])

/-- The entries of a sequencer descriptor and its FIRST, or none when it is malformed (Table 6-4). -/
def seqRing (l : Line) (fes : Nat) : Option (Nat × List (Nat × Nat)) :=
  let n := fldN l 0 3
  let first := fldN l 3 3
  let e (i : Nat) : Nat := fldN l (64 * i + 64) 64
  let es := (List.range (n + 1)).map fun i => (e i % 8, e i / 8 % 2 ^ 11)
  if 4 < n || n < first || fldN l 6 58 ≠ 0 || fldN l 384 128 ≠ 0 ||
      (List.range 5).any (fun i => decide (2 ^ 14 ≤ e i) || (decide (n < i) && e i ≠ 0)) ||
      es.any (fun x => decide (4 < x.1 ∨ fes ≤ x.2)) then none
  else some (first, es)

/-- CFG.SEQ. -/
def execCfgSeq (a : BitVec 5) (u p : BitVec 3) (s : State) : Out :=
  .next (s.control u p fun s => match s.cfgRes with
    | none => trapWith s .access
    | some r =>
      let ra := s.rd a
      let x := s.res r
      if ra = 0 then
        if x.switch.isSome then .wait s else .retire (s.modRes r fun x => { x with ringRun := false })
      else if fldN ra 0 6 ≠ 0 || x.urgent then trapWith s .argRange
      else if s.cur.stage ≠ 0 then s.awaitSwitch r 0 none []
      else s.withRecord ra.toNat 64 fun s bs => match seqRing (lineOf bs) (24 * x.h * x.w) with
        | none => trapWith s .argRange
        | some (k, es) => s.awaitSwitch r (es.getD k (0, 0)).1 (some k) es)

/-- Has an FE's work under a residency's planes come to rest, every access performed (R141, R304, 17 R352)? -/
def Fe.switchable (y : Fe) (x : Residency) : Bool :=
  !(y.firing.any fun g => x.usesPlane g.plane) && !(y.firingBelow.any fun g => x.usesPlane g.plane) &&
  !(y.mtu.any fun o => x.usesPlane o.plane) && !(y.mtuOut.any fun o => x.usesPlane o.plane) &&
  !(y.port.any fun o => x.usesPlane o.plane)

/-- Is the wait of a switch over? -/
def State.switchReady (s : State) (r : ResId) : Bool :=
  let x := s.res r
  (x.rots.all fun q => q.slots.all fun z => !z.inflight) && (pitchFes r x).all fun f => (s.fe f).switchable x

/-- An FE makes another plane active: its FIFOs, output registers and counters go with the ports, residents stay with their
planes (18 Table 18-5); the plane may drain anew, and its selected block stays (R198, R200). -/
def Fe.switchTo (y : Fe) (x : Residency) (f : FeId) (target : Nat) : Fe :=
  let old := y.beneath.getD y.active
  let p := vget y.planes old
  let fresh (q : Plane) : Plane :=
    { q with drained := false, fired := false, outp := q.outp.map fun o => { o with eos := false } }
  let planes :=
    if old = target then vset y.planes old (fresh p)
    else
      let q := vget y.planes target
      let q := fresh { q with
        inp := Vector.ofFn fun (k : Fin 8) => { vget p.inp k.val with resident := (vget q.inp k.val).resident }
        outp := Vector.ofFn fun (k : Fin 8) =>
          let o := vget p.outp k.val
          { o with free := x.portCapacity f target k.val + o.free - x.portCapacity f old k.val } }
      let p := { p with inp := p.inp.map fun i => { resident := i.resident }, outp := .replicate 8 {} }
      vset (vset y.planes old p) target q
  if y.beneath.isSome then { y with planes, beneath := some target } else { y with planes, active := target }

/-- Make a switch: every FE of the pitch that runs the residency changes plane; it is a boundary; the ring goes on if the sequencer made it. -/
def State.makeSwitch (s : State) (r : ResId) (w : Switch) : State :=
  let s := s.boundary r 1 w.since s.cyc
  let x := s.res r
  let mine (f : FeId) : Bool := !s.spliceWaits r f && !(x.successor.isSome && (s.fe f).switched)
  let s := ((pitchFes r x).filter mine).foldl (fun s f => s.modFe f fun y => y.switchTo x f w.target) s
  let s := s.modRes r fun x => match w.ring with
    | none => { x with plane := w.target, switch := none, drains := [] }
    | some k =>
      let last := (x.ring.getD k (0, 0)).2
      { x with plane := w.target, switch := none, ringAt := k, ringRun := true, drains := x.drains.filter fun d => d = last }
  s.phaseHeads r

/-- PLANE_SWITCH: when the wait is over, the pitch's stores among what it waits for, four cycles begin; at their end, no store made
since being on its way, the switch is made (R141; 17 R352). -/
def execPlaneSwitch (r : ResId) (s : State) : Out :=
  .next (match (s.res r).switch with
    | none => s
    | some w =>
      if s.front.dbg.frozen then s
      else match w.ready with
        | none =>
          let s := s.drainPitch r
          if !s.switchReady r || !s.pitchStored r then s
          else
            let s := s.modRes r fun x => { x with switch := some { w with ready := some s.cyc } }
            match w.asker with
            | none => s
            | some t => s.modThr t fun y => { y with stage := 2 }
        | some c =>
          let s := s.drainPitch r
          if s.cyc < c + 4 || !s.pitchStored r then s else s.makeSwitch r w)

/-- SEQ_SWITCH: a DRAIN counted at LAST of the current entry starts the switch to the next entry's plane (R141). -/
def execSeqSwitch (r : ResId) (s : State) : Out :=
  .next (
    let x := s.res r
    let last := (x.ring.getD x.ringAt (0, 0)).2
    let k := (x.ringAt + 1) % x.ring.length
    if !x.ringRun || x.switch.isSome || x.freed || !x.drains.contains last || s.front.dbg.frozen then s
    else s.modRes r fun x => { x with
      drains := x.drains.erase last
      switch := some { target := (x.ring.getD k (0, 0)).1, ring := some k, since := s.cyc } })

/-! ### PWR (R143) -/

/-- PWR.ASK takes what the pool holds now, and waits in its queue for the rest with WAIT; a task with no residency, which nothing could
hold for, is given nothing. -/
def execPwrAsk (a b : BitVec 5) (u p : BitVec 3) (s : State) : Out :=
  .next (s.control u p fun s =>
    let ra := s.rd a
    let n := fldN ra 0 12
    if s.curThread.tid = 0 then trapWith s .access
    else if n = 0 || fldN ra 13 51 ≠ 0 then trapWith s .argRange
    else match s.curRes with
      | none => .retire (s.wr b 0)
      | some r =>
        let take (s : State) : Ctl := .retire ((s.modRes r fun x => { x with explicitLeave := x.explicitLeave + n }).wr b (wordN n))
        let asked := s.front.leaveReqs.any fun q => q.who = LeaveFor.pwrAsk s.curThread r
        if !asked && s.poolHolds n then take (s.drawPool n)
        else if !bitOf ra 12 then .retire (s.wr b 0)
        else match s.askLeave (.pwrAsk s.curThread r) n (s.res r).prio with
          | (true, s) => take s
          | (false, s) => .wait s)

/-- PWR.GIVE: never below the class leave, nor what a waiting `CFG.ARM` has drawn. -/
def execPwrGive (a : BitVec 5) (u p : BitVec 3) (s : State) : Out :=
  .next (s.control u p fun s =>
    if s.curThread.tid = 0 then trapWith s .access
    else match s.curRes with
      | none => .retire s
      | some r =>
        let k := min (s.rd a).toNat ((s.res r).explicitLeave - s.drawnOf r)
        .retire ((s.modRes r fun x => { x with explicitLeave := x.explicitLeave - k }).giveLeave k))

end Sys2Proof.Machine
end

