-- ==== Sys2Proof/Machine/Context.lean ====
section
/-! DEFINITION. The parts of a saved context, as bytes and read back (18 R373, R374, Table 18-5). The manual gives each part's length
and what it holds, but no places within a part: those here are the model's (DESIGN CHOICE, log entry 73). -/

namespace Sys2Proof.Machine

def round64 (n : Nat) : Nat := (n + 63) / 64 * 64
/-- Bytes followed by zeros up to `n`, and no more than `n`. -/
def padTo (n : Nat) (bs : List Byte) : List Byte := (bs ++ List.replicate (n - bs.length) 0).take n
/-- A line made of fields: place, width, value. -/
def lineFields (fs : List (Nat × Nat × Nat)) : Line := fs.foldl (fun l f => putFld l f.1 f.2.1 f.2.2) 0
/-- The `k`-th line of some bytes. -/
def lineAt (bs : List Byte) (k : Nat) : Line := lineOf ((bs.drop (64 * k)).take 64)

/-! ### The control thread -/

/-- 4,096 bytes: pc, g1-g31, TVEC, TPC, TSTAT, TREC0-TREC7, TOKCNT, pat0-pat15; commands not started, each as its word and its
operands; deliveries held, each as a mark of what freezes the pitch and its eight words. -/
def Thread.context (x : Thread) : List Byte :=
  let tstat := (if x.intrap then 1 else 0) + (if x.held.isEmpty then 0 else 2)
  let cmds := x.se.waiting ++ x.tf.waiting ++ x.ce.waiting
  let ws : List Nat := [x.pc.toNat] ++ (x.g.toList.drop 1).map (·.toNat) ++ [x.tvec.toNat, x.tpc.toNat, tstat] ++
    x.trec.toList.map (·.toNat) ++ [tokCnt x]
  padTo 4096 (ws.flatMap (leBytes 8) ++ x.pat.toList.flatMap lineBytes ++ leBytes 8 cmds.length ++
    (cmds.flatMap fun c => [c.word.toNat, c.va.toNat, c.vb.toNat, c.vq.toNat].flatMap (leBytes 8)) ++ leBytes 8 x.held.length ++
    x.held.flatMap fun d => leBytes 8 (if d.freezes then 1 else 0) ++ d.words.toList.flatMap fun w => leBytes 8 w.toNat)
/-- A pattern register with its reserved fields zero (00 R8; 13 Table 13-2). -/
def patKept (l : Line) : Line := putFld (putFld l 460 4 0) 471 41 0
/-- A thread with the registers that its part of a context holds; reserved fields read as zero (00 R8). -/
def Thread.fromContext (x : Thread) (bs : List Byte) : Thread :=
  let w (k : Nat) : Word := wordN (leAt bs (8 * k) 8)
  { x with pc := w 0, g := Vector.ofFn fun (k : Fin 32) => if k.val = 0 then 0 else w k.val
           tvec := codeAddr (w 32), tpc := codeAddr (w 33), intrap := bitOf (w 34) 0
           trec := Vector.ofFn fun (k : Fin 8) => w (35 + k.val)
           fifo := Vector.ofFn fun (k : Fin 12) => fldN (w 43) (5 * k.val) 5
           pat := Vector.ofFn fun (k : Fin 16) => patKept (lineOf ((bs.drop (352 + 64 * k.val)).take 64)) }

/-! ### Bindings -/

/-- A port selector (13 Table 13-4). -/
def Residency.selectorOf (x : Residency) : BindEnd → Nat
  | .port f p => x.index f + p * 2 ^ 11
  | .slot rot ph => 2 ^ 14 + rot * 2 ^ 15 + ph * 2 ^ 18
/-- 128 bytes: selector, pattern, counters, COMM. -/
def Binding.context (x : Residency) (b : Binding) : List Byte :=
  padTo 128 (leBytes 8 (x.selectorOf b.dest) ++ lineBytes b.pat ++ (b.ctr.toList.flatMap fun c => leBytes 4 c) ++
    leBytes 8 (fldN b.pat 455 1))
/-- A binding with the pattern and the counters that its part of a context holds. -/
def Binding.fromContext (b : Binding) (bs : List Byte) : Binding :=
  { b with pat := patKept (lineOf ((bs.drop 8).take 64)), ctr := Vector.ofFn fun (k : Fin 4) => leAt bs (72 + 4 * k.val) 4 }

/-! ### FEs -/

/-- Does an FE's image use the sampling unit (16 R331)? -/
def Fe.samples (y : Fe) : Bool := y.planes.toList.any fun p => p.blocks.toList.any fun b =>
  (b.map fun b => b.words.any fun w => decide (0x63 ≤ wordOp w ∧ wordOp w ≤ 0x67)).getD false
def Fe.saveLen (y : Fe) : Nat :=
  64 + 5 * 2560 + 1088 * (y.tiles.toList.filter fun t => t.tag = .full).length + (if y.samples then 2240 else 0) + y.scratch

def holdNum : Hold → Nat
  | .none => 0
  | .count n => 1 + 4 * n
  | .untilEnd => 2
def holdOf (n : Nat) : Hold := match n % 4 with
  | 1 => .count (n / 4)
  | 2 => .untilEnd
  | _ => .none
def listNum : ListState → Nat
  | .start => 0
  | .opened => 1
  | .ended => 2
def listOf (n : Nat) : ListState := match n with
  | 1 => .opened
  | 2 => .ended
  | _ => .start
def candBytes (c : Cand) : List Byte := leBytes 4 c.v.toNat ++ leBytes 4 c.idx.toNat
def candAt (bs : List Byte) (k : Nat) : Cand := ⟨BitVec.ofNat 32 (leAt bs (8 * k) 4), BitVec.ofNat 32 (leAt bs (8 * k + 4) 4)⟩

/-- The first line of an FE's record: selected blocks, drained marks, active plane; residents with their counts; HOLD of the slots;
what the sampling unit holds beside its lists. -/
def Fe.contextHead (y : Fe) : Line :=
  let planes := (List.range 5).flatMap fun k => let p := vget y.planes k
    [(3 * k, 3, p.sel), (15 + k, 1, if p.drained then 1 else 0)] ++ (List.range 8).map fun i =>
      (23 + 5 * (8 * k + i), 5, match (vget p.inp i).resident with
        | none => 0
        | some (_, n) => 1 + 2 * n)
  let slots := (List.range 16).map fun k => let t := vget y.tiles k
    (224 + 11 * k, 11, if t.tag ≠ .full then 0 else 1 + 2 * (holdNum t.hold % 64) + 2 ^ 7 * (t.hport.getD 8))
  lineFields (planes ++ slots ++ [(20, 3, y.active), (400, 6, y.samp.prj), (406, 2, listNum y.samp.lstate),
    (408, 1, if y.samp.pr.isSome then 1 else 0), (409, 5, y.samp.cells.length), (414, 9, y.samp.buf.length), (424, 32, y.samp.lastBase)])
/-- The record of an FE with its scratch. -/
def Fe.context (y : Fe) (scratch : List Byte) : List Byte :=
  let planes := (List.range 5).flatMap fun k => let p := vget y.planes k
    p.e.toList.flatMap lineBytes ++ p.inp.toList.flatMap fun q => lineBytes ((q.resident.map (·.1.data)).getD 0)
  let slots := (y.tiles.toList.filter fun t => t.tag = .full).flatMap fun t =>
    lineBytes t.tile.header ++ padTo 1024 (t.tile.payload.flatMap lineBytes)
  let samp := if y.samples then lineBytes (y.samp.pr.getD 0) ++ padTo 128 (y.samp.cells.flatMap candBytes) ++
    padTo 2048 (y.samp.buf.flatMap candBytes) else []
  padTo y.saveLen (lineBytes y.contextHead ++ planes ++ slots ++ samp ++ padTo y.scratch scratch)

/-- A plane `k` with what its part of a record holds. -/
def Plane.fromContext (p : Plane) (h : Line) (bs : List Byte) (k : Nat) : Plane :=
  let at_ (i : Nat) : Line := lineAt bs (1 + 40 * k + i)
  { p with sel := fldN h (3 * k) 3, drained := bitOf h (15 + k)
           e := Vector.ofFn fun (i : Fin 32) => at_ i.val
           inp := Vector.ofFn fun (i : Fin 8) =>
             let q := vget p.inp i.val
             let n := fldN h (23 + 5 * (8 * k + i.val)) 5
             let t : Token := (q.resident.map (·.1)).getD {}
             { q with resident := if n % 2 = 0 then none else some ({ t with data := at_ (32 + i.val) }, n / 2) } }
/-- The tile slots with what a record holds: the FULL ones stand in order behind the planes. -/
def Fe.slotsFrom (y : Fe) (h : Line) (bs : List Byte) : Fe :=
  let full := (List.range 16).filter fun k => (vget y.tiles k).tag = .full
  full.zipIdx.foldl (fun y x =>
    let body := bs.drop (64 + 5 * 2560 + 1088 * x.2)
    let n := fldN h (224 + 11 * x.1) 11
    { y with tiles := vmod y.tiles x.1 fun t => { t with
        hold := holdOf (n / 2 % 64), hport := if n / 2 ^ 7 < 8 then some (n / 2 ^ 7) else none
        tile := { header := lineAt body 0, payload := (List.range t.tile.payload.length).map fun i => lineAt body (1 + i) } } }) y
/-- An FE with what its record holds. -/
def Fe.fromContext (y : Fe) (bs : List Byte) : Fe :=
  let h := lineAt bs 0
  let y := { y with planes := (List.range 5).foldl (fun v k => vmod v k fun p => p.fromContext h bs k) y.planes, active := fldN h 20 3 }
  let tail := bs.drop (64 + 5 * 2560 + 1088 * (y.tiles.toList.filter fun t => t.tag = .full).length)
  let y := y.slotsFrom h bs
  if !y.samples then y
  else { y with samp := {
    pr := if bitOf h 408 then some (lineAt tail 0) else none, prj := fldN h 400 6, lstate := listOf (fldN h 406 2)
    lastBase := fldN h 424 32
    cells := (List.range (fldN h 409 5)).map (candAt (tail.drop 64))
    buf := (List.range (fldN h 414 9)).map (candAt (tail.drop 192)) } }
/-- The scratch in an FE's record. -/
def Fe.scratchFrom (y : Fe) (bs : List Byte) : List Byte := (bs.take y.saveLen).drop (y.saveLen - y.scratch)

/-- How much of a context a restore reads: up to the end of the islands. -/
def contextLen (x : Residency) (fes : List (FeId × Fe)) : Nat :=
  (([128, 64, 4096, 128 * x.binds.length, (fes.map fun f => f.2.saveLen).sum, 160 * x.h * x.w] : List Nat).map round64).sum

/-! ### Islands and edges -/

/-- The bit islands of a pitch by site, page by page (00 R12; 05 R120). -/
def Residency.islandSites (x : Residency) : List (Nat × Nat) :=
  (List.range (x.h * x.w)).flatMap fun p => (List.range 4).map fun n => (4 * (x.band0 + p / x.w) + n, 8 * (x.group0 + p % x.w) + 3)
/-- The flip-flops of planes 0-4 of every island. -/
def State.islandContext (s : State) (die : Nat) (x : Residency) : List Byte :=
  x.islandSites.flatMap fun a => (List.range 5).flatMap fun k => leBytes 8 (mapGet {} s.islands (die, a.1, a.2, k)).ff.toNat
/-- The flip-flops are what a context holds. -/
def State.islandsFrom (s : State) (die : Nat) (x : Residency) (bs : List Byte) : State :=
  (x.islandSites.zipIdx.flatMap fun a => (List.range 5).map fun k => ((die, a.1.1, a.1.2, k), 5 * a.2 + k)).foldl (fun s y =>
    match mapFind s.islands y.1 with
    | none => s
    | some i => { s with islands := mapSet s.islands y.1 { i with ff := BitVec.ofNat 64 (leAt bs (8 * y.2) 8) } }) s

/-- The register that drives what a box's word selects for an outgoing track, one hop back: the register behind an incoming track, or
none when an output port drives it. -/
def State.latchBehind (s : State) (die row col plane side track : Nat) : Option LatchKey :=
  let c := fldN (mapGet 0 s.routes (die, row, col, plane)) (6 * (16 * side + track)) 6
  if c = 0 || 48 < c then none
  else
    let others := [0, 1, 2, 3].filter fun x => x ≠ side
    let i := others.getD ((c - 1) / 16) 0
    let t := (c - 1) % 16
    (boxAway row col i (trackLength t)).map fun b => ⟨die, b.1, b.2, sideOf ((i + 2) % 4), t, decide (plane = 5)⟩
/-- Track registers on the way into an input port, the nearest first. -/
def State.latchesInto (s : State) (f : FeId) (plane port : Nat) : List LatchKey :=
  let c := fldN (mapGet 0 s.routes (f.die, feRow f, feCol f, plane)) (384 + 7 * port) 7
  if c = 0 || 64 < c then []
  else
    let i := (c - 1) / 16
    let t := (c - 1) % 16
    let rec back : Nat → LatchKey → List LatchKey
      | 0, _ => []
      | n + 1, k => k :: match s.latchBehind k.die k.row k.col plane (sideNum k.side) k.track with
        | none => []
        | some j => back n j
    match boxAway (feRow f) (feCol f) i (trackLength t) with
    | none => []
    | some b => back 1536 ⟨f.die, b.1, b.2, sideOf ((i + 2) % 4), t, decide (plane = 5)⟩

/-- Tokens that stand on an edge, oldest first: in its consumer's port, on its tracks or on the page network, and in its producer's
output register (R373). -/
def State.edgeTokens (s : State) (e : Edge) : List Token :=
  (vget (s.plane e.dst e.plane).inp e.dstp).fifo ++
  (if e.net then e.netq else (s.latchesInto e.dst e.plane e.dstp).filterMap (mapFind s.latches)) ++
  (vget (s.plane e.src e.plane).outp e.srcp).reg
/-- A token's sideband as R115 lays it out: KIND, TAG, ORD. -/
def Token.sideband (t : Token) : Nat := t.kind.toNat + t.tag.toNat * 2 ^ 3 + t.ord.toNat * 2 ^ 11
/-- An edge with tokens: its number, how many, and each token's data and sideband. -/
def State.edgeContext (s : State) (e : Edge) : List Byte :=
  let ts := s.edgeTokens e
  if ts.isEmpty then []
  else leBytes 8 e.id ++ leBytes 8 ts.length ++ ts.flatMap fun t => lineBytes t.data ++ leBytes 8 t.sideband

/-! ### The name of a residency that is saved (18 R371) -/

/-- A residency's new name in what is not saved with it: the tasks that a frozen pitch leaves running, with their packets, commands and
parked accesses, and its tentative copies (log entry 73). -/
def State.renameRes (s : State) (a b : ResId) : State :=
  let opt (r : Option ResId) : Option ResId := if r = some a then some b else r
  let cmd (c : EngineCmd) : EngineCmd := { c with res := opt c.res }
  let queue (q : EngineQueue) : EngineQueue := { waiting := q.waiting.map cmd, running := q.running.map cmd }
  let thread (x : Thread) : Thread := match x.role with
    | .task r d => { x with role := .task (opt r) d, se := queue x.se, tf := queue x.tf, ce := queue x.ce }
    | .none => x
    | .control _ => x
    | .evaluator _ _ => x
    | .urgent _ => x
  let packets (l : List Packet) : List Packet := l.map fun p => { p with owner := opt p.owner }
  { s with threads := s.threads.map fun p => (p.1, thread p.2)
           tent := s.tent.map fun (t : Tentative) => if t.owner = TentOwner.snap a then { t with owner := TentOwner.snap b } else t
           dies := s.dies.map fun d => { d with
             taskq := d.taskq.map fun q => (q.1, packets q.2), taskWait := d.taskWait.map fun q => (q.1, packets q.2)
             waiters := d.waiters.map fun w => (w.1, w.2.map fun y => { y with res := opt y.res }) } }
/-- The tasks that a residency of a name has, running or queued. -/
def State.tasksOf (s : State) (r : ResId) : Nat :=
  let running := (s.threads.filter fun p => p.2.role.isTask && decide (p.2.role.res = some r)).length
  let queued := (List.range 4).flatMap fun d => ((s.die d).taskq ++ (s.die d).taskWait).flatMap fun q =>
    q.2.filter fun p => decide (p.owner = some r)
  running + queued.length

end Sys2Proof.Machine
end

