-- ==== Sys2Proof/Machine/Stamps.lean ====
section
/-! DEFINITION. Time that does not count: the stamps of what waits move past a pause or a freeze (08 R172; 15 R326;
18 R372; 19 R384, R392). -/

namespace Sys2Proof.Machine

/-- A stamp after a stop that began at `from_` and ends now: cycles of the stop do not count, so that a stamp set before it
moves by its length, and one set in it becomes now. -/
def movedOn (from_ now c : Nat) : Nat := if c ≤ from_ then c + (now - from_) else now
/-- What may move, moved. -/
def later (g : Nat → Nat) (o : Option Nat) : Option Nat := o.map g
def EngineQueue.shift (g : Nat → Nat) (q : EngineQueue) : EngineQueue :=
  let f (c : EngineCmd) : EngineCmd := { c with since := later g c.since }
  { waiting := q.waiting.map f, running := q.running.map f }
def Thread.shift (g : Nat → Nat) (x : Thread) : Thread :=
  { x with waitFrom := later g x.waitFrom, paused := later g x.paused, se := x.se.shift g, tf := x.tf.shift g, ce := x.ce.shift g }
/-- The port accesses of an FE for which `p` holds. -/
def Fe.shift (g : Nat → Nat) (p : Nat → Bool) (x : Fe) : Fe :=
  { x with port := x.port.map fun o => if p o.plane then { o with since := later g o.since } else o }
def Binding.shift (g : Nat → Nat) (b : Binding) : Binding :=
  { b with cmd := { b.cmd with since := later g b.cmd.since }
           spill := b.spill.map fun p => { p with since := later g p.since } }
def PhaseNow.shift (g : Nat → Nat) (p : PhaseNow) : PhaseNow :=
  { p with begun := g p.begun, enabled := g p.enabled, e := later g p.e, z := later g p.z }
/-- Everything of a residency that a freeze moves. -/
def Residency.shift (g : Nat → Nat) (x : Residency) : Residency :=
  { x with binds := x.binds.map fun b => (b.1, b.2.shift g)
           phase := x.phase.shift g, windowFrom := g x.windowFrom
           switch := x.switch.map fun w => { w with since := g w.since, ready := later g w.ready }
           preemptCount := (g x.preemptCount.1, x.preemptCount.2) }
def QRec.shift (g : Nat → Nat) (q : QRec) : QRec := { q with since := later g q.since }
/-- Waiters for whose requester `p` holds. -/
def Die.shiftWaiters (g : Nat → Nat) (p : Requester → Bool) (x : Die) : Die :=
  { x with waiters := x.waiters.map fun w =>
      (w.1, w.2.map fun y => if p y.who then { y with since := g y.since } else y) }
def Die.shift (g : Nat → Nat) (x : Die) : Die :=
  let y := x.shiftWaiters g fun _ => true
  { y with res := y.res.map fun p => (p.1, p.2.shift g), queues := y.queues.map fun l => l.map (QRec.shift g)
           lastPlace := later g y.lastPlace }
/-- Requests held at slices for whose requester `p` holds. -/
def State.shiftHeld (s : State) (g : Nat → Nat) (p : Requester → Bool) : State :=
  { s with heldReqs := s.heldReqs.map fun h => if p h.who then { h with since := g h.since } else h }

/-- A freeze ends: every stamp moves (19 R384, R392). -/
def State.shiftAll (s : State) (g : Nat → Nat) : State :=
  let s : State := { s with
    threads := s.threads.map fun p => (p.1, p.2.shift g)
    fes := s.fes.map fun p => (p.1, p.2.shift g fun _ => true)
    dies := s.dies.map (Die.shift g) }
  s.shiftHeld g fun _ => true

/-- The page a requester works on. -/
def State.requesterPage (s : State) : Requester → Nat × Nat
  | .thread t => (t.die, t.page)
  | .engine t _ _ => (t.die, t.page)
  | .fePort f _ => (f.die, f.page)
  | .binding r k _ => match mapFind (s.res r).binds k with
    | none => (r.die, 48)
    | some b => (r.die, b.owner.page)
/-- Is a requester thread 0 or its engine, which nothing pauses (09 Table 9-1)? -/
def isThread0 : Requester → Bool
  | .thread t => t.tid = 0
  | .engine t _ _ => t.tid = 0
  | .fePort _ _ => false
  | .binding _ _ _ => false

/-- The pages of an urgent residency pause: threads 1-7 of their cores are PAUSED (08 R163; 09 Table 9-1). -/
def State.pausePages (s : State) (die : Nat) (pages : List Nat) : State :=
  pages.foldl (fun s p => ([1, 2, 3, 4, 5, 6, 7] : List Nat).foldl (fun s t =>
    s.modThr ⟨die, p, t⟩ fun x => { x with paused := some s.cyc }) s) s
/-- The bindings of threads that a pause has held. -/
def Residency.shiftPaused (g : Nat → Nat) (die : Nat) (pages : List Nat) (x : Residency) : Residency :=
  let held (b : Binding) : Bool := decide (b.owner.die = die ∧ b.owner.tid ≠ 0) && pages.contains b.owner.page
  { x with binds := x.binds.map fun b => (b.1, if held b.2 then b.2.shift g else b.2) }
/-- What a pause of a die's pages has held there. -/
def Die.shiftPaused (g : Nat → Nat) (die : Nat) (pages : List Nat) (here : Requester → Bool) (x : Die) : Die :=
  let y := x.shiftWaiters g here
  { y with res := y.res.map fun p => (p.1, p.2.shiftPaused g die pages) }

/-- The pause ends: threads go on as they were, and no cycle of it counts for what waited. -/
def State.resumePages (s : State) (die : Nat) (pages : List Nat) : State :=
  match pages with
  | [] => s
  | p0 :: _ =>
    let g := movedOn ((s.thr ⟨die, p0, 1⟩).paused.getD s.cyc) s.cyc
    let here (q : Requester) : Bool :=
      let k := s.requesterPage q
      k.1 = die && pages.contains k.2 && !isThread0 q
    let s := { s with fes := s.fes.map fun (p : FeId × Fe) =>
      (p.1, if p.1.die = die && pages.contains p.1.page then p.2.shift g fun k => k ≠ 5 else p.2) }
    let s := { s with dies := s.dies.map (Die.shiftPaused g die pages here) }
    let s := s.shiftHeld g here
    pages.foldl (fun s p => ([1, 2, 3, 4, 5, 6, 7] : List Nat).foldl (fun s t =>
      s.modThr ⟨die, p, t⟩ fun x => { x.shift g with paused := none }) s) s

end Sys2Proof.Machine
end

