-- ==== Sys2Proof/Machine/Launch.lean ====
section
/-! DEFINITION. Launches: LAUNCH and SPLICE, placement, loading, arming, the start of threads and tasks, splices, gangs
(05 R125-R127; 06 R128-R142; 08 R158-R163, R169; 18 R374-R376; 19 R391). -/

namespace Sys2Proof.Machine

/-! ### Submitting (R129, R130, R142, 08 R162) -/

/-- The die a record goes to: DIESEL, or for 7 the choice given. -/
def targetDie (l : Line) (choice : Nat) : Nat := if recDie l = 7 then choice else recDie l
/-- The live die with the most free pages, the lowest on a tie (R130). -/
def State.freestDie (s : State) : Nat :=
  let free (d : Nat) : Nat := ((s.die d).pages.toList.filter fun p => p.state = .free).length
  match s.liveDies with
  | [] => 0
  | d :: ds => ds.foldl (fun m d => if free m < free d then d else m) d

/-- Submit a well-formed record: completed with status 13 when its die is excluded, with status 2 when it can never fit,
else queued; none while the queue is full. `home` translates DONE of a record that is queued nowhere. -/
def State.submit (s : State) (record : Line) (asid : BitVec 16) (die home addr : Nat) : Option State :=
  if !(s.die die).live then some (s.pairDone home asid (recDone record) 13)
  else if !(s.die die).everFits (recH record) (recW record) then some (s.pairDone die asid (recDone record) 2)
  else s.queueRec die (recQueue record) { record, asid, addr }

/-- LAUNCH (R142). -/
def execLaunch (a : BitVec 5) (u p : BitVec 3) (s : State) : Out :=
  .next (s.control u p fun s =>
    let ra := s.rd a
    if s.curThread.tid = 0 then trapWith s .access
    else if fldN ra 0 6 ≠ 0 then trapWith s .misaligned ra
    else s.afterStores fun s => s.withRecord ra.toNat 64 fun s bs =>
      let l := lineOf bs
      if deviceRecBad l false then trapWith s .launchBad ra
      else
        let here := s.curThread.die
        let l := putFld l 88 16 s.cur.asid.toNat
        match s.submit l s.cur.asid (targetDie l here) here 1 with
        | none => .wait s
        | some s => .retire s)

/-! ### Loading (R134, 18 R368, R376) -/

/-- How the CP reads an image: every read under the record's ASID (15 R320). -/
def State.cpReader (s : State) (die : Nat) (asid : BitVec 16) : Reader := fun a n =>
  match s.unitRead die asid a n .r with
  | .ok bs => .ok bs
  | .error c => .error { code := c, w1 := wordN a }

/-- Status of the header check (R132): 0, or 1 when it fails. -/
def State.headerCheck (s : State) (die : Nat) (l : Line) (asid : BitVec 16) : Nat :=
  match s.unitRead die asid (recImage l) 64 .r with
  | .error _ => 1
  | .ok bs =>
    let i : Image := { addr := recImage l, header := lineOf bs }
    if i.urgent ≠ (recPrio l = 0) || i.power ≠ recPower l then 1 else 0

/-- Does the control section hold a write of a GTOL register? -/
def Image.gtolWrite (i : Image) (rd : Reader) : Bool :=
  match i.find 9 with
  | none => false
  | some (_, e) => match rd (i.addr + e.off) e.slen with
    | .error _ => false
    | .ok bs => (List.range (e.slen / 4)).any fun k => writesGtol (BitVec.ofNat 32 (leAt bs (4 * k) 4))

/-- Load the image of a record for a pitch of a shape: the image with its patches, or the status of the refusal. -/
def State.cpLoad (s : State) (die : Nat) (l : Line) (asid : BitVec 16) (h w : Nat) (held : Held := .nothing) : Except Nat (Image × Patches) :=
  let rd := s.cpReader die asid
  match checkImage rd (recImage l) h w held with
  | .error (.unread _) => .error 1
  | .error (.refused x) => .error (codeNum x.code)
  | .ok (i, ps) =>
    if i.urgentBad || (i.urgent && i.gtolWrite rd) || (recSnap l && !i.rots.isEmpty) then .error 1 else .ok (i, ps)

/-- The lowest free index of a die's residency table (08 R158). -/
def Die.freeIdx (x : Die) : Option Nat := (List.range 48).find? fun k => (mapFind x.res k).isNone

/-- A residency as its load leaves it: LOADED. -/
def loadedRes (s : State) (l : Line) (asid : BitVec 16) (role : GuardRole) (o : Nat × Nat) (i : Image) (st : Staged) : Residency :=
  { state := .loaded, record := l, asid, band0 := o.1, group0 := o.2, h := i.h, w := i.w, prio := recPrio l
    snap := recSnap l, urgent := i.urgent, guard := role, power := i.power, start := i.start, maxouter := i.maxouter
    ctlBase := st.ctlBase, entry := if recEntry l = 0xFFFFFFFF then i.entry else recEntry l, plane := i.start
    edges := st.edges, rots := st.rots, image := st.kept, phase := { begun := s.cyc }
    gang := if recGang l then .placing else .none }

/-- Units of leave a residency's class needs (R135). -/
def Residency.units (x : Residency) : Nat := if x.urgent then 0 else (x.power + 1) * x.h * x.w
/-- Units it asks for: a restored one also asks for its explicit leave again (18 R374). -/
def Residency.need (x : Residency) : Nat := x.units + x.explicitLeave
/-- The CP asks for a residency's leave (R135). -/
def State.requestArm (s : State) (r : ResId) : State :=
  let n := (s.res r).need
  let q : LeaveReq := { who := .arm r, units := n, prio := (s.res r).prio }
  match s.takeLeave n with
  | some s => { s with front := { s.front with leaveReqs := s.front.leaveReqs ++ [{ q with granted := true }] } }
  | none => { s with front := { s.front with leaveReqs := s.front.leaveReqs ++ [q] } }

/-- Enter a residency in its table, its pages in the page map. -/
def State.holdPages (s : State) (r : ResId) (x : Residency) : State :=
  s.modDie r.die fun d => { d with
    res := mapSet d.res r.idx x
    phaseLog := mapErase d.phaseLog r.idx
    pages := Vector.ofFn fun (k : Fin 48) =>
      let p := vget d.pages k.val
      if !x.pages.contains k.val then p
      else if x.urgent then { p with biv := true }
      else { p with state := .held, res := BitVec.ofNat 8 r.idx } }

/-- Load an image into a pitch at an origin and ask for its leave, or complete the launch with the refusal. -/
def State.loadAt (s : State) (die : Nat) (q : QRec) (idx : Nat) (o : Nat × Nat) (captured : Bool) : State :=
  match s.cpLoad die q.record q.asid (recH q.record) (recW q.record) with
  | .error status => s.launchDone die q.record q.asid q.guard status
  | .ok (i, ps) =>
    let r : ResId := ⟨die, idx⟩
    let st := i.staged r { band0 := o.1, group0 := o.2, h := i.h, w := i.w }
    let x := { loadedRes s q.record q.asid q.guard o i st with captured, addr := q.addr }
    let s := (s.patch die q.asid ps).prefetchAll die q.asid st.footprint
    let s := ((s.holdPages r x).installPlanes st).installLocal st
    if x.urgent then s else s.requestArm r

/-! ### Placement (08 R159-R163) -/

def Die.pageFree (x : Die) (p : Nat) : Bool := decide ((vget x.pages p).state = .free) && !(vget x.pages p).rsv
/-- Is a record one the CP may place? -/
def QRec.eligible (q : QRec) : Bool := q.capture.isNone && !q.failed && q.since.isSome
/-- May the CP place it now? A gang slice that missed its start waits for the next quantum (06 Table 6-3). -/
def QRec.ready (q : QRec) (cyc : Nat) : Bool := q.eligible && decide (q.notBefore ≤ cyc)

/-- Where a record fits now: a non-urgent one on FREE pages with no RSV, an urgent one on pages with no BIV. -/
def Die.fits (x : Die) (l : Line) : Option (Nat × Nat) :=
  firstOrigin (recH l) (recW l) fun p => if recPrio l = 0 then x.pageLive p && !(vget x.pages p).biv else x.pageFree p

/-- Places of a priority's records in the order the CP considers them (R160). -/
def Die.candidates (x : Die) (cyc prio : Nat) : List (Nat × Nat) :=
  (List.range 4).flatMap fun j =>
    let k := 4 * prio + (vget x.lastQueue prio + 1 + j) % 4
    ((vget x.queues k).zipIdx.filter fun q => q.1.ready cyc).map fun q => (k, q.2)
def Die.recAt (x : Die) (k : Nat × Nat) : QRec := (vget x.queues k.1).getD k.2 { record := 0, asid := 0 }

/-- Age at which a record is aged, in cycles (R161). -/
def QRec.old (q : QRec) (cyc : Nat) : Bool := match q.since with
  | none => false
  | some c => decide (recAge q.record * Config.cyclesPerMicrosecond < cyc - c)

/-- Every aged record, as (PRIO, since, queue, place). -/
def Die.agedRecs (x : Die) : List (Nat × Nat × Nat × Nat) :=
  (List.range 12).flatMap fun j => ((vget x.queues (j + 4)).zipIdx.filter fun q => q.1.aged && q.1.eligible).map fun q =>
    ((j + 4) / 4, q.1.since.getD 0, j + 4, q.2)
/-- The aged record that is due for the die's reservation, by queue and place: of the lowest PRIO, and of those the earliest
eligible (R161). -/
def Die.agedFirst (x : Die) : Option (Nat × Nat) := match x.agedRecs with
  | [] => none
  | a :: as => some (as.foldl (fun m b => if b.1 < m.1 || (b.1 = m.1 && b.2.1 < m.2.1) then b else m) a).2.2
/-- Give the die's reservation to the aged record that is due for it, if that does not hold it (R161). -/
def Die.reserve (x : Die) : Die :=
  match x.agedFirst with
  | none => x
  | some (k, p) =>
    if x.reservedFor k p then x
    else
      let x := x.unreserve
      let l := (x.recAt (k, p)).record
      match firstOrigin (recH l) (recW l) x.pageLive with
      | none => x
      | some (b, g) =>
        let mine := rectPages b g (recH l) (recW l)
        { x with reservation := some (k, p, b, g, 0)
                 pages := Vector.ofFn fun (n : Fin 48) =>
                   let y := vget x.pages n.val
                   if mine.contains n.val then { y with rsv := true } else y }

/-- The record the CP places next, and where: PRIO 0, the reservation whose pages are all FREE, then PRIO 1 to 3. -/
def Die.choose (x : Die) (cyc : Nat) : Option ((Nat × Nat) × (Nat × Nat)) :=
  let first (prio : Nat) : Option ((Nat × Nat) × (Nat × Nat)) :=
    (x.candidates cyc prio).findSome? fun k => (x.fits (x.recAt k).record).map fun o => (k, o)
  let held : Option ((Nat × Nat) × (Nat × Nat)) := match x.reservation with
    | none => none
    | some (k, p, b, g, _) =>
      let l := (x.recAt (k, p)).record
      if (rectPages b g (recH l) (recW l)).all fun n => decide ((vget x.pages n).state = .free) then some ((k, p), (b, g)) else none
  (first 0).orElse fun _ => held.orElse fun _ => (first 1).orElse fun _ => (first 2).orElse fun _ => first 3

/-- A record whose wait event cannot be read is completed with status 13 (R131). -/
def Die.failedRec (x : Die) : Option (Nat × Nat) :=
  (List.range 16).findSome? fun k => ((vget x.queues k).zipIdx.find? fun q => q.1.failed).map fun q => (k, q.2)

/-- The oldest saved residency that fits a free frame (18 R374). -/
def Die.savedFits (x : Die) : Option (Nat × (Nat × Nat)) :=
  x.saved.zipIdx.findSome? fun v => (firstOrigin v.1.res.h v.1.res.w x.pageFree).map fun o => (v.2, o)

/-- An FE moved to another frame of the same shape. -/
def movedFe (r : ResId) (a b : Residency) (f : FeId) : FeId := feOfIndex r b (a.index f)
def BindEnd.moved (r : ResId) (a b : Residency) : BindEnd → BindEnd
  | .port f p => .port (movedFe r a b f) p
  | .slot q p => .slot q p
def Binding.moved (r : ResId) (a b : Residency) (x : Binding) : Binding :=
  { x with dest := x.dest.moved r a b, list := x.list.map fun p => (movedFe r a b p.1, p.2) }
/-- A site of a pitch moved to another frame. -/
def movedSite (a b : Residency) (k : Nat × Nat × Nat × Nat) : Nat × Nat × Nat × Nat :=
  (k.1, ((k.2.1 : Int) + 4 * (b.band0 : Int) - 4 * a.band0).toNat, ((k.2.2.1 : Int) + 8 * (b.group0 : Int) - 8 * a.group0).toNat, k.2.2.2)
def Edge.moved (m : FeId → FeId) (e : Edge) : Edge := { e with src := m e.src, dst := m e.dst }
def Rotation.moved (m : FeId → FeId) (q : Rotation) : Rotation := { q with seam := m q.seam, loopFes := q.loopFes.map m }
/-- Staged planes moved with their residency. -/
def Staged.moved (r : ResId) (a b : Residency) (st : Staged) : Staged :=
  let m := movedFe r a b
  { st with feBlocks := st.feBlocks.map fun x => (m x.1, x.2)
            routes := st.routes.map fun x => (movedSite a b x.1, x.2), islands := st.islands.map fun x => (movedSite a b x.1, x.2)
            edges := st.edges.map (Edge.moved m), rots := st.rots.map (Rotation.moved m)
            banks := st.banks.map fun x => (m x.1, x.2), local_ := st.local_.map fun x => (m x.1, x.2) }
/-- A residency with a change to every binding that it keeps: those that stand, those of its last complete cut, and those of a cut in
progress. -/
def Residency.mapBinds (x : Residency) (f : Binding → Binding) : Residency :=
  let g (b : Nat × Binding) : Nat × Binding := (b.1, f b.2)
  { x with binds := x.binds.map g, cutBinds := x.cutBinds.map g, cut := x.cut.map fun c => { c with made := c.made.map g } }

/-- Coordinates of a residency moved to another frame, what it has staged with it (01 R26; 18 R374). -/
def Residency.movedTo (x : Residency) (r : ResId) (o : Nat × Nat) : Residency :=
  let y := { x with band0 := o.1, group0 := o.2 }
  let m := movedFe r x y
  { (y.mapBinds fun b => b.moved r x y) with
           edges := x.edges.map (Edge.moved m), rots := x.rots.map (Rotation.moved m)
           eosDue := x.eosDue.map fun d => (m d.1, d.2)
           image := x.image.moved r x y, staged := x.staged.map (Staged.moved r x y) }

/-- Commands of a saved control thread name the residency's new index. -/
def EngineCmd.given (r : ResId) (c : EngineCmd) : EngineCmd := { c with res := some r }
def EngineQueue.given (r : ResId) (q : EngineQueue) : EngineQueue :=
  { waiting := q.waiting.map (EngineCmd.given r), running := q.running.map (EngineCmd.given r) }
def Thread.given (r : ResId) (y : Thread) : Thread :=
  { y with role := .control r, se := y.se.given r, tf := y.tf.given r, ce := y.ce.given r }
def Binding.given (r : ResId) (b : Binding) : Binding := { b with cmd := b.cmd.given r }

/-- A saved FE back in a frame: plane 5, which another residency may run there, stays (18 R374, R375). -/
def Fe.restored (now saved : Fe) : Fe :=
  let on := now.beneath.isSome
  { saved with planes := vset saved.planes 5 (vget now.planes 5)
               active := if on then now.active else saved.active, beneath := if on then some saved.active else none
               firing := if on then now.firing else saved.firing, firingBelow := if on then saved.firing else none
               ordinal := if on then now.ordinal else saved.ordinal, ordinalBelow := if on then saved.ordinal else 0
               port := now.port ++ saved.port.map fun o => { o with id := o.id + now.nextOp }
               nextOp := now.nextOp + saved.nextOp }
/-- A plane with the blocks of an image loaded again. -/
def Plane.reloaded (p new : Plane) : Plane := { p with blocks := new.blocks, recs := new.recs, rounding := new.rounding }
/-- The image of a restored residency is loaded again: blocks, records, routing words and tables; nothing is checked, no memory is
written, and where the image can be read no more what the planes held stands (18 R374; log entry 73). -/
def State.reload (s : State) (r : ResId) : State :=
  let x := s.res r
  match s.cpLoad r.die x.record x.asid x.h x.w with
  | .error _ => s
  | .ok (i, _) =>
    let st := i.staged r x
    let s := st.feBlocks.foldl (fun s y => s.modPlane y.1 y.2.1 fun p => p.reloaded y.2.2) s
    { s with routes := st.routes.foldl (fun m y => mapSet m y.1 y.2) s.routes
             islands := st.islands.foldl (fun m y =>
               let old := mapGet ({} : Island) s.islands y.1
               mapSet m y.1 { y.2 with ff := old.ff }) s.islands }

/-- What stands behind the parts of a context whose lengths are given, in a context read from its area. -/
def contextTail (bs : List Byte) (lens : List Nat) : List Byte := bs.drop ((lens.map round64).foldl (· + ·) 0)
/-- The bindings with what their parts hold. -/
def bindsFrom (bs : List Byte) (l : List (Nat × Binding)) : List (Nat × Binding) :=
  l.zipIdx.map fun b => (b.1.1, b.1.2.fromContext ((bs.drop (128 * b.2)).take 128))
/-- The FEs of a pitch with what their records hold, one after another. -/
def State.fesFrom (s : State) (fs : List FeId) (bs : List Byte) : State :=
  (fs.foldl (fun (a : State × List Byte) f =>
    let y := a.1.fe f
    let s := a.1.modFe f fun y => y.fromContext a.2
    ({ s with lmem := s.lmem.writeBytes (feBase f) (y.scratchFrom a.2) }, a.2.drop y.saveLen)) (s, bs)).1

/-- Bring a saved residency back to a frame: its image is loaded again and its context read from the context area; what the area
does not hold the CP has kept. It is LOADED and asks for leave (18 R374; log entry 73). -/
def State.restoreAt (s : State) (die pos : Nat) (o : Nat × Nat) : State :=
  match (s.die die).saved[pos]?, (s.die die).freeIdx with
  | some v, some idx =>
    let r : ResId := ⟨die, idx⟩
    let x := { v.res.movedTo r o with state := .loaded }
    let site := movedSite v.res x
    let fs := pitchFes r x
    let bs := s.mem.readBytes v.addr (contextLen v.res v.fes)
    let feLens := (v.fes.map fun f => f.2.saveLen).sum
    let x := { x with binds := bindsFrom (contextTail bs [128, 64, 4096]) x.binds }
    let thread := v.thread.map fun y => (y.fromContext (contextTail bs [128, 64])).given r
    let s := s.modDie die fun d => { d with saved := d.saved.eraseIdx pos }
    let under := v.fes.map fun f => (movedFe r v.res x f.1, s.fe (movedFe r v.res x f.1))
    let s := s.holdPages r x
    let s := v.fes.foldl (fun s (f : FeId × Fe) => s.modFe (movedFe r v.res x f.1) fun _ => f.2) s
    let s := { s with
      islands := v.islands.foldl (fun m (y : (Nat × Nat × Nat × Nat) × Island) => mapSet m (site y.1) y.2) s.islands
      routes := v.routes.foldl (fun m (y : (Nat × Nat × Nat × Nat) × Line) => mapSet m (site y.1) y.2) s.routes
      lmem := v.lmem.foldl (fun (m : Memory) (y : FeId × List Byte) => (m.writeBytes (feBase (movedFe r v.res x y.1)) y.2)) s.lmem
      latches := v.latches.foldl (fun m (y : LatchKey × Token) =>
        let k := site (y.1.die, y.1.row, y.1.col, 0)
        mapSet m { y.1 with row := k.2.1, col := k.2.2.1 } y.2) s.latches }
    let s := (s.reload r).fesFrom fs (contextTail bs [128, 64, 4096, 128 * v.res.binds.length])
    let s := s.islandsFrom die x (contextTail bs [128, 64, 4096, 128 * v.res.binds.length, feLens])
    let s := under.foldl (fun s (f : FeId × Fe) => s.modFe f.1 fun y => f.2.restored y) s
    let s := s.renameRes ⟨die, v.key⟩ r
    let n := s.tasksOf r
    let s := s.modRes r fun x => { x.mapBinds (Binding.given r) with tasks := n }
    (s.modDie die fun d => { d with context := mapSet d.context idx thread }).requestArm r
  | _, _ => s

/-- A capture packet at the head of its queue acts and is gone (19 R391). -/
def State.captureHead (s : State) (die queue : Nat) : State :=
  match ((vget (s.die die).queues queue).head?).bind (·.capture) with
  | none => s
  | some start => (s.modDie die fun d => d.dropRec queue 0).modDie die fun d => { d with
      trace := { d.trace with queues := (d.trace.queues.filter fun k => k ≠ queue) ++ (if start then [queue] else []) } }
/-- Capture packets that stand at the heads of their queues act before the CP places anything: each has reached its head. -/
def State.captureHeads (s : State) (die : Nat) : State :=
  (List.range 16).foldl (fun s k => (List.range (vget (s.die die).queues k).length).foldl (fun s _ => s.captureHead die k) s) s

/-- PLACE: one decision of a CP, at most one placement in 64 cycles (R160). -/
def execPlace (die : Nat) (s : State) : Out :=
  .next (
    let s := if s.front.dbg.frozen || !(s.die die).live || (s.die die).cpLost then s else (s.captureHeads die).modDie die Die.reserve
    let x := s.die die
    let soon := match x.lastPlace with
      | none => false
      | some c => decide (s.cyc < c + 64)
    if s.front.dbg.frozen || !x.live || x.cpLost then s
    else match x.failedRec with
    | some (k, p) =>
      let q := x.recAt (k, p)
      (s.modDie die fun d => d.dropRec k p).launchDone die q.record q.asid q.guard 13
    | none =>
      if soon then s
      else match x.savedFits with
      | some (p, o) =>
        if x.freeIdx.isNone then s else (s.modDie die fun d => { d with lastPlace := some s.cyc }).restoreAt die p o
      | none => match x.choose s.cyc, x.freeIdx with
        | some ((k, p), o), some idx =>
          let q := x.recAt (k, p)
          let status := s.headerCheck die q.record q.asid
          let s := s.modDie die fun d => d.dropRec k p
          if status ≠ 0 then s.launchDone die q.record q.asid q.guard status
          else
            let s := s.modDie die fun d => { d with lastPlace := some s.cyc, lastQueue := vset d.lastQueue (k / 4) (k % 4) }
            s.loadAt die q idx o (x.trace.queues.contains k)
        | _, _ => s)

/-! ### Arming (05 R127; 06 R134, R138; 18 R375) -/

/-- Does an FE's plane hold no block? -/
def Plane.blank (p : Plane) : Bool := p.blocks.toList.all fun b => b.isNone

/-- An FE at the arm of a residency: its START plane active, ordinals zero, credits full, the sampling unit empty, the implicit cut of a
SNAP residency (05 R127; 14 R316; 16 R331; 18 R368). An urgent one leaves what it pauses as it is (18 R375). -/
def Fe.armed (y : Fe) (x : Residency) (f : FeId) : Fe :=
  let y := y.fullCredit x f
  if x.urgent then
    { y with beneath := some y.active, firingBelow := y.firing, ordinalBelow := y.ordinal, firing := none, ordinal := 0, active := 5 }
  else
    let y := if y.beneath.isSome then { y with beneath := some x.start, ordinalBelow := 0 } else { y with active := x.start, ordinal := 0 }
    { y with voidPackets := 0, malformed := 0, samp := {}, cutShadow := (vget y.planes x.start).shadow }

/-- An FE passes to a spliced successor: the bank goes back, the successor's binds, its tile slots are EMPTY with no hold and no pin as after
the scrub that a splice leaves out (14 R297), and its plane becomes active with ports of its own, empty as at an arm (R138). What the rate
limiter has let in at its ports in this window stays counted (R137). -/
def State.spliceFe (s : State) (r q : ResId) (f : FeId) : State :=
  let x := s.res r
  let z := s.res q
  let s := s.bankWriteBack f
  let s := ((s.fe f).tiles.toList.flatMap (·.pins)).foldl (fun s l => s.unpin (some r) l) s
  let s := s.modFe f fun y =>
    let old := vget y.planes (y.beneath.getD y.active)
    let y := if y.beneath.isSome then { y with beneath := some z.plane, ordinalBelow := 0 } else { y with active := z.plane, ordinal := 0 }
    let counted (p : Plane) : Plane := { p with
      inp := Vector.ofFn fun (k : Fin 8) => { vget p.inp k.val with admitted := (vget old.inp k.val).admitted } }
    { y with switched := true, bank := (z.image.banks.find? fun b => b.1 = f).map (·.2), voidPackets := 0, malformed := 0, samp := {}
             tiles := .replicate 16 {}, planes := vmod y.planes z.plane counted
             cutTaken := none, pendingShadow := none, cutShadow := (vget y.planes z.plane).shadow }
  let h := s.localHeld f []
  let s := s.modFe f fun y => { y with scratch := 131072 - localUse h.1 h.2.1 h.2.2 }
  let here := (pitchFes r x).all fun g => (s.fe g).switched
  if here then ((s.tracePhase r).phaseEnd r 2 s.cyc s.cyc).phaseHeads r else s

/-- A saved residency arms as it was: its FEs and counters stand, its thread and bindings go on (18 R374). -/
def State.armRestored (s : State) (r : ResId) (saved : Option Thread) : State :=
  let x := s.res r
  let s := (pitchFes r x).foldl (fun s f => s.modFe f fun y =>
    if y.beneath.isSome then { y with beneath := some x.plane } else { y with active := x.plane }) s
  let s := s.modDie r.die fun d => { d with context := match saved with
    | none => mapErase d.context r.idx
    | some _ => d.context }
  s.modRes r fun x => { x with threadDue := !x.halted && x.gang = .none }

/-- Arm a loaded residency whose leave is granted (05 R127). -/
def State.armNow (s : State) (r : ResId) : State :=
  let x := s.res r
  let seq := (s.die r.die).armSeq
  let s := s.modDie r.die fun d => { d with
    armSeq := d.armSeq + 1
    trace := if x.captured then { d.trace with door := d.trace.door ++ [r.idx] } else d.trace }
  let s := s.modRes r fun x => { x with
    state := .armed, classLeave := x.units, armSeq := seq, threadDue := x.gang = .none
    gang := if x.gang = .placing then .ready else x.gang
    phase := if (mapFind (s.die r.die).context r.idx).isSome then x.phase else { x.phase with enabled := s.cyc } }
  match mapFind (s.die r.die).context r.idx with
  | some t => s.armRestored r t
  | none => match x.predecessor with
    | none => (pitchFes r x).foldl (fun s f => s.modFe f fun y => y.armed x f) s
    | some p =>
      let old : ResId := ⟨r.die, p⟩
      (pitchFes r x).foldl (fun s f =>
        let s := s.modFe f fun y => { y.fullCredit x f with switched := false }
        if (vget (s.fe f).planes (s.res old).plane).blank then s.spliceFe old r f else s) s

/-- Is any page of a pitch paused by an urgent residency? -/
def State.pitchPaused (s : State) (r : ResId) : Bool := (pitchFes r (s.res r)).any fun f => (s.fe f).beneath.isSome
/-- Count the cycles of a pre-emption's phase up to now, but for those of a pause (18 R372). -/
def State.tickPreempt (s : State) (r : ResId) : State :=
  let paused := s.pitchPaused r && !(s.res r).urgent
  s.modRes r fun x => { x with preemptCount :=
    (s.cyc, if paused || x.preempt.isNone then x.preemptCount.2 else x.preemptCount.2 + (s.cyc - x.preemptCount.1)) }
def State.tickPreempts (s : State) (die : Nat) : State :=
  (s.die die).res.foldl (fun s p => s.tickPreempt ⟨die, p.1⟩) s

/-- The core of a residency's origin page (01 R28). -/
def Residency.core (x : Residency) : Nat := pageNum x.band0 x.group0

/-- No instruction of a thread that starts has been stopped at a breakpoint (19 R382). -/
def State.unpassed (s : State) (t : ThreadId) : State :=
  { s with front := { s.front with dbg := { s.front.dbg with passed := s.front.dbg.passed.filter fun p => decide (p.1 ≠ t) } } }
/-- Start a thread (R134, R169, 18 R375). -/
def State.startThread (s : State) (t : ThreadId) (role : Role) (pc : Word) (asid : BitVec 16) (regs : List Word)
    (held : List Delivery) : State :=
  (s.unpassed t).modThr t fun x => { x.scrubbed with
    status := .ready, role, pc, asid, fetched := [], born := s.tick
    g := Vector.ofFn fun (k : Fin 32) => if k.val = 0 then 0 else regs.getD (k.val - 1) 0, held }

/-- Registers of a control thread: g1 ARG; g2 the tile in a guard's residency (07 R145). -/
def Residency.args (x : Residency) : List Word := match x.guard with
  | .none => [recArg x.record]
  | .surrogate _ t => [recArg x.record, wordN t]
  | .checker _ t => [recArg x.record, wordN t]
  | .exact _ t => [recArg x.record, wordN t]

/-- Start thread 0 of its origin page for an urgent residency (18 R375). -/
def State.startUrgent (s : State) (r : ResId) : State :=
  let x := s.res r
  let t : ThreadId := ⟨r.die, x.core, 0⟩
  let s := s.modRes r fun x => { x with threadDue := false, thread := some t }
  s.startThread t (.urgent r) (wordN (x.ctlBase + x.entry)) x.asid x.args []

/-- ARM: banks first, then leave; an urgent arm waits for neither and starts thread 0, which a gang slice does at its start (05 R127;
06 R136, R139; 18 R375). -/
def execArm (r : ResId) (s : State) : Out :=
  .next (
    let x := s.res r
    if !s.hasRes r || x.state ≠ .loaded || x.freed || s.front.dbg.frozen || (s.die r.die).cpLost then s
    else if x.urgent then
      let s := ((s.tickPreempts r.die).armNow r).pausePages r.die x.pages
      if x.gang = .none then s.startUrgent r else s
    else if s.bankBusy x.image.banks then s
    else match s.askLeave (.arm r) x.need x.prio with
      | (false, s) => s
      | (true, s) => s.armNow r)

/-! ### Threads and tasks (R134, 08 R169, 15 R322) -/

/-- The lowest free thread among 1-7 of a core. -/
def State.freeThread (s : State) (die page : Nat) : Option ThreadId :=
  ((List.range 7).map fun k => (⟨die, page, k + 1⟩ : ThreadId)).find? fun t => decide ((s.thr t).status = .free)
/-- Control threads that wait for a thread of a core, by order of arming. -/
def State.threadWaiters (s : State) (die page : Nat) : List (Nat × Nat) :=
  ((s.die die).res.filter fun p => p.2.threadDue && decide (p.2.state = .armed) && p.2.core = page).map fun p =>
    (p.2.armSeq, p.1)

/-- A restored binding belongs to the thread its control thread got, its command numbered on from those that an earlier task left
there. -/
def Binding.ownedBy (b : Binding) (t : ThreadId) (n : Nat) : Binding :=
  if b.owner.tid = 8 then { b with owner := t, cmd := { b.cmd with seq := b.cmd.seq + n } } else b
/-- Commands of a restored thread behind those that an earlier task left: numbered on, as queued by the start of the thread they are on. -/
def EngineQueue.behind (old q : EngineQueue) (n start : Nat) : EngineQueue :=
  let f (c : EngineCmd) : EngineCmd := { c with seq := c.seq + n, start }
  { waiting := old.waiting ++ q.waiting.map f, running := old.running ++ q.running.map f }
/-- A saved control thread `y` continues on thread `z` (18 R374). -/
def Thread.continued (y z : Thread) (now cyc : Nat) : Thread :=
  { y with startSeq := z.startSeq, paused := z.paused, fetched := [], born := now, cmdSeq := z.cmdSeq + y.cmdSeq
           se := z.se.behind y.se z.cmdSeq z.startSeq, tf := z.tf.behind y.tf z.cmdSeq z.startSeq
           ce := z.ce.behind y.ce z.cmdSeq z.startSeq
           waitFrom := y.waitFrom.map fun n => cyc - n
           status := if y.waitFrom.isSome then .stalled else .ready }

/-- THREAD_START: the first armed takes the lowest free thread; a restored one goes on from its saved state. -/
def execThreadStart (r : ResId) (s : State) : Out :=
  .next (
    let x := s.res r
    let first := (s.threadWaiters r.die x.core).all fun w => decide (x.armSeq ≤ w.1)
    if !x.threadDue || x.state ≠ .armed || !first || s.front.dbg.frozen then s
    else match s.freeThread r.die x.core with
      | none => s
      | some t =>
        let n := (s.thr t).cmdSeq
        let s := match mapFind (s.die r.die).context r.idx with
          | some (some y) =>
            let s := (s.unpassed t).modThr t fun z => y.continued z s.tick s.cyc
            s.modDie r.die fun d => { d with context := mapErase d.context r.idx }
          | _ => s.startThread t (.control r) (wordN (x.ctlBase + x.entry)) x.asid x.args []
        let s := s.modThr t fun y => { y with held := y.held ++ x.early }
        s.modRes r fun x => { x.mapBinds (fun b => b.ownedBy t n) with thread := some t, threadDue := false, early := [] })

/-- TASK_START: behind every control thread that waits, a packet takes the lowest free thread; an evaluator writes its
thread and start sequence into its cell. -/
def execTaskStart (die page : Nat) (s : State) : Out :=
  .next (match mapGet [] (s.die die).taskq page with
    | [] => s
    | p :: _ =>
      if !(s.threadWaiters die page).isEmpty || s.front.dbg.frozen then s
      else match s.freeThread die page with
        | none => s
        | some t =>
          let s := s.dequeueTask die page
          let s := s.modThr t fun x => { x with startSeq := (x.startSeq + 1) % 2 ^ 19 }
          let role : Role := match p.cell with
            | some c => .evaluator c p.done
            | none => .task p.owner p.done
          let s := s.startThread t role p.entry p.asid (p.named :: p.args.toList) []
          match p.cell with
          | none => s
          | some c =>
            let n := die * 2 ^ 28 + page * 2 ^ 22
            s.growth c fun l => if fldN l 0 32 = n then
              putFld l 0 32 (n + t.tid * 2 ^ 19 + (s.thr t).startSeq) else l)

/-! ### Splices (R138) -/

/-- The status a splice of a record behind a residency is refused with, or its image. The manual speaks of planes that the predecessor's
image leaves empty: planes that it has staged and not armed count as not empty too (DESIGN CHOICE, log entry 74). A record of another shape is
refused where R125 checks the shape, which no image then has. -/
def State.spliceLoad (s : State) (r : ResId) (l : Line) (asid : BitVec 16) : Except Nat (Image × Patches) :=
  let x := s.res r
  if s.headerCheck r.die l asid ≠ 0 then .error 1
  else
    let same := decide (recH l = x.h ∧ recW l = x.w)
    match s.cpLoad r.die l asid (if same then x.h else 0) (if same then x.w else 0) (s.pitchHeld r x) with
    | .error c => .error c
    | .ok (i, ps) =>
      let own := x.image.planes ++ (x.staged.map (·.planes)).getD []
      if i.written.any fun p => p = 5 || own.contains p || !x.usesPlane p then .error 10 else .ok (i, ps)

/-- SPLICE (R142): refused, it completes the successor; accepted, the successor is LOADED behind this residency. A splice of the pitch is
pending from its acceptance until its predecessor has left the pitch (DEDUCED, log entry 74), be this residency its predecessor or its
successor. The manual names a pending splice alone as a wait: here it also waits while the residency table of the die has no free
index. A spore evaluator's, which has no residency to follow, traps ACCESS, once its record has been read and found well-formed (DESIGN
CHOICE twice, log entry 74). -/
def execSplice (a : BitVec 5) (u p : BitVec 3) (s : State) : Out :=
  .next (s.control u p fun s =>
    let ra := s.rd a
    if s.curThread.tid = 0 then trapWith s .access
    else if fldN ra 0 6 ≠ 0 then trapWith s .misaligned ra
    else s.afterStores fun s => s.withRecord ra.toNat 64 fun s bs =>
      let l := lineOf bs
      if deviceRecBad l true then trapWith s .launchBad ra
      else match s.curRes with
        | none => trapWith s .access
        | some r =>
          let x := s.res r
          let asid := s.cur.asid
          let l := putFld l 88 16 asid.toNat
          match (s.die r.die).freeIdx with
          | none => .wait s
          | some idx =>
            if x.successor.isSome || x.predecessor.isSome then .wait s
            else match s.spliceLoad r l asid with
              | .error c => .retire (s.pairDone r.die asid (recDone l) c)
              | .ok (i, ps) =>
                let q : ResId := ⟨r.die, idx⟩
                let st := i.staged q x
                let z := { loadedRes s l asid .none (x.band0, x.group0) i st with predecessor := some r.idx, windowFrom := x.windowFrom }
                let s := (s.patch r.die asid ps).prefetchAll r.die asid st.footprint
                let s := s.modDie r.die fun d => { d with res := mapSet d.res idx z, phaseLog := mapErase d.phaseLog idx }
                let s := (s.installPlanes st).installLocal { st with banks := [] }
                let s := (pitchFes r x).foldl (fun s f => s.modFe f fun y => { y with switched := false }) s
                let s := s.modRes r fun x => { x with successor := some idx, lent := st.planes }
                .retire (s.requestArm q))

/-- Has an FE of the predecessor nothing more to do: its plane drained, or ended by force? What it has emitted may still stand in its output
registers (R138). -/
def State.spliceReady (s : State) (r : ResId) (f : FeId) : Bool :=
  let x := s.res r
  let y := s.fe f
  ((vget y.planes (y.beneath.getD y.active)).drained || x.freed) && y.switchable x

/-- SPLICE_FE_SWITCH. -/
def execSpliceFeSwitch (f : FeId) (s : State) : Out :=
  .next (match (s.die f.die).res.find? fun p => p.2.pages.contains f.page && p.2.successor.isSome with
    | none => s
    | some (k, x) =>
      let r : ResId := ⟨f.die, k⟩
      let q : ResId := ⟨f.die, x.successor.getD 0⟩
      if (s.fe f).switched || (s.res q).state ≠ .armed || x.freeze ≠ 0 || s.front.dbg.frozen || !s.spliceReady r f then s
      else s.spliceFe r q f)

/-! ### Gangs (R139, R140) -/

/-- The gang clock: nanoseconds, as aligned at enrolment (21 R414). -/
def State.gclk (s : State) : Nat := (s.front.gclk + s.cyc / Config.cyclesPerNanosecond) % 2 ^ 64

/-- GANG_ALL_READY: the last member's ready report has arrived; T is the first quantum boundary 20 µs from now or later. -/
def execGangAllReady (r : ResId) (s : State) : Out :=
  .next (
    let q := s.front.quantum * 1000
    if (s.res r).gang ≠ .ready || s.front.dbg.frozen then s
    else s.modRes r fun x => { x with gang := .waiting, gangT := (s.gclk + 20000 + q - 1) / q * q })

/-- GANG_START: the gang clock has reached T; the slice runs. -/
def execGangStart (r : ResId) (s : State) : Out :=
  .next (if (s.res r).gang ≠ .waiting || s.gclk < (s.res r).gangT || s.front.dbg.frozen then s
    else
      let s := s.modRes r fun x => { x with gang := .running, threadDue := true, phase := { x.phase with enabled := s.cyc } }
      if (s.res r).urgent then s.startUrgent r else s)

/-- Do keys of a site and a plane belong to a pitch's own planes: 5 for an urgent residency, 0 to 4 otherwise? -/
def Residency.ownsSite (x : Residency) (die : Nat) (k : Nat × Nat × Nat × Nat) : Bool :=
  decide (k.1 = die) && x.covers k.2.1 k.2.2.1 && (decide (k.2.2.2 = 5) == x.urgent)

/-- An FE with planes 0-4 and local memory cleared; plane 5 stays (20 R397). -/
def Fe.wiped (y : Fe) : Fe :=
  let on := y.beneath.isSome
  { planes := vset (.replicate 6 {}) 5 (vget y.planes 5), active := if on then 5 else 0, beneath := if on then some 0 else none
    firing := if on then y.firing else none, ordinal := if on then y.ordinal else 0
    port := y.port.filter fun o => o.plane = 5, nextOp := y.nextOp }
/-- An FE with plane 5 cleared; the plane beneath resumes where it stopped (18 R375). -/
def Fe.resumed (y : Fe) : Fe :=
  let on := y.beneath.isSome
  { y with planes := vset y.planes 5 {}, active := y.beneath.getD y.active, beneath := none
           firing := if on then y.firingBelow else y.firing, firingBelow := none
           ordinal := if on then y.ordinalBelow else y.ordinal, port := y.port.filter fun o => o.plane ≠ 5 }

/-- Clear a pitch: its pins fall, its FEs, its boxes and its islands are cleared, local memory is zeroed (20 Table 20-2 steps
2 to 5); for an urgent residency plane 5 alone. -/
def State.wipe (s : State) (r : ResId) : State :=
  let x := s.res r
  let s := x.pins.foldl (fun s l => s.unpin (some r) l) s
  let s := if x.urgent then (s.tickPreempts r.die).resumePages r.die x.pages else s
  let s := (pitchFes r x).foldl (fun s f => s.modFe f fun y => if x.urgent then y.resumed else y.wiped) s
  let mine (a : Nat) : Bool := (pitchFes r x).any fun f => decide (feBase f ≤ a ∧ a < feBase f + 131072)
  { s with routes := s.routes.filter fun p => !x.ownsSite r.die p.1
           islands := s.islands.filter fun p => !x.ownsSite r.die p.1
           latches := s.latches.filter fun p => !(decide (p.1.die = r.die ∧ p.1.p5 = x.urgent) && x.covers p.1.row p.1.col)
           lmem := if x.urgent then s.lmem else s.lmem.filter fun c => !mine c.1 }

/-- Take a residency out of its table: its leave returns, its pages are FREE or lose their BIV, its phases stay readable
(08 R158; 19 R393; 20 R396). -/
def State.freePitch (s : State) (r : ResId) : State :=
  let x := s.res r
  let s := (s.dropArm r).giveLeave (if x.classLeave = 0 then 0 else x.classLeave + x.explicitLeave)
  s.modDie r.die fun d => { d with
    res := mapErase d.res r.idx
    context := mapErase d.context r.idx
    phaseLog := mapSet d.phaseLog r.idx (x.phases, x.totals)
    trace := { d.trace with door := d.trace.door.filter fun k => k ≠ r.idx }
    pages := Vector.ofFn fun (k : Fin 48) =>
      let p := vget d.pages k.val
      if !x.pages.contains k.val || p.state = .excluded then p
      else if x.urgent then { p with biv := false }
      else { p with state := .free, res := 0 } }

/-- Release a pitch that never started. -/
def State.releasePitch (s : State) (r : ResId) : State := (s.wipe r).freePitch r

/-- The cycle of the next boundary of the gang quantum. -/
def State.nextQuantum (s : State) : Nat :=
  let q := s.front.quantum * 1000
  s.cyc + ((s.gclk / q + 1) * q - s.gclk) * Config.cyclesPerNanosecond

/-- GANG_ABANDON: a member was not READY by T + SLACK; the slice is released, the miss counted, and its record is placed again from the
next quantum on. An abort in the same cycle, and an ending by the host, take effect instead (R140). While the queue that the record goes
back to holds 64 records the slice is not released: the manual does not say what a full queue does to a retry (DESIGN CHOICE, log
entry 85). -/
def execGangAbandon (r : ResId) (s : State) : Out :=
  .next (
    let x := s.res r
    let late := decide (x.gangT + recSlack x.record * 1000 ≤ s.gclk)
    let k := recQueue x.record
    if !((x.gang = .waiting && late) || x.gang = .placing || x.gang = .ready) || x.freed || x.scrubbing || x.gangLost ||
        s.front.dbg.frozen || 64 ≤ (vget (s.die r.die).queues k).length then s
    else
      let s := (s.releasePitch r).count r.die 15 1
      let again := s.nextQuantum
      let q : QRec := { record := x.record, asid := x.asid, addr := x.addr, met0 := true, met1 := true, since := some again
                        notBefore := again }
      s.modDie r.die fun d => { d with queues := vmod d.queues k fun l => l ++ [q] })

end Sys2Proof.Machine
end

