-- ==== Sys2Proof/Machine/Rotate.lean ====
section
/-! DEFINITION. Rotations: steps, the tokens of port pK, slot-fault notices, and the ROT instructions (11 R225-R253;
25 R431, R432). -/

namespace Sys2Proof.Machine

/-! ### Slots (R233, R241; 25 R432) -/

def Rotation.slot (q : Rotation) (ph : Nat) : Slot := q.slots.getD ph {}
/-- Phase of the next step (R226). -/
def Rotation.phase (q : Rotation) : Nat := q.p % q.depth
def Rotation.moving (q : Rotation) : Bool := q.slots.any (·.inflight)
def State.modSlot (s : State) (r : ResId) (rot ph : Nat) (f : Slot → Slot) : State := s.modRot r rot fun q => q.modSlot ph f
/-- Number of a status (Table 11-5). -/
def statusNum : SlotStatus → Nat
  | .empty => 0
  | .live => 1
  | .held => 2
  | .faulted => 3
  | .absent => 4
def statusOf : Nat → SlotStatus
  | 0 => .empty
  | 1 => .live
  | 2 => .held
  | 3 => .faulted
  | _ => .absent

/-- The binding of a slot. -/
def State.slotBind (s : State) (r : ResId) (rot ph : Nat) : Option (Nat × Binding) :=
  (s.res r).binds.find? fun b => decide (b.2.dest = .slot rot ph)
/-- Where counters stand in the order of a pattern: i0 fastest (13 Table 13-2). -/
def ctrKey (c : Vector Nat 4) : Nat := vget c 3 * 2 ^ 96 + vget c 2 * 2 ^ 64 + vget c 1 * 2 ^ 32 + vget c 0
/-- The earlier of two places in a pattern. -/
def ctrMin (a b : Vector Nat 4) : Vector Nat 4 := if ctrKey b < ctrKey a then b else a
/-- The first place that tokens of a queue came from, if a binding brought any. -/
def firstCtr (ts : List (Line × Option (Vector Nat 4))) : Option (Vector Nat 4) := match ts.filterMap (·.2) with
  | [] => none
  | c :: cs => some (cs.foldl ctrMin c)
/-- Counters of the first element that a slot's queue still holds or its binding has not delivered. -/
def State.queuedCtr (s : State) (r : ResId) (rot ph : Nat) (z : Slot) : Vector Nat 4 :=
  let rest := match s.slotBind r rot ph with
    | some (_, b) => b.undelivered
    | none => z.ctr
  ((firstCtr z.queue).toList).foldl ctrMin rest
/-- Counters of the first element that has not completed a revolution: in flight or faulted, queued, spilled, or to be read (R432). -/
def State.slotCtr (s : State) (r : ResId) (rot ph : Nat) (z : Slot) : Vector Nat 4 :=
  (z.chunkCtr.toList).foldl ctrMin (s.queuedCtr r rot ph z)
/-- Rewind a slot's binding to a place; what it has spilled from there on is dropped. -/
def State.rewindSlot (s : State) (r : ResId) (rot ph : Nat) (c : Vector Nat 4) : State :=
  match s.slotBind r rot ph with
  | none => s
  | some (k, b) =>
    let early (p : Spill) : Bool := decide (ctrKey p.ctr < ctrKey c)
    let s := (b.spill.filter fun p => !early p).foldl (fun s p =>
      let q := Requester.binding r k (patElem b.pat p.ctr)
      (s.spillDone b.owner.die q).unparkWho q) s
    s.modBind r k fun b => { b.rewound c with spill := b.spill.filter early }
/-- A binding's queued tokens are discarded and the binding is rewound; tokens that came through pK stay (R241). -/
def State.slotBack (s : State) (r : ResId) (rot ph : Nat) (c : Vector Nat 4) : State :=
  (s.rewindSlot r rot ph c).modSlot r rot ph fun z => { z with queue := z.queue.filter fun t => t.2.isNone, ctr := c }
/-- The binding of a slot stops (R246, R251). -/
def State.stopSlot (s : State) (r : ResId) (rot ph : Nat) : State :=
  match s.slotBind r rot ph with
  | none => s
  | some (k, _) => s.stopBind r k

/-! ### Slot-fault notices (R240) -/

/-- The record of a slot fault. -/
def noticeRec (s : State) (r : ResId) (q : Rotation) (z : Slot) (n : Notice) : Rec8 :=
  rec8 [wordN (codeNum n.code + 2 ^ 16), wordN (q.num + n.phase * 2 ^ 8 + z.stream.toNat * 2 ^ 32),
    wordN (n.fe + n.block * 2 ^ 16 + n.slot * 2 ^ 24), wordN n.ordinal, 0, 0, 0,
    originWord q.seam.die q.seam.page r.idx (s.res r).asid 0 0]
/-- A notice beyond the first of a revolution is counted at its FE. -/
def State.noticeCounted (s : State) (r : ResId) (n : Notice) : State :=
  s.modFe (feOfIndex r (s.res r) n.fe) fun x => { x with slotFaults := x.slotFaults + 1 }

/-- SLOT_FAULT_NOTICE: the oldest notice on its way reaches the seam. -/
def execSlotFaultNotice (r : ResId) (rot : Nat) (s : State) : Out :=
  .next (match s.rot r rot with
    | none => s
    | some q => match q.notices with
      | [] => s
      | n :: rest =>
        if s.front.dbg.frozen then s
        else
          let s := s.modRot r rot fun q => { q with notices := rest }
          let z := q.slot n.phase
          if !z.inflight || z.notice.isSome then s.noticeCounted r n
          else s.modSlot r rot n.phase fun z => { z with notice := some n })

/-- The end of a slot's revolution: its notice is delivered, after a save revolution has retired; others of the revolution
are counted. -/
def State.noticesEnd (s : State) (r : ResId) (rot ph : Nat) : State :=
  match s.rot r rot with
  | none => s
  | some q =>
    let z := q.slot ph
    let s := (q.notices.filter fun n => n.phase = ph).foldl (fun s n => s.noticeCounted r n) s
    let s := s.modRot r rot fun q => { (q.modSlot ph fun z => { z with notice := none }) with
      notices := q.notices.filter fun n => decide (n.phase ≠ ph) }
    match z.notice with
    | none => s
    | some n =>
      let w := noticeRec s r q z n
      if q.saving.isSome then s.modRot r rot fun q => { q with saving := q.saving.map fun v => { v with recs := v.recs ++ [w] } }
      else s.deliver r { words := w }

/-! ### Slot records and images (R249-R251) -/

/-- Metadata of a slot record (Table 11-7). -/
def State.slotMeta (s : State) (r : ResId) (q : Rotation) (ph : Nat) : Line :=
  let z := q.slot ph
  let st := if z.status = .held then 1 else statusNum z.status
  let c := if z.status = .empty then .replicate 4 0 else s.slotCtr r q.num ph z
  let fields : List (Nat × Nat × Nat) :=
    [(0, 3, st), (8, 8, ph), (16, 16, z.fcode.toNat), (32, 32, z.stream.toNat), (64, 32, z.comp.toNat),
     (96, 32, z.chunks.toNat), (128, 6, z.queue.length), (134, 2, q.width - 1), (136, 1, if q.k then 1 else 0),
     (137, 1, if (s.slotBind r q.num ph).isSome then 1 else 0), (192, 32, vget c 0), (224, 32, vget c 1),
     (256, 32, vget c 2), (288, 32, vget c 3)]
  fields.foldl (fun l f => putFld l f.1 f.2.1 f.2.2) 0
/-- A slot record: metadata and state tokens. -/
def State.slotRecord (s : State) (r : ResId) (q : Rotation) (ph : Nat) : List Byte :=
  lineBytes (s.slotMeta r q ph) ++ (List.range q.width).flatMap fun i => lineBytes ((q.slot ph).park.getD i 0)
def recordLen (width : Nat) : Nat := 64 * (width + 1)
/-- Is a slot record malformed (R250)? -/
def slotRecBad (l : Line) : Bool := fldN l 3 5 ≠ 0 || fldN l 138 54 ≠ 0 || fldN l 320 192 ≠ 0 || 4 < fldN l 0 3
/-- The slot that a record of a rotation describes, its state tokens at `bs` behind the metadata. It keeps the record's counters as those of
its last binding, and a FAULTED one's name the chunk that faulted (R247, R432; DEDUCED, log entry 17). -/
def recSlot (l : Line) (q : Rotation) (bs : List Byte) : Slot :=
  let st := statusOf (fldN l 0 3)
  let c : Vector Nat 4 := Vector.ofFn fun (k : Fin 4) => fldN l (192 + 32 * k.val) 32
  { status := if st = .held then .live else st, stream := fld l 32 32, chunks := fld l 96 32, comp := fld l 64 32
    fcode := if st = .faulted then fld l 16 16 else 0
    ctr := c, chunkCtr := if st = .faulted then some c else none, chunkLen := if st = .faulted then q.chunk else 0
    park := (List.range q.width).map fun i => lineOf ((bs.drop (64 * (i + 1))).take 64) }

/-- An image's header (Table 11-6). -/
def rotHeader (q : Rotation) (p0 nlive : Nat) : Line :=
  let fields : List (Nat × Nat × Nat) :=
    [(0, 32, 0x5A524F54), (32, 8, 1), (40, 9, q.depth), (49, 2, q.width - 1), (51, 1, if q.k then 1 else 0),
     (52, 4, q.chunk - 1), (56, 8, p0), (64, 9, nlive), (96, 16, 1)]
  fields.foldl (fun l f => putFld l f.1 f.2.1 f.2.2) 0
/-- Does a header fit a rotation (R252)? -/
def rotHeaderOk (q : Rotation) (h : Line) : Bool :=
  fldN h 0 32 = 0x5A524F54 && fldN h 32 8 = 1 && fldN h 96 16 = 1 && fldN h 73 23 = 0 && fldN h 112 400 = 0 &&
  fldN h 49 2 = q.width - 1 && bitOf h 51 == q.k && 1 ≤ fldN h 40 9 && fldN h 40 9 ≤ 256
/-- Slots that are not EMPTY. -/
def Rotation.nlive (q : Rotation) : Nat := (q.slots.filter fun z => decide (z.status ≠ .empty)).length
/-- The whole image of a rotation at rest, as pre-emption writes it (R253). -/
def State.rotImage (s : State) (r : ResId) (q : Rotation) : List Byte :=
  lineBytes (rotHeader q q.phase q.nlive) ++ (List.range q.depth).flatMap fun ph => s.slotRecord r q ph

/-! ### Steps (R226, R227, R231, R234, R243) -/

/-- Is a debug cut of the residency in progress, at which entry stops (19 R388)? -/
def Residency.debugCut (x : Residency) : Bool := x.cut.any (·.debug)
/-- May a chunk enter: no plane switch asked for, no save revolution, no debug cut? -/
def State.entryOpen (s : State) (r : ResId) (q : Rotation) : Bool :=
  (s.res r).switch.isNone && q.saving.isNone && !(s.res r).debugCut
/-- May the seam step: its plane active, its pitch running; during a switch or a debug cut only while a slot is in flight;
a save revolution has D steps. -/
def State.seamRuns (s : State) (r : ResId) (q : Rotation) : Bool :=
  decide ((s.fe q.seam).active = q.plane) && s.mayStart q.seam q.moving = some r && (q.moving || !(s.res r).debugCut) &&
  !(q.saving.any fun v => decide (q.depth ≤ v.done))

/-- The compensated step (R243): lane 0 of the new state, and COMP. -/
def compensate (park r comp : Nat) : Nat × Nat :=
  let f := fmtOf 10
  let sub (a b : Nat) : Nat := f.roundVal 0 (sumVals 0 [f.val a, (f.val b).flip])
  let y := sub r comp
  let t := addPats f 0 park y
  (t, sub (sub t park) y)
/-- A normal return: the park takes the tokens unless one held its slot; the chunk is done. -/
def Slot.returned (z : Slot) (k : Bool) (ts : List Token) : Slot :=
  let z := { z with inflight := false, chunks := z.chunks + 1, chunkCtr := none, chunkLen := 0 }
  if ts.any (·.sh) then z
  else
    let data := ts.map (·.data)
    if !k then { z with park := data }
    else
      let (t, c) := compensate (lane (z.park.headD 0) 0) (lane (data.headD 0) 0) z.comp.toNat
      { z with park := putFld (data.headD 0) 0 32 t :: data.drop 1, comp := BitVec.ofNat 32 c }
/-- A return that carries SF: the park keeps the entry copy. -/
def Slot.fails (z : Slot) (code : Nat) : Slot :=
  { z with inflight := false, status := .faulted, fcode := BitVec.ofNat 16 code }

/-- Place the tokens of an entry on an output port with TAG φ. -/
def State.enter (s : State) (f : FeId) (plane port ph : Nat) (data : List Line) : State :=
  data.foldl (fun s d => (s.emit f plane port 0 d).modOut f plane port fun o =>
    { o with reg := o.reg.zipIdx.map fun t => if t.2 + 1 = o.reg.length then
        { t.1 with tag := BitVec.ofNat 8 ph, sf := false, sh := false } else t.1 }) s

/-- A state in which nothing has happened but that a store waits, as it does in `m`: what it has asked of peers and slices. -/
def State.asked (s m : State) : State :=
  { s with l2 := m.l2, heldReqs := m.heldReqs, sent := m.sent, front := m.front
           dies := Vector.ofFn fun (d : Fin 4) => { s.die d.val with counters := (m.die d.val).counters } }

/-- Write the record of a phase of a save revolution, or wait while the store cannot perform. A fault is the `ROT.SAVE`'s. -/
def State.saveRecord (s : State) (r : ResId) (rot ph : Nat) : Except State State :=
  match s.rot r rot with
  | none => .ok s
  | some q => match q.saving with
    | none => .ok s
    | some v =>
      let t := v.who
      let fault (x : Stop) : State := s.takeTrap t x.code x.w1 x.w2 x.w3 (s.thr t).word (s.thr t).pc
      match s.resolve (s.agent t) (v.image.toNat + 64 + ph * recordLen q.width) (recordLen q.width) .w with
      | .error x => .ok (fault x)
      | .ok ps => match s.storePieces (s.agent t) ps (s.slotRecord r q ph) with
        | (.stop x, _) => .ok (fault x)
        | (.wait, m) => .error m
        | (.done, s) => .ok (s.modRot r rot fun q => { q with saving := q.saving.map fun v =>
            { v with done := v.done + 1, p0 := some (v.p0.getD ph)
                     live := if (q.slot ph).status = .empty then v.live else v.live + 1 } })

/-- The step ends: it was a firing of the seam. -/
def State.stepEnds (s : State) (r : ResId) (q : Rotation) : State :=
  let s := (s.traceFiring q.seam q.plane q.block).modFe q.seam fun x => { x with ordinal := x.ordinal + 1 }
  s.modRot r q.num fun q => { q with p := q.p + 1 }

/-- The second half of a step: an entry, HELD, or neither. -/
def State.stepEntry (s : State) (r : ResId) (q : Rotation) (F X : Nat) : State :=
  let ph := q.phase
  let z := q.slot ph
  let f := q.seam
  if !s.entryOpen r q || !(z.status = .live || z.status = .held) then s.stepEnds r q
  else if z.queue.length < q.chunk then (s.modSlot r q.num ph fun z => { z with status := .held }).stepEnds r q
  else
    let free (k : Nat) : Nat := (vget (s.plane f q.plane).outp k).free
    if !((List.range q.width).all fun i => decide (1 ≤ free (F + i))) || free X < q.chunk then s
    else
      let chunk := z.queue.take q.chunk
      let s := (List.range q.width).foldl (fun s i => s.enter f q.plane (F + i) ph [z.park.getD i 0]) s
      let s := s.enter f q.plane X ph (chunk.map (·.1))
      (s.modSlot r q.num ph fun z => { z with
        status := .live, inflight := true, queue := z.queue.drop q.chunk, chunkCtr := firstCtr chunk
        chunkLen := (chunk.filter fun t => t.2.isSome).length }).stepEnds r q

/-- A step behind its return: while saving it writes the record of its phase. -/
def State.stepOn (s : State) (r : ResId) (rot F X : Nat) : Except State State :=
  match s.rot r rot with
  | none => .ok s
  | some q => if q.saving.isSome then (s.saveRecord r rot q.phase).map fun s => s.stepEnds r q else .ok (s.stepEntry r q F X)

/-- The step goes on from `m`, or, while its record's store cannot perform, `s` stands with what the store asks. -/
def State.stepFrom (s m : State) (r : ResId) (rot F X : Nat) : State :=
  match m.stepOn r rot F X with
  | .ok t => t
  | .error w => s.asked w

/-- ROT_SLIP at a step: the tokens are dropped, the chunk is lost, the step makes no entry. -/
def State.stepSlips (s : State) (r : ResId) (q : Rotation) (ph : Nat) : State :=
  let z := q.slot ph
  let s := s.fabricFault r q.seam q.plane q.block 0 (s.fe q.seam).ordinal { code := .rotSlip } ph
  let s := match z.chunkCtr with
    | none => s
    | some c => s.slotBack r q.num ph c
  ((s.modSlot r q.num ph fun z => { z with inflight := false, chunkCtr := none, chunkLen := 0 }).noticesEnd r q.num ph).stepEnds r q

/-- One step of a rotation with back ports from `B`, forward ports from `F` and chunk port `X`; nothing moves while it
waits (R234). -/
def State.rotStep (s : State) (r : ResId) (rot B F X : Nat) : State :=
  match s.rot r rot with
  | none => s
  | some q =>
    if !s.seamRuns r q then s
    else
      let f := q.seam
      let ph := q.phase
      let z := q.slot ph
      let s := (List.range q.width).foldl (fun s i => s.headArrives f q.plane (B + i)) s
      if !z.inflight then s.stepFrom s r rot F X
      else
        let heads := (List.range q.width).map fun i =>
          if s.stoppedPort f (B + i) false then none else (vget (s.plane f q.plane).inp (B + i)).fifo.head?
        if heads.any Option.isNone then s
        else
          let ts := heads.filterMap id
          let took (s : State) : State := (List.range q.width).foldl (fun s i => s.modHead f q.plane (B + i) InPort.consume) s
          if ts.any fun t => decide (t.tag.toNat ≠ ph ∨ t.kind ≠ 0) then (took s).stepSlips r q ph
          else if ts.any (·.sf) then match z.notice with
            | none => s
            | some n =>
              let m := (took s).modSlot r rot ph fun z => z.fails (codeNum n.code)
              let m := match z.chunkCtr with
                | none => m
                | some c => m.slotBack r rot ph c
              s.stepFrom (m.noticesEnd r rot ph) r rot F X
          else
            s.stepFrom (((took s).modSlot r rot ph fun z => z.returned q.k ts).noticesEnd r rot ph) r rot F X

/-- ROT_STEP: the seam steps with the ports of its declaration. -/
def execRotStep (r : ResId) (rot : Nat) (s : State) : Out :=
  .next (match s.rot r rot with
    | none => s
    | some q => s.rotStep r rot q.back q.fwd q.px)

/-! ### Port pK (R236, R237) -/

/-- A token of pK in a rotation's queue, discarded, dropped, or waiting. -/
def State.pkToken (s : State) (r : ResId) (rot K : Nat) : State :=
  match s.rot r rot with
  | none => s
  | some q =>
    let f := q.seam
    if (s.fe f).active ≠ q.plane || !s.streamsMove r f || s.stoppedFe f || s.stoppedPort f K false then s
    else
      let s := s.headArrives f q.plane K
      match (vget (s.plane f q.plane).inp K).fifo with
      | [] => s
      | t :: _ =>
        let took (s : State) : State := s.modHead f q.plane K InPort.consume
        let z := q.slot t.tag.toNat
        if s.stoppedPort f K false then s
        else if t.kind ≠ 0 then took s
        else if q.depth ≤ t.tag.toNat || z.status = .empty then (took s).countVoid f 1
        else if 2 * q.chunk ≤ z.queue.length || 256 ≤ s.chunkStore f then s
        else (took s).modSlot r rot t.tag.toNat fun z => { z with queue := z.queue ++ [(t.data, none)] }

/-- SEAM_PK_TOKEN. -/
def execSeamPkToken (r : ResId) (rot : Nat) (s : State) : Out :=
  .next (match s.rot r rot with
    | none => s
    | some q => s.pkToken r rot q.pk)

/-- The rotation whose seam an FE is in its active plane. -/
def State.seamOf (s : State) (f : FeId) : Option (ResId × Nat) :=
  match s.owner f with
  | none => none
  | some r => ((s.res r).rots.find? fun q => decide (q.seam = f ∧ q.plane = (s.fe f).active)).map fun q => (r, q.num)

/-- SEAM: its FE takes a token of port K, then makes a step with the ports it names (R231). -/
def execSeam (B K X F : BitVec 3) (s : State) : Out :=
  .next (match s.seamOf s.curFe with
    | none => s.nextSlot
    | some (r, rot) => ((s.pkToken r rot K.toNat).rotStep r rot B.toNat F.toNat X.toNat).nextSlot)

/-! ### The ROT forms (R244-R252) -/

/-- The rotation a form names: one that the executing residency declares. -/
def State.rotNamed (s : State) (n : BitVec 3) : Option (ResId × Rotation) :=
  match s.curRes with
  | none => none
  | some r => (s.rot r n.toNat).map fun q => (r, q)
def rotWidth (x : Option (ResId × Rotation)) : Nat := match x with
  | none => 0
  | some (_, q) => q.width

/-- ROT.JOIN (R245). -/
def execRotJoin (a b : BitVec 5) (n u p : BitVec 3) (s : State) : Out :=
  .next (s.control u p fun s =>
    let ra := s.rd a
    if s.cur.role.isTask then trapWith s .access
    else if fldN ra 0 6 ≠ 0 then trapWith s .misaligned ra
    else s.withRecord ra.toNat (recordLen (rotWidth (s.rotNamed n))) fun s bs =>
      let l := lineOf (bs.take 64)
      match s.rotNamed n with
      | none => trapWith s .argRange
      | some (r, q) =>
        if slotRecBad l || fldN l 134 2 ≠ q.width - 1 || bitOf l 136 != q.k || fldN l 0 3 = 0 || fldN l 0 3 = 4 then
          trapWith s .argRange
        else match (List.range q.depth).find? fun ph => (q.slot ph).status = .empty with
          | none => .retire (s.wr b (BitVec.allOnes 64))
          | some ph => .retire ((s.modSlot r q.num ph fun _ => recSlot l q bs).wr b (wordN ph)))

/-- Write bytes for the current thread, or its trap. -/
def State.rotWrite (s : State) (a : Nat) (bs : List Byte) (k : State → Ctl) : Ctl :=
  match s.resolve s.curAgent a bs.length .w with
  | .error x => .trap s x
  | .ok ps => match s.storePieces s.curAgent ps bs with
    | (.stop x, _) => .trap s x
    | (.wait, s) => .wait s
    | (.done, s) => k s

/-- Has a slot no chunk left to enter (25 R431)? -/
def Slot.atRest (z : Slot) (chunk : Nat) : Bool :=
  !z.inflight && (!(z.status = .live || z.status = .held) || decide (z.queue.length < chunk))

/-- ROT.LEAVE (R246). -/
def execRotLeave (a b : BitVec 5) (n u p : BitVec 3) (s : State) : Out :=
  .next (s.control u p fun s =>
    let ra := s.rd a
    let rb := s.rd b
    let s := s.drain s.curThread
    if s.cur.role.isTask then trapWith s .access
    else if fldN rb 0 6 ≠ 0 then trapWith s .misaligned rb
    else if !s.drained s.curThread then .wait s
    else match s.resolve s.curAgent rb.toNat (recordLen (rotWidth (s.rotNamed n))) .w with
      | .error x => .trap s x
      | .ok _ => match s.rotNamed n with
        | none => trapWith s .argRange
        | some (r, q) =>
          let ph := ra.toNat
          let z := q.slot ph
          if q.depth ≤ ph || z.status = .empty then trapWith s .argRange
          else
            let s := match s.slotBind r q.num ph with
              | none => s
              | some (k, _) => s.modBind r k fun b => { b with paused := true }
            if !z.atRest q.chunk then .wait s
            else
              let z := if z.status = .absent then { z with park := [] } else z
              let q := q.modSlot ph fun _ => z
              s.rotWrite rb.toNat (s.slotRecord r q ph) fun s =>
                .retire ((s.stopSlot r q.num ph).modSlot r q.num ph fun _ => {}))

/-- The end of a save revolution: slots with queued input are ABSENT, others EMPTY; its slot-fault records are due. -/
def State.saveEnds (s : State) (r : ResId) (q : Rotation) (v : Saving) : State :=
  let s := (List.range q.depth).foldl (fun s ph =>
    let z := q.slot ph
    if z.status = .empty then s
    else if z.queue.isEmpty then (s.stopSlot r q.num ph).modSlot r q.num ph fun _ => {}
    else
      let s := match s.slotBind r q.num ph with
        | none => s
        | some (k, _) => s.modBind r k fun b => { b with paused := true }
      s.modSlot r q.num ph fun z => { z with status := .absent, park := [], fcode := 0, chunkCtr := none, chunkLen := 0 }) s
  let s := s.modRot r q.num fun q => { q with saving := none }
  v.recs.foldl (fun s w => s.deliver r { words := w }) s

/-- ROT.SAVE (R251). -/
def execRotSave (a : BitVec 5) (n u p : BitVec 3) (s : State) : Out :=
  .next (s.control u p fun s =>
    let ra := s.rd a
    let s := s.drain s.curThread
    let len := match s.rotNamed n with
      | none => 64
      | some (_, q) => 64 + q.depth * recordLen q.width
    if s.cur.role.isTask then trapWith s .access
    else if fldN ra 0 6 ≠ 0 then trapWith s .misaligned ra
    else if !s.drained s.curThread then .wait s
    else match s.resolve s.curAgent ra.toNat len .w with
      | .error x => .trap s x
      | .ok _ => match s.rotNamed n with
        | none => trapWith s .argRange
        | some (r, q) => match q.saving with
          | none => .wait (s.modRot r q.num fun q => { q with saving := some { who := s.curThread, image := ra } })
          | some v =>
            if v.done < q.depth then .wait s
            else
              let h := rotHeader q (v.p0.getD 0) v.live
              s.rotWrite ra.toNat (lineBytes h) fun s => .retire (s.saveEnds r q v))

/-- The phase each record goes to, none for an EMPTY one: by ascending OLDPH, or by the map; none when the map is bad. -/
def newPhases (recs : List Line) (depth : Nat) (map : Option (List Byte)) : Option (List (Option Nat)) :=
  let live (l : Line) : Bool := fldN l 0 3 ≠ 0
  match map with
  | none =>
    let rank (l : Line) (i : Nat) : Nat := (recs.zipIdx.filter fun x => live x.1 &&
      decide (fldN x.1 8 8 < fldN l 8 8 ∨ (fldN x.1 8 8 = fldN l 8 8 ∧ x.2 < i))).length
    some (recs.zipIdx.map fun x => if live x.1 then some (rank x.1 x.2) else none)
  | some m =>
    let es := (recs.zip m).map fun x => (live x.1, x.2.toNat)
    let used := (es.filter (·.1)).map (·.2)
    if (es.any fun e => !e.1 && e.2 ≠ 255) || used.any (fun e => decide (depth ≤ e)) || !decide used.Nodup then none
    else some (es.map fun e => if e.1 then some e.2 else none)

/-- For each record, the ABSENT slot of the target with the same STREAM that it takes, lowest phase first. -/
def absentFor (q : Rotation) : List Nat → List (BitVec 32 × Nat) → List (Nat × Nat)
  | _, [] => []
  | used, (stream, ν) :: rest =>
    match (List.range q.depth).find? fun ph => (q.slot ph).status = .absent && (q.slot ph).stream = stream && !used.contains ph with
    | none => absentFor q used rest
    | some ph => (ph, ν) :: absentFor q (ph :: used) rest

/-- Place the records of an image in a rotation (R252). -/
def State.rotPlace (s : State) (r : ResId) (q : Rotation) (slots : List (Slot × Nat)) : State :=
  let moves := absentFor q [] (slots.map fun x => (x.1.stream, x.2))
  let goes (ph : Nat) : Option Nat := (moves.find? fun m => m.1 = ph).map (·.2)
  let s := (List.range q.depth).foldl (fun s ph =>
    if (q.slot ph).status = .absent && (goes ph).isNone then s.stopSlot r q.num ph else s) s
  let s := s.modRes r fun x => { x with binds := x.binds.map fun (b : Nat × Binding) => match b.2.dest with
    | .port _ _ => b
    | .slot rot ph => if rot ≠ q.num then b else match goes ph with
      | none => b
      | some ν => (b.1, { b.2 with dest := .slot rot ν, paused := false }) }
  let slotAt (ν : Nat) : Slot := match slots.find? fun x => x.2 = ν with
    | none => {}
    | some (z, _) => match moves.find? fun m => m.2 = ν with
      | none => z
      | some (ph, _) => { z with queue := (q.slot ph).queue, ctr := (q.slot ph).ctr }
  s.modRot r q.num fun q => { q with slots := (List.range q.depth).map slotAt }

/-- ROT.LOAD with the bytes of its records and of its map, if it has one (R252). -/
def State.rotFill (s : State) (r : ResId) (q : Rotation) (a d : Nat) (bs : List Byte) (map : Option (List Byte)) : Ctl :=
  let len := recordLen q.width
  match s.resolve s.curAgent (a + 64 + d * len) d .w with
  | .error x => .trap s x
  | .ok _ =>
    let recs := (List.range d).map fun i => (bs.drop (i * len)).take len
    let metas := recs.map fun x => lineOf (x.take 64)
    let n := (metas.filter fun l => decide (fldN l 0 3 ≠ 0)).length
    let busy := q.slots.any fun z => z.status = .live || z.status = .held || z.status = .faulted
    if metas.any slotRecBad || q.depth < n || busy then trapWith s .argRange
    else match newPhases metas q.depth map with
      | none => trapWith s .argRange
      | some ns =>
        let slots := ((recs.zip metas).zip ns).filterMap fun x => x.2.map fun ν => (recSlot x.1.2 q x.1.1, ν)
        s.rotWrite (a + 64 + d * len) (ns.map fun x => match x with
          | none => 255
          | some ν => BitVec.ofNat 8 ν) fun s => .retire (s.rotPlace r q slots)
/-- ROT.LOAD behind its header (R252). -/
def State.rotLoad (s : State) (r : ResId) (q : Rotation) (a : Nat) (h : Line) (rb : Word) : Ctl :=
  let d := fldN h 40 9
  s.threadRead (a + 64) (d * recordLen q.width) fun s bs =>
    if rb = 0 then s.rotFill r q a d bs none else s.threadRead rb.toNat d fun s m => s.rotFill r q a d bs (some m)

/-- ROT.LOAD. -/
def execRotLoad (a b : BitVec 5) (n u p : BitVec 3) (s : State) : Out :=
  .next (s.control u p fun s =>
    let ra := s.rd a
    if s.cur.role.isTask then trapWith s .access
    else if fldN ra 0 6 ≠ 0 then trapWith s .misaligned ra
    else s.withRecord ra.toNat 64 fun s bs =>
      let h := lineOf bs
      match s.rotNamed n with
      | none => trapWith s .argRange
      | some (r, q) => if rotHeaderOk q h then s.rotLoad r q ra.toNat h (s.rd b) else trapWith s .argRange)

/-- The counters `n` tokens behind `c`. -/
def skipTokens (p : Line) : Nat → Vector Nat 4 → Vector Nat 4
  | 0, c => c
  | n + 1, c => if patCnt p 0 ≤ vget c 0 then c else skipTokens p n (nextToken p c).1

/-- ROT.CLR (R247). A binding that has gone past the faulted chunk of itself, or one begun elsewhere, is not moved by DROP. -/
def execRotClr (a : BitVec 5) (n u p : BitVec 3) (s : State) : Out :=
  .next (s.control u p fun s =>
    let ra := s.rd a
    if s.cur.role.isTask then trapWith s .access
    else match s.rotNamed n with
      | none => trapWith s .argRange
      | some (r, q) =>
        let ph := fldN ra 0 8
        let z := q.slot ph
        if fldN ra 9 55 ≠ 0 || q.depth ≤ ph || z.status ≠ .faulted then trapWith s .argRange
        else
          let s := if !bitOf ra 8 then s else match z.chunkCtr, s.slotBind r q.num ph with
            | some c, some (_, b) =>
              let due := z.queue.filterMap (·.2) ++ b.spill.map (·.ctr) ++ (b.buf.map (·.ctr)) ++ [b.ctr]
              if due.contains c then s.slotBack r q.num ph (skipTokens b.pat z.chunkLen c) else s
            | _, _ => s
          .retire (s.modSlot r q.num ph fun z => { z with status := .live, fcode := 0, chunkCtr := none, chunkLen := 0 }))

/-- The slot word of Table 11-5. -/
def State.slotWord (s : State) (r : ResId) (q : Rotation) (ph : Nat) : Nat :=
  let z := q.slot ph
  let b := s.slotBind r q.num ph
  statusNum z.status + (if z.inflight then 8 else 0) + (if b.isSome then 16 else 0) +
  (if b.any (fun x => x.2.paused) then 32 else 0) + z.queue.length * 2 ^ 8 + z.fcode.toNat * 2 ^ 16 + z.stream.toNat * 2 ^ 32
/-- The rotation word of Table 11-5. -/
def State.rotWord (s : State) (r : ResId) (q : Rotation) : Nat :=
  q.depth + (q.width - 1) * 2 ^ 9 + (if q.k then 2 ^ 11 else 0) + (q.chunk - 1) * 2 ^ 12 + q.phase * 2 ^ 16 +
  (if q.saving.isSome then 2 ^ 24 else 0) + (if s.portPlane r q.seam = q.plane then 2 ^ 25 else 0) + q.nlive * 2 ^ 26

/-- ROT.STAT (R248). -/
def execRotStat (a b : BitVec 5) (n u p : BitVec 3) (s : State) : Out :=
  .next (s.control u p fun s =>
    let ra := s.rd a
    if s.cur.role.isTask then trapWith s .access
    else match s.rotNamed n with
      | none => trapWith s .argRange
      | some (r, q) =>
        let ph := fldN ra 0 8
        if fldN ra 9 55 ≠ 0 then trapWith s .argRange
        else if bitOf ra 8 then
          if ph ≠ 0 then trapWith s .argRange else .retire (s.wr b (wordN (s.rotWord r q)))
        else if q.depth ≤ ph then trapWith s .argRange
        else .retire (s.wr b (wordN (s.slotWord r q ph))))

end Sys2Proof.Machine
end

