-- ==== Sys2Proof/Machine/Finish.lean ====
section
/-! DEFINITION. Marker cuts complete; residencies retire and their pitches are scrubbed (01 R29; 06 R138; 18 R368;
19 R388; 20 R396-R398). -/

namespace Sys2Proof.Machine

/-! ### Cuts (18 R368, 19 R388) -/

/-- Start a debug cut that waited for an earlier cut of its pitch. -/
def State.startDebugCut (s : State) (r : ResId) : State :=
  match s.front.dbg.cut with
  | none => s
  | some (q, limit, _) =>
    let x := s.res r
    if q = r ∧ x.cut.isNone ∧ x.state = .armed ∧ !x.freed then s.startCut r 0 true limit else s

/-- CUT_COMPLETE: what peers home of a SNAP residency's stores performs there first (17 R357). -/
def execCutComplete (r : ResId) (s : State) : Out :=
  .next (
    if s.front.dbg.frozen then s
    else match (s.res r).cut with
      | none => s.startDebugCut r
      | some c =>
        if !s.cutIsDone r c then s
        else if !c.debug && (s.res r).snap && s.commitOwed (.snap r) then s.commitSend (.snap r) (s.res r).asid
        else (s.completeCut r).startDebugCut r)

/-! ### Retirement (01 R29; 20 R396) -/

/-- Is an EOS token left in the planes a residency uses at an FE? -/
def Fe.hasEos (y : Fe) (x : Residency) : Bool := (List.range 6).any fun k =>
  let p := vget y.planes k
  x.usesPlane k && (p.inp.toList.any (fun q => q.fifo.any fun t => decide (t.kind = 5)) ||
    p.outp.toList.any fun q => q.reg.any fun t => decide (t.kind = 5))

/-- Has every EOS token drained through the graph of a residency? Each FE of its pitch holds no block in its plane, or has
drained; no EOS stands in a port or on its way. -/
def State.eosDrained (s : State) (r : ResId) : Bool :=
  let x := s.res r
  ((pitchFes r x).all fun f =>
    let p := s.plane f (s.portPlane r f)
    (p.blank || p.drained) && !(s.fe f).hasEos x) &&
  (s.latches.all fun l => !(decide (l.1.die = r.die ∧ l.1.p5 = x.urgent) && x.covers l.1.row l.1.col && decide (l.2.kind = 5))) &&
  x.edges.all fun e => e.netq.all fun t => decide (t.kind ≠ 5)

/-- Has every FE of a spliced predecessor passed to its successor? -/
def State.allSwitched (s : State) (r : ResId) : Bool :=
  match (s.res r).successor with
  | none => false
  | some q => decide ((s.res ⟨r.die, q⟩).state = .armed ∨ (s.res ⟨r.die, q⟩).state = .retiring) &&
      (pitchFes r (s.res r)).all fun f => (s.fe f).switched

/-- Has a spliced predecessor no EOS left in the ports of its planes or on the page network? Those on its tracks have reached its FEs
before these pass on. -/
def State.eosGone (s : State) (r : ResId) : Bool :=
  let x := s.res r
  ((pitchFes r x).all fun f => !(s.fe f).hasEos x) && x.edges.all fun e => e.netq.all fun t => decide (t.kind ≠ 5)

/-- No store of a residency's FE ports is left to perform. -/
def State.portsDone (s : State) (r : ResId) : Bool :=
  let x := s.res r
  (pitchFes r x).all fun f => (s.fe f).port.all fun o => !x.usesPlane o.plane

/-- May a residency retire? -/
def State.mayRetire (s : State) (r : ResId) : Bool :=
  let x := s.res r
  s.hasRes r && x.halted && decide (x.tasks = 0) && !x.scrubbing && match x.state with
    | .armed =>
      if x.successor.isSome then s.allSwitched r && (x.freed || s.eosGone r)
      else (x.freed || s.eosDrained r) && s.portsDone r
    | .loaded => x.freed
    | .loading => false
    | .retiring => false

/-- Steps 1 to 4 of Table 20-1: commit, bank write-back, phase record, completion. -/
def State.retireNow (s : State) (r : ResId) : State :=
  let x := s.res r
  let ran := x.state = .armed
  let s := if ran && x.snap && !recGsl x.record then s.commitTent (.snap r) x.asid else s
  let s := if ran && x.successor.isNone then s.writeBackBanks r else s
  let s := if ran then (s.tracePhase r).phaseEnd r 3 s.cyc s.cyc else s
  let s := s.launchDone r.die x.record x.asid x.guard x.status
  s.modRes r fun x => { x with state := .retiring, scrubbing := true, completed := true, cut := none }

/-- A copy with all that it holds due at once. -/
def Tentative.whole (t : Tentative) : Tentative := if t.held.isSome then { t with held := none, late := 0, gone := false } else t
/-- RETIRE: what peers home of a SNAP residency's stores performs there first (17 R357). -/
def execRetire (r : ResId) (s : State) : Out :=
  .next (
    if s.front.dbg.frozen || !s.mayRetire r then s
    else
      let x := s.res r
      let o := TentOwner.snap r
      let s : State := { s with tent := s.tent.map fun t => if t.owner = o then t.whole else t }
      if x.state = .armed && x.snap && !recGsl x.record && s.commitOwed o then s.commitSend o x.asid else s.retireNow r)

/-! ### The scrub (20 R397, R398) -/

/-- Does other work of an ASID remain on a die? -/
def State.asidOnDie (s : State) (die : Nat) (asid : BitVec 16) (r : ResId) : Bool :=
  let x := s.die die
  (x.res.any fun p => decide (p.1 ≠ r.idx ∨ die ≠ r.die) && decide (p.2.asid = asid)) ||
  (s.threads.any fun t => decide (t.1.die = die ∧ t.2.asid = asid) && t.2.role.isTask) ||
  (x.taskq.any fun q => q.2.any fun p => decide (p.asid = asid)) ||
  (x.taskWait.any fun q => q.2.any fun p => decide (p.asid = asid)) ||
  (x.guards.toList.any fun g => g.any fun g => decide (g.asid = asid)) ||
  s.tags.any fun t => decide (t.2 = 2 ∧ (s.slot t.1).1 = die ∧ cellAsid 2 (s.line t.1) = asid)

/-- A poisoned line met by the walk is counted. -/
def State.countWalked (s : State) (die : Nat) : State := (s.count die 1 1).count die 18 1
/-- A line met by the walk of step 6: one both dirty and poisoned goes back to what was last written back, poisoned
if that was (R262). -/
def State.walkLine (s : State) (die : Nat) (x : L2Line) : State :=
  if !s.poisoned x.line then s
  else
    let s := s.countWalked die
    if x.dirty then ({ s with mem := s.mem.writeBytes (x.line * 64) (lineBytes x.backing) }).setPoison x.line x.backPoison else s

/-- Step 6 on a die: L2 and RDC lines owned by the ASID are written back or dropped, a poisoned one counted. Tentative copies stand apart from
the lines and are not walked, nor is a GROWING line. -/
def State.walkDie (s : State) (die : Nat) (asid : BitVec 16) : State :=
  let gone (x : L2Line) : Bool := decide (x.owner = asid ∧ s.tag x.line ≠ 2)
  let lines := s.l2.flatMap fun (p : (Nat × Nat) × List L2Line) => if p.1.1 = die then p.2.filter gone else []
  let owned (c : RdcLine) : Bool := decide (c.die = die ∧ c.owner = asid)
  let s := (s.rdc.filter fun c => owned c && c.poison).foldl (fun s _ => s.countWalked die) s
  let s := lines.foldl (fun s x => s.walkLine die x) s
  { s with l2 := s.l2.map fun (p : (Nat × Nat) × List L2Line) => if p.1.1 = die then (p.1, p.2.filter fun x => !gone x) else p
           rdc := s.rdc.filter fun c => !owned c && !(lines.any fun x => decide (x.line = c.line) && c.peer.isNone) }

/-- Engine commands of a residency that threads still hold are removed (Table 20-2 step 1). -/
def State.dropCommands (s : State) (r : ResId) : State :=
  let mine (c : EngineCmd) : Bool := decide (c.res = some r)
  let gone := s.threads.flatMap fun (p : ThreadId × Thread) =>
    ([Unit3.se, .tf, .ce].flatMap fun u => ((unitQueue u p.2).waiting ++ (unitQueue u p.2).running).filterMap fun c =>
      if mine c then some (Requester.engine p.1 u c.seq) else none)
  let s := gone.foldl (fun s q => s.unparkWho q) s
  let trim (q : EngineQueue) : EngineQueue := { waiting := q.waiting.filter fun c => !mine c, running := q.running.filter fun c => !mine c }
  { s with threads := s.threads.map fun (p : ThreadId × Thread) =>
      (p.1, { p.2 with se := trim p.2.se, tf := trim p.2.tf, ce := trim p.2.ce }) }

/-- Is a report of a residency due and not posted (18 R365)? -/
def State.reportDue (s : State) (r : ResId) : Bool :=
  (s.die r.die).frq.due.any fun x => decide (x.2.1 = 0 ∧ fldN (vget x.1 7) 8 8 = r.idx)

/-- A spliced predecessor, or a successor that never armed, leaves the pitch to the other (06 R138). -/
def State.leavePitch (s : State) (r : ResId) : State :=
  let x := s.res r
  match x.successor, x.predecessor with
  | some q, _ =>
    let s := s.modRes ⟨r.die, q⟩ fun z => { z with predecessor := none }
    let s := x.pins.foldl (fun s l => s.unpin (some r) l) s
    let pages := (s.die r.die).pages
    let s := s.freePitch r
    let now (k : Fin 48) : PageEntry :=
      if x.pages.contains k.val then { vget pages k.val with res := BitVec.ofNat 8 q } else vget pages k.val
    s.modDie r.die fun d => { d with pages := Vector.ofFn now }
  | none, some p =>
    let s := s.modRes ⟨r.die, p⟩ fun z => { z with successor := none, lent := [] }
    let s := (pitchFes r x).foldl (fun s f => s.modFe f fun y =>
      { y with planes := x.image.planes.foldl (fun v k => vset v k {}) y.planes }) s
    let pages := (s.die r.die).pages
    (s.freePitch r).modDie r.die fun d => { d with pages }
  | none, none => s

/-- The scrub of a pitch that no other residency shares. -/
def State.scrub (s : State) (r : ResId) : State :=
  let x := s.res r
  let s := (s.dropCommands r).wipe r
  let s := s.liveDies.foldl (fun s d => if s.asidOnDie d x.asid r then s else s.walkDie d x.asid) s
  (s.audit 0x0003 x.asid (BitVec.ofNat 32 (r.die + r.idx * 2 ^ 8)) 0).freePitch r

/-- SCRUB_COMPLETE: not before the reports are posted, nor while a spliced predecessor still holds the pitch. -/
def execScrubComplete (r : ResId) (s : State) : Out :=
  .next (
    let x := s.res r
    if !s.hasRes r || !x.scrubbing || s.reportDue r || s.front.dbg.frozen then s
    else if x.successor.isSome then s.leavePitch r
    else match x.predecessor with
      | none => s.scrub r
      | some _ => if x.classLeave = 0 then s.leavePitch r else s)

end Sys2Proof.Machine
end

