-- ==== Sys2Proof/Machine/Preempt.lean ====
section
/-! DEFINITION. Ending a residency at once, and pre-emption: the request, its phases, the save and the escalation
(18 R370-R374, R378; 21 R421; 08 R161). -/

namespace Sys2Proof.Machine

/-! ### Ending a residency at once (18 R367, R372, R378; 21 Table 21-6) -/

/-- A thread ends where it stands: its buffered stores perform, or are dropped with all that came after a rollback, and its engine
commands are discarded. -/
def State.cutThread (s : State) (t : ThreadId) (drop : Bool) : State :=
  let s := s.giveUp t
  (if drop then s else s.drain t).modThr t fun x => { x.scrubbed with se := {}, tf := {}, ce := {} }

/-- The report of a residency that the CP or the host ended, or whose pre-emption was not made (Table 18-3). -/
def State.cpReport (s : State) (r : ResId) (code : Code) (elapsed : Nat) : State :=
  s.frqDue r.die (rec8 [wordN (codeNum code), 0, wordN elapsed, 0, 0, 0, 0, originWord r.die 0 r.idx (s.res r).asid 0 0]) 0 none

/-- End a residency at once with a status: its threads end where they stand, its work is discarded as `CFG.FREE` discards
it, it never arms if it has not. -/
def State.killRes (s : State) (r : ResId) (status : Nat) (drop : Bool := false) : State :=
  let s := (s.threadsOf r).foldl (fun s t => s.cutThread t drop) s
  let s := (s.dropCommands r).endRes r status
  let s := if (s.res r).state = .armed then s else s.dropArm r
  let keep (p : Packet) : Bool := decide (p.owner ≠ some r)
  let s := (List.range 4).foldl (fun s k => s.modDie k fun d =>
    { d with taskq := d.taskq.map fun q => (q.1, q.2.filter keep), taskWait := d.taskWait.map fun q => (q.1, q.2.filter keep) }) s
  s.modRes r fun x => { x with status, tasks := 0, halted := true, thread := none, threadDue := false, early := []
                               preempt := none, freeze := 0, gang := .none }

/-- A gang abort ends a member with status 12, a SNAP member after a rollback, which leaves memory holding the committed state of the
last complete cut (R378). -/
def State.gangAbort (s : State) (r : ResId) : State :=
  let snap := (s.res r).snap
  let s := if snap then s.rollback r else s
  (s.cpReport r .gangPeerLost 0).killRes r 12 snap

/-! ### What is saved (R371, R373) -/

/-- A binding `k` as it is saved: what it read ahead is dropped; its owner is no thread yet (thread number 8), its command one of the
control thread's, with no push of a task that has halted. -/
def Binding.savedAs (b : Binding) (t : Option ThreadId) (n k : Nat) : Binding :=
  let own := decide (t = some b.owner)
  let cmd := if own then b.cmd else { b.cmd with seq := n + k, push := 0 }
  let b := { b with owner := { b.owner with tid := 8 }, atBoundary := true, cmd }
  if b.kind = .input then b.rewound b.undelivered else b
/-- An FE as it is saved: no pin, and accesses that waited for the host issue again. -/
def Fe.savedAs (y : Fe) : Fe :=
  { y with tiles := y.tiles.map fun t => { t with pins := [] }
           port := y.port.map fun o => if o.stage = .reached then o else { o with stage := .issued, since := none, post := none } }
/-- A control thread as it is saved: it repeats the instruction it waited in; WAITQ keeps its count (08 R172). `k` numbers of commands are
those of its tasks' bindings. -/
def Thread.savedAs (x : Thread) (cyc k : Nat) : Thread :=
  let waitq := x.status = .stalled && match decodeControl x.word with
    | .ok (.waitq _ _ _) => true
    | _ => false
  let n := x.waitFrom.map fun c => cyc - c
  { x.resetWait with status := .saved, paused := none, waitFrom := if waitq then n else none, cmdSeq := x.cmdSeq + k }

/-- What a save keeps of a residency, under a key: its registers and its thread, and what stands in its pitch beside its FEs. A switch that
the sequencer has asked for, and a marker cut in progress, go on when the residency does (R374). -/
def State.saveOf (s : State) (r : ResId) (key : Nat) : Saved :=
  let x := s.res r
  let area := (mapFind s.ctxAreas x.asid).getD (0, 0)
  let n := ((x.thread.map s.thr).map (·.cmdSeq)).getD 0
  let bind (b : Nat × Binding) : Nat × Binding := (b.1, b.2.savedAs x.thread n b.1)
  let cut : Option Cut := (x.cut.filter fun c => !c.debug).map fun c => { c with made := c.made.map bind }
  { key, addr := area.1
    thread := x.thread.map fun t => (s.thr t).savedAs s.cyc (x.nextBind + 1)
    res := { x with thread := none, threadDue := false, preempt := none, classLeave := 0
                    switch := x.switch.filter fun w => w.asker.isNone
                    binds := x.binds.map bind, cutBinds := x.cutBinds.map bind, cut, pins := [] }
    fes := (pitchFes r x).map fun f => (f, (s.fe f).savedAs)
    islands := s.islands.filter fun p => x.ownsSite r.die p.1
    routes := s.routes.filter fun p => x.ownsSite r.die p.1
    latches := s.latches.filter fun p => decide (p.1.die = r.die ∧ p.1.p5 = false) && x.covers p.1.row p.1.col
    lmem := (pitchFes r x).map fun f => (f, s.lmem.readBytes (feBase f) 131072) }

/-- The parts of a context behind its header, each from a 64-byte boundary on (Table 18-5): rotations as images with the identity map
(11 R249, R253). -/
def State.saveBody (s : State) (r : ResId) (v : Saved) : List Byte :=
  let x := v.res
  let pad (bs : List Byte) : List Byte := padTo (round64 bs.length) bs
  let scratch (f : FeId) : List Byte := ((v.lmem.find? fun y => y.1 = f).map (·.2)).getD []
  lineBytes x.record ++ ((v.thread.map Thread.context).getD (List.replicate 4096 0)) ++
  pad (x.binds.flatMap fun b => b.2.context x) ++ pad (v.fes.flatMap fun f => f.2.context (scratch f.1)) ++
  pad (s.islandContext r.die x) ++ pad (x.edges.flatMap s.edgeContext) ++
  x.rots.flatMap fun q => pad (s.rotImage r q ++ (List.range q.depth).map fun k => BitVec.ofNat 8 k)
/-- The size of a residency's saved context (Table 18-5). -/
def State.saveLen (s : State) (r : ResId) : Nat := 128 + (s.saveBody r (s.saveOf r 0)).length

/-- The header (Table 18-6) of a context of `n` bytes in all. -/
def State.saveHeader (s : State) (r : ResId) (n : Nat) : List Byte :=
  let x := s.res r
  lineBytes (lineFields
    [(0, 32, 0x58544E43), (32, 8, 1), (40, 3, x.h), (43, 4, x.w), (47, 1, if x.snap then 1 else 0), (48, 5, x.freeze), (64, 64, n),
     (128, 32, x.binds.length), (160, 32, (x.edges.filter fun e => !(s.edgeTokens e).isEmpty).length)]) ++ List.replicate 64 0
/-- The saved context of a residency: header and parts. -/
def State.saveBytes (s : State) (r : ResId) (v : Saved) : List Byte :=
  let body := s.saveBody r v
  s.saveHeader r (128 + body.length) ++ body

/-! ### The request (R370) -/

/-- Is a residency one that is never pre-empted? -/
def Residency.exempt (x : Residency) : Bool := x.urgent || recGsl x.record || x.gang = .running

/-- Ask for a pre-emption: not made when the context area is too small, which is reported. -/
def State.askPreempt (s : State) (r : ResId) : State :=
  let x := s.res r
  let room := ((mapFind s.ctxAreas x.asid).map (·.2)).getD 0
  if x.exempt || x.preempt.isSome || x.state ≠ .armed || x.freed then s
  else if room < s.saveLen r then s.cpReport r .overrun 0
  else s.modRes r fun x => { x with preempt := some (s.cyc, 1), preemptCount := (s.cyc, 0) }

/-- The residencies an aged record's reservation pre-empts, in table order, from index `n` on. -/
def Die.reservedHolders (x : Die) (k p b g n : Nat) : List Nat :=
  let l := (x.recAt (k, p)).record
  let mine := rectPages b g (recH l) (recW l)
  (List.range 48).filter fun i => decide (n ≤ i) && match mapFind x.res i with
    | none => false
    | some y => decide (y.state = .armed ∧ recPrio l < y.prio) && !y.exempt && y.pages.any fun q => mine.contains q

/-- The CP pre-empts one residency at a time for the reservation of a die (R370). -/
def State.agedPreempt (s : State) (die : Nat) : State :=
  match (s.die die).reservation with
  | none => s
  | some (k, p, b, g, n) =>
    if (s.die die).res.any fun q => q.2.preempt.isSome || (q.2.state = .retiring) then s
    else match (s.die die).reservedHolders k p b g n with
      | [] => s
      | i :: _ => (s.modDie die fun d => { d with reservation := some (k, p, b, g, i + 1) }).askPreempt ⟨die, i⟩

/-- RECORD_AGED (R161): the record is aged; it may hold the die's reservation; the CP pre-empts for it. -/
def execRecordAged (die queue pos : Nat) (s : State) : Out :=
  .next (
    let x := s.die die
    let q := x.recAt (queue, pos)
    if s.front.dbg.frozen || queue < 4 || !q.eligible then s
    else
      let age (y : QRec × Nat) : QRec := if y.2 = pos then { y.1 with aged := true } else y.1
      let s := if q.old s.cyc then s.modDie die fun d => { d with queues := vmod d.queues queue fun l => l.zipIdx.map age } else s
      (s.modDie die Die.reserve).agedPreempt die)

/-! ### Phases 1 and 2 (R371) -/

/-- Has every input binding stopped at a boundary? One of a slot stops between two tokens. -/
def Residency.stopped (x : Residency) : Bool := x.binds.all fun b =>
  decide (b.2.kind ≠ .input) || b.2.atBoundary || !b.2.toPort

/-- Can no token of a residency move, and is no credit on its way? -/
def State.tokensRest (s : State) (r : ResId) : Bool :=
  let x := s.res r
  ((pitchFes r x).all fun f => (List.range 8).all fun k =>
    decide (s.hopOut f k = s) && decide ((vget (s.plane f (s.portPlane r f)).inp k).owed = 0)) &&
  (s.latches.all fun l => !(decide (l.1.die = r.die ∧ l.1.p5 = x.urgent) && x.covers l.1.row l.1.col) || decide (s.hopTrack l.1 = s)) &&
  x.edges.all fun e => decide (s.hopNet r e.key = s)

/-- Is a rotation at rest: nothing in flight, no chunk to enter, no token of its port pK that can move? -/
def State.rotRests (s : State) (r : ResId) (q : Rotation) : Bool :=
  let pk (s : State) : Nat := (vget (s.plane q.seam q.plane).inp q.pk).fifo.length
  q.saving.isNone && q.notices.isEmpty && (q.slots.all fun z => z.atRest q.chunk) && pk (s.pkToken r q.num q.pk) = pk s

/-- Have the output bindings stored what has reached them? -/
def State.outputsRest (s : State) (r : ResId) : Bool := (s.res r).binds.all fun b =>
  decide (b.2.kind = .input) || (b.2.stores.isEmpty && match b.2.dest with
    | .port f p => (vget (s.plane f (s.portPlane r f)).outp p).reg.isEmpty
    | .slot _ _ => true)

/-- Does the pitch run nothing and can it start nothing? -/
def State.pitchRests (s : State) (r : ResId) : Bool :=
  let x := s.res r
  ((pitchFes r x).all fun f =>
    let y := s.fe f
    y.firing.isNone && y.mtu.isNone && y.mtuOut.isEmpty && y.port.isEmpty && !s.canStart f && y.nextEntry.isNone) &&
  s.tokensRest r && (x.rots.all fun q => s.rotRests r q) && s.outputsRest r

/-- Does a residency share its pitch by a splice that is pending? -/
def Residency.spliced (x : Residency) : Bool := x.successor.isSome || x.predecessor.isSome
/-- Is a thread at an instruction boundary, or in a wait that has done nothing yet: no part of a `KVT` made, no peer asked, no value to take
that a parked access has brought (R371 phase 3)? -/
def State.atBoundary (s : State) (t : ThreadId) : Bool :=
  (s.thr t).stage < 2 && (s.thr t).ending.isNone && !(s.returns.any fun y => decide (y.1 = .thread t)) &&
  !s.sent.any fun x => decide (x.who = some (.thread t)) && !x.answered
/-- What a save waits for in every case, and what a frozen pitch's or an escalated one's alone waits for: no page paused, no switch in its
four cycles, the control thread at a boundary, no value that a port has yet to take; and no splice pending: the manual does not say how
one of the two residencies of a splice is saved, and here the save waits until the splice is over (DESIGN CHOICE, log entry 39). -/
def State.saveable (s : State) (r : ResId) : Bool :=
  let x := s.res r
  let taken (q : Requester) : Bool := match q with
    | .thread _ => true
    | .fePort f _ => decide (f.die ≠ r.die) || !x.pages.contains f.page
    | .engine _ _ _ => true
    | .binding _ _ _ => true
  !s.pitchPaused r && !x.spliced && (x.switch.all fun w => w.ready.isNone) && x.thread.all s.atBoundary &&
  s.returns.all fun y => taken y.1
/-- What the drain of phase 2 waits for beside the rest of the pitch: tasks halted, commands that have started and bind no stream
complete, no access of an FE port issued (R371). -/
def State.drainedOut (s : State) (r : ResId) : Bool :=
  let x := s.res r
  let busy (q : EngineQueue) : Bool := q.running.any fun c => !c.op.binds || c.done
  decide (x.tasks = 0) && x.switch.isNone &&
  ((s.threadsOf r).all fun t => !busy (s.thr t).se && !busy (s.thr t).tf && !busy (s.thr t).ce) &&
  (pitchFes r x).all fun f => (s.fe f).port.all fun o => decide (o.stage ≠ .issued)

/-! ### The save (R371, R373) -/

/-- A key that names a saved residency's tentative copies until it has an index again. -/
def Die.saveKey (x : Die) : Nat := x.saved.foldl (fun m v => max m (v.key + 1)) 48

/-- Save a residency and release its pitch (R371 phases 3 to 5): the scrub that follows frees the pages and the leave. -/
def State.saveRes (s : State) (r : ResId) : State :=
  let t := (s.res r).thread
  let s := match t with
    | none => s
    | some t => (s.giveUp t).drain t
  if t.any fun t => !s.drained t then s
  else
    let s := (s.dropReplays r).writeBackBanks r
    let s := (s.res r).binds.foldl (fun s b => b.2.spill.foldl (fun s p => s.unparkWho (.binding r b.1 (patElem b.2.pat p.ctr))) s) s
    let s := (pitchFes r (s.res r)).foldl (fun s f => (s.fe f).port.foldl (fun s o => s.unparkWho (.fePort f o.id)) s) s
    let key := (s.die r.die).saveKey
    let v := s.saveOf r key
    let s := s.physWrite v.addr ((s.saveBytes r v).take (((mapFind s.ctxAreas (s.res r).asid).map (·.2)).getD 0))
    let s := match t with
      | none => s
      | some t => s.modThr t fun x => { x.scrubbed with se := {}, tf := {}, ce := {} }
    let s := (s.renameRes r ⟨r.die, key⟩).modDie r.die fun d => { d with saved := d.saved ++ [v] }
    s.modRes r fun x => { x with
      state := .retiring, scrubbing := true, binds := [], thread := none, threadDue := false, halted := true, snap := false
      preempt := none, switch := none, edges := x.edges.map fun e => { e with netq := [] }
      rots := [], tasks := 0 }

/-! ### The course of a pre-emption (R371, R372) -/

/-- Has phase 1 or 2 lasted longer than MAXOUTER counted cycles? With MAXOUTER 0 every pre-emption escalates at once (R372). A frozen pitch
has no such phase that could last. -/
def State.escalates (s : State) (r : ResId) : Bool :=
  let x := s.res r
  x.preempt.any fun p => decide (p.2 ≤ 2) &&
    (decide (x.maxouter = 0) || decide (x.freeze = 0 ∧ x.maxouter < x.preemptCount.2 + (s.cyc - x.preemptCount.1)))
/-- The escalation: a SNAP residency is rolled back at once, and saved as soon as phase 3 lets it; any other is ended with a report. -/
def State.escalate (s : State) (r : ResId) (c : Nat) : State :=
  if !(s.res r).snap then (s.cpReport r .overrun (s.cyc - c)).killRes r (codeNum .overrun + 0x100)
  else if (s.res r).spliced then s
  else
    let s := (s.rollback r).modRes r fun x => { x with
      preempt := some (c, 3), binds := x.binds.map fun b => (b.1, { b.2 with atBoundary := true }) }
    if s.saveable r then s.saveRes r else s

/-- PREEMPT_SAVE: phase 1 ends, phase 2 ends, or the context is saved; a frozen pitch is saved as it stands. -/
def execPreemptSave (r : ResId) (s : State) : Out :=
  .next (
    let x := s.res r
    if s.front.dbg.frozen || x.freed || x.state ≠ .armed then s
    else match x.preempt with
      | none => s
      | some (c, ph) =>
        let go (k : Nat) : State := s.modRes r fun x => { x with preempt := some (c, k), preemptCount := (s.cyc, 0) }
        if s.escalates r then if s.pitchPaused r then s else s.escalate r c
        else if x.freeze = 0 && ph = 1 then if x.stopped && !s.pitchPaused r then go 2 else s
        else if x.freeze = 0 && ph = 2 && !(s.pitchRests r && s.drainedOut r) then s
        else if s.saveable r then s.saveRes r else s)

/-- PREEMPT_ESCALATE (R372): phase 1 or 2 has lasted longer than MAXOUTER counted cycles. -/
def execPreemptEscalate (r : ResId) (s : State) : Out :=
  .next (
    let x := s.res r
    if s.front.dbg.frozen || x.freed || x.state ≠ .armed || s.pitchPaused r || !s.escalates r then s
    else match x.preempt with
      | none => s
      | some (c, _) => s.escalate r c)

end Sys2Proof.Machine
end

