-- ==== Sys2Proof/Machine/Freeze.lean ====
section
/-! DEFINITION. The freeze and the resume, steps, debug cuts withdrawn, triggers, capture packets, and the host's writes of
BAR0 registers (19 R380-R391, R395; 21 R405, R420). -/

namespace Sys2Proof.Machine

def State.modDbg (s : State) (f : Debug → Debug) : State := { s with front := { s.front with dbg := f s.front.dbg } }

/-! ### Freeze and resume (R383, R387) -/

/-- DEVICE_FREEZE: at C + 96 every unit stops. -/
def execDeviceFreeze (s : State) : Out :=
  .next (match s.front.dbg.freezeAt with
    | none => s
    | some c =>
      if s.front.dbg.frozen || s.cyc < c + 96 then s
      else (s.modDbg fun d => { d with frozen := true, frozenFrom := c + 96, freezeAt := none }).irq 10)

/-- Undo what a debug cut holds: FEs and output bindings go on (R388). -/
def State.dropDebugCut (s : State) : State :=
  let fe (x : Fe) : Fe := match x.cutTaken with
    | some (_, true) => { x with cutTaken := none }
    | _ => x
  let bind (b : Binding) : Binding :=
    { b with markDue := b.markDue.filter fun m => !m.2, paused := b.paused && b.kind = .input }
  let res (x : Residency) : Residency := { x with binds := x.binds.map fun b => (b.1, bind b.2), cut := x.cut.filter fun c => !c.debug }
  { s with fes := s.fes.map fun p => (p.1, fe p.2)
           dies := s.dies.map fun d => { d with res := d.res.map fun p => (p.1, res p.2) } }

/-- Grant the send allowances that the freeze withheld (R385). -/
def ZPort.granted (z : ZPort) (now : Nat) : ZPort :=
  let owed (k : Nat) (c : LinkChan) : List (Nat × LinkMsg) :=
    if vget z.withheld k = 0 then [] else [(now, .allowance c (vget z.withheld k))]
  { z with outq := z.outq ++ owed 0 .req ++ owed 1 .rsp ++ owed 2 .inv ++ owed 3 .ctl, withheld := .replicate 4 0 }

/-- DEVICE_RESUME: at R + 96 every unit restarts as it stopped; frozen cycles count for nothing (R384, R387). -/
def execDeviceResume (s : State) : Out :=
  .next (match s.front.dbg.resumeAt with
    | none => s
    | some c =>
      if !s.front.dbg.frozen || s.cyc < c + 96 then s
      else
        let g := movedOn s.front.dbg.frozenFrom s.cyc
        let s := (s.shiftAll g).modDbg fun d => { d with
          frozen := false, resumeAt := none, stepwait := d.stepwait, hits := 0, stopped := [], hitAt := [], step := none
          cut := d.cut.map fun x => (x.1, x.2.1, g x.2.2) }
        let s := { s with front := { s.front with zports := s.front.zports.map fun (z : ZPort) => z.granted s.cyc } }
        let s := if s.front.dbg.cut.isNone then s.dropDebugCut else s
        (s.allRes.filter fun p => p.2.gangLost).foldl (fun s p => s.gangAbort p.1) s)

/-- STEP_TIMEOUT: a step still stalled after 4,096 cycles ends (R387). -/
def execStepTimeout (s : State) : Out :=
  .next (match s.front.dbg.step with
    | none => s
    | some (t, c, _) =>
      if s.cyc < c + 4096 || (s.thr t).status ≠ .stalled then s
      else (s.modDbg fun d => { d with step := none, stepwait := true }).irq 10)

/-- DEBUG_CUT_WITHDRAW: a debug cut that has reached its limit is withdrawn; its MARKs are discarded at the ports they reach
(R388). -/
def execDebugCutWithdraw (s : State) : Out :=
  .next (match s.front.dbg.cut with
    | none => s
    | some (_, limit, since) =>
      if s.front.dbg.frozen || s.cyc < since + limit then s
      else (s.modDbg fun d => { d with cut := none, cutwd := true }).dropDebugCut)

/-! ### Triggers (R389) -/

/-- The capture actions of triggers that take effect together: of START and STOP, STOP wins. -/
def applyCapture (ts : List Trigger) (x : Trace) : Trace :=
  let stops := ts.filter fun t => t.action = 1
  if !stops.isEmpty then { x with log := stops.map (fun t => (false, t.filter)) ++ x.log }
  else
    let starts := ts.filter fun t => t.action = 0
    if starts.isEmpty then x else { x with log := starts.map (fun t => (true, t.filter)) ++ x.log, stopped := false }

/-- Trace a trigger on a die (Table 19-2 class 5). -/
def State.traceTrigger (s : State) (d : Nat) (t : Trigger) : State :=
  s.traceRec d 5 t.filter.asid t.filter.res false 0 0 0 (wordN t.action) (wordN t.origin)

/-- TRIGGER_APPLY: the triggers of the earliest origin take effect at O + 96; of FREEZE and RESUME, FREEZE wins. -/
def execTriggerApply (s : State) : Out :=
  .next (match s.front.triggers with
    | [] => s
    | t0 :: rest =>
      let o := rest.foldl (fun m t => min m t.origin) t0.origin
      if s.cyc < o + 96 then s
      else
        let ts := s.front.triggers.filter fun t => t.origin = o
        let s := { s with front := { s.front with triggers := s.front.triggers.filter fun t => t.origin ≠ o } }
        let s := { s with dies := s.dies.map fun d => { d with trace := applyCapture ts d.trace } }
        let s := ts.foldl (fun s t => s.liveDies.foldl (fun s d => s.traceTrigger d t) s) s
        if ts.any fun t => t.action = 2 then s.startFreeze o none
        else if (ts.any fun t => t.action = 3) && s.front.dbg.frozen then s.modDbg fun d => { d with resumeAt := some o }
        else s)

/-- CAPTURE_PACKET_HEAD: a capture packet at the head of its queue acts and is gone (R391). -/
def execCapturePacketHead (die queue : Nat) (s : State) : Out :=
  .next (if s.front.dbg.frozen then s else s.captureHead die queue)

/-! ### Registers (R380, R395; 21 R405, Table 21-5) -/

/-- DBGSTAT (Table 19-4). -/
def State.dbgstat (s : State) : BitVec 64 :=
  let d := s.front.dbg
  let b (x : Bool) : Nat := if x then 1 else 0
  BitVec.ofNat 64 (b d.frozen + b d.stepwait * 2 + b d.cut.isSome * 4 + b d.cutwd * 8 + d.first % 16 * 2 ^ 4 + b d.firstV * 2 ^ 8 +
    d.hits.toNat * 2 ^ 16 + d.badbp.toNat * 2 ^ 32)

/-- DBGSTAT_CLEAR: a 1 clears STEPWAIT, CUTWD and bits of BADBP. A write that its stream does not carry, and any in recovery, reaches no
register (21 R407, R415). -/
def execDbgstatClear (w : Via × BitVec 64) (s : State) : Out :=
  .next (if !s.hostReaches w.1 then s
    else s.modDbg fun d => { d with
      stepwait := d.stepwait && !bitOf w.2 1, cutwd := d.cutwd && !bitOf w.2 3, badbp := d.badbp &&& ~~~(fld w.2 32 16) })

/-- An entry as its register keeps it: reserved fields read as zero (00 R8, Table 19-1). -/
def bpKept (e : BitVec 256) : BitVec 256 :=
  BitVec.ofNat 256 (fldN e 0 38 + fldN e 64 32 * 2 ^ 64 + fldN e 128 70 * 2 ^ 128)
/-- Is an entry, as written, in breach of Table 19-1: a field that must be zero is not, or its kind's fields are out of range? -/
def bpBreach (e : BitVec 256) : Bool := e ≠ bpKept e || (fldN e 0 2 ≠ 0 && !bpValid e)

/-- BREAKPOINT_WRITE: an enabled entry that breaks Table 19-1 is ignored and marked; a watch takes the translation of ADDR
as it is enabled, and none of a peer's line performs at home here (R380, R382). -/
def execBreakpointWrite (at_ : Via × Nat) (e : BitVec 256) (s : State) : Out :=
  .next (
    let n := at_.2
    if 16 ≤ n || !s.hostReaches at_.1 then s
    else
      let bit := BitVec.ofNat 16 (2 ^ n)
      let bad := bitOf e 2 && bpBreach e
      let pa : Option Nat := if bpArmed e && fldN e 0 2 = 3 then (match s.walk (fld e 6 16) (fldN e 128 64) with
        | .ok w => if w.leaf.p then none else some w.leaf.pa
        | .error _ => none) else none
      s.modDbg fun d => { d with
        bps := vset d.bps n (bpKept e)
        badbp := if bad then d.badbp ||| bit else d.badbp
        ignored := if bpBreach e then d.ignored ||| bit else d.ignored &&& ~~~bit
        watchPa := match pa with
          | some a => mapSet d.watchPa n a
          | none => mapErase d.watchPa n })

/-- A write of a BAR0 register that has no behaviour of its own: it keeps the bits it has, and a read-only one ignores the write (00 R7, R8). -/
def State.barWrite (s : State) (reg : BarReg) (v : BitVec 64) : State := match reg with
  | .hcqBase => { s with front := { s.front with hcqBase := BitVec.ofNat 64 (fldN v 12 43 * 2 ^ 12) } }
  | .hcqSize => { s with front := { s.front with hcqSize := BitVec.ofNat 64 (fldN v 0 4) } }
  | .hcqProd => { s with front := { s.front with hcqProd := fld v 0 32 } }
  | .hwin => { s with front := { s.front with hwin := BitVec.ofNat 64 (fldN v 36 28 * 2 ^ 36) } }
  | .msixEnable fn => { s with front := { s.front with msixOn := vset s.front.msixOn fn (bitOf v 0) } }
  | .msixEntry k high =>
    let put (x : BitVec 128) : BitVec 128 := if high then v ++ fld x 0 64 else fld x 64 64 ++ v
    { s with front := { s.front with msixTable := vmod s.front.msixTable k put } }
  | .recovery k => { s with front := { s.front with recoveryRegs := mapSet s.front.recoveryRegs k v } }
  | .hcqCons => s
  | .pwrstat => s
  | .auditHead => s
  | .frqProd _ => s
  | .frqBase die => s.modDie die fun d => { d with frq := { d.frq with base := BitVec.ofNat 64 (fldN v 14 41 * 2 ^ 14) } }

/-- Is a register one of those that respond in recovery (21 R415)? -/
def answersInRecovery : BarReg → Bool
  | .recovery _ => true
  | .hcqBase | .hcqSize | .hcqProd | .hwin | .frqBase _ | .msixEnable _ | .msixEntry _ _ => false
  | .hcqCons | .pwrstat | .auditHead | .frqProd _ => false

/-- REGISTER_WRITE: nothing is written by a stream that carries no host access, nor in recovery but the recovery registers (21 R407,
R415), whose number and fields the manual does not give: each keeps what is written (DESIGN CHOICE, log entry 84). -/
def execRegisterWrite (reg : Via × BarReg) (v : BitVec 64) (s : State) : Out :=
  .next (if s.hostReaches reg.1 || (s.carries reg.1 && answersInRecovery reg.2) then s.barWrite reg.2 v else s)

end Sys2Proof.Machine
end

