-- ==== Sys2Proof/Machine/Frq.lean ====
section
/-! DEFINITION. The fault record queue of a die: posts, the host's answers, and the errors that lose unit state
(18 R364-R367). -/

namespace Sys2Proof.Machine

/-! ### Posts (R365) -/

/-- Free entries; none while CONS is out of range, and posting stops. -/
def Frq.free (q : Frq) : Option Nat :=
  let used := (q.prod - q.cons).toNat
  if 256 < used then none else some (256 - used)

/-- Write an entry, then add 1 to PROD and raise the die's interrupt; word 6 of a replayable entry is its number. -/
def State.frqWrite (s : State) (die : Nat) (words : Rec8) (cls : Nat) (src : Option Requester) : State :=
  let q := (s.die die).frq
  let words := if cls = 1 then vset words 6 (wordN q.prod.toNat) else words
  let s := s.physWrite (q.base.toNat + 64 * (q.prod.toNat % 256)) (lineBytes (recLine words))
  let s := s.modDie die fun d => { d with frq := { d.frq with
    prod := d.frq.prod + 1
    waiting := match src with
      | none => d.frq.waiting
      | some w => if cls = 1 then d.frq.waiting ++ [{ post := q.prod.toNat, words, src := w }] else d.frq.waiting } }
  s.irq (1 + die)

/-- A fatal record that finds the queue full. -/
def State.frqLost (s : State) (die : Nat) (words : Rec8) : State :=
  let q := (s.die die).frq
  let code := fldN (vget words 0) 0 16
  let s := s.modDie die fun d => { d with frq := { d.frq with
    ovf := true, lost := min (d.frq.lost + 1) 65535, first := if d.frq.ovf then d.frq.first else BitVec.ofNat 16 code } }
  let s := s.irq (5 + die)
  if q.ovf then s else s.audit 0x0006 (fld (vget words 7) 16 16) (BitVec.ofNat 32 code) 0

/-- FRQ_POST: the oldest record due that has room, or a fatal one that has none. -/
def execFrqPost (die : Nat) (s : State) : Out :=
  .next (
    let q := (s.die die).frq
    let drop (s : State) (i : Nat) : State := s.modDie die fun d => { d with frq := { d.frq with due := d.frq.due.eraseIdx i } }
    match if s.front.dbg.frozen then none else q.free with
    | none => s
    | some n => match q.due.zipIdx.find? fun x => decide (x.1.2.1 = 2 ∨ 4 < n) with
      | none => s
      | some ((w, c, src), i) => if n = 0 then (drop s i).frqLost die w else (drop s i).frqWrite die w c src)

/-! ### Answers (R366), by registers of BAR0 (21 R405, R407, R415) -/

/-- The record that a response names is answered. -/
def State.frqAnswered (s : State) (die post : Nat) : State :=
  s.modDie die fun d => { d with frq := { d.frq with waiting := d.frq.waiting.filter fun w => decide (w.post ≠ post) } }
def State.frqNamed (s : State) (die post : Nat) : Option Waiting := (s.die die).frq.waiting.find? fun w => w.post = post

/-- The access an FE's port holds under a number. -/
def Fe.heldOp (x : Fe) (id : Nat) : Option MemOp := x.port.find? fun o => decide (o.id = id ∧ o.stage = .held)

/-- FRQ_REPLAY: the held access, or every spilled element of the binding, issues again. -/
def execFrqReplay (at_ : Via × Nat) (post : Nat) (s : State) : Out :=
  let die := at_.2
  .next (match if s.hostReaches at_.1 then s.frqNamed die post else none with
    | none => s
    | some w =>
      let s := s.frqAnswered die post
      match w.src with
      | .fePort f id => match (s.fe f).heldOp id with
        | none => s
        | some o => s.opStage f o .issued
      | .binding r k _ => s.modBind r k fun b => { b with spill := b.spill.map fun p => { p with retry := p.isPage } }
      | .thread _ => s
      | .engine _ _ _ => s)

/-- The delivery that an aborted record becomes: the same code and words. -/
def abortRec (w : Rec8) : Rec8 :=
  let w := vset (vset w 0 (vget w 0 ||| 0x10000)) 6 0
  vset w 7 (vget w 7 &&& ~~~(0x300000000 : Word))

/-- FRQ_ABORT. -/
def execFrqAbort (at_ : Via × Nat) (post : Nat) (s : State) : Out :=
  let die := at_.2
  .next (match if s.hostReaches at_.1 then s.frqNamed die post else none with
    | none => s
    | some w =>
      let s := s.frqAnswered die post
      match w.src with
      | .fePort f id => match (s.fe f).heldOp id with
        | none => s
        | some o => s.opFaults f o { code := .page, w1 := vget w.words 1 }
      | .binding r k _ => match s.binding r k with
        | none => s
        | some b => ((s.keepCtr r b).dropBinding r k).deliver r { words := abortRec w.words, freezes := true }
      | .thread _ => s
      | .engine _ _ _ => s)

/-- FRQFATAL_CLEAR: a 1 in OVF clears OVF and LOST (Table 18-4). -/
def execFrqfatalClear (at_ : Via × Nat) (w : BitVec 64) (s : State) : Out :=
  .next (if !bitOf w 0 || !s.hostReaches at_.1 then s
    else s.modDie at_.2 fun d => { d with frq := { d.frq with ovf := false, lost := 0 } })

/-- FRQCONS_WRITE: a value out of range stops posting and is counted. -/
def execFrqconsWrite (at_ : Via × Nat) (v : BitVec 32) (s : State) : Out :=
  .next (
    if !s.hostReaches at_.1 then s
    else
      let s := s.modDie at_.2 fun d => { d with frq := { d.frq with cons := v } }
      if (s.die at_.2).frq.free.isNone then s.count at_.2 17 1 else s)

/-! ### Fatal errors (R367) -/

/-- Does a residency use a unit: a plane or seam of an FE, named by page and position; the CP; a guard entry; a TLB tile? -/
def State.usesUnit (s : State) (r : ResId) (x : Residency) (kind index : Nat) : Bool :=
  let at_ : FeId := ⟨r.die, index / 24, index % 24⟩
  match kind with
  | 1 => x.pages.contains (index / 24)
  | 2 => true
  | 3 => match x.guard with
    | .none => false
    | .surrogate e _ => e = index
    | .checker e _ => e = index
    | .exact e _ => e = index
  | 4 => x.rots.any fun q => decide (q.seam = at_)
  | 5 => s.tlb.any fun e => decide (e.die = r.die ∧ e.tile = index ∧ e.asid = x.asid)
  | _ => false

/-- The page of a unit, 0 for a unit of the die. -/
def unitPage (kind index : Nat) : Nat := if kind = 1 || kind = 4 then index / 24 else if kind = 5 then index else 0

/-- UNCORRECTED_ERROR: a fatal record, an audit entry, the end of every user, and the unit's page out at the next reset.
Kind 0 is an uncorrectable error in data (R401): line `index` of the pool is poisoned and counted in UE. A kind above 5 is a
correctable error: corrected and counted in CE (log entry 56). Before the first boot there is none: entry 0 of the audit chain is that
boot's (R399). -/
def execUncorrectedError (die kind index : Nat) (s : State) : Out :=
  .next (
    if 4 ≤ die || !s.booted then s
    else if kind = 0 then (if 2 ^ 49 ≤ index then s else (s.setPoison index true).count die 1 1)
    else if 5 < kind then s.count die 0 1
    else
      let users := (s.die die).res.filter fun p => decide (p.2.state = .armed ∨ p.2.state = .loaded) && s.usesUnit ⟨die, p.1⟩ p.2 kind index
      let (ri, asid) := match users with
        | (k, x) :: _ => if kind = 1 || kind = 4 then (k, x.asid) else (0xFF, 0)
        | [] => (0xFF, 0)
      let words := rec8 [wordN (codeNum .uncorrected), wordN (kind + index * 2 ^ 16), 0, 0, 0, 0, 0,
        originWord die (unitPage kind index) ri asid 2 0]
      let s := (s.frqDue die words 2 none).audit 0x0006 asid (BitVec.ofNat 32 (codeNum .uncorrected)) 0
      let s := s.modDie die fun d => { d with
        cpLost := d.cpLost || kind = 2
        excludeNext := if kind = 2 then List.range 48
                       else if kind = 3 then d.excludeNext else d.excludeNext ++ [unitPage kind index] }
      users.foldl (fun s p => s.killRes ⟨die, p.1⟩ (codeNum .uncorrected + 0x100)) s)

end Sys2Proof.Machine
end

