-- ==== Sys2Proof/Machine/Summary.lean ====
section
/-! DEFINITION. The SUMMARY record (20 R403, Tables 20-7 and 20-8). Where a table gives a part's contents and no layout,
its values stand in the order the table lists them (log entry 58). -/

namespace Sys2Proof.Machine

def sum64 (n : Nat) : List Byte := leBytes 8 n
def boolNat (b : Bool) : Nat := if b then 1 else 0

/-- FWREL, major above minor: release 3.2 or a later one, which the manual leaves open (00 R1; log entry 58). -/
def firmwareRelease : Nat :=
  0x0302 + ((Config.firmwareByte 0).toNat + (Config.firmwareByte 1).toNat * 2 ^ 8) % (2 ^ 16 - 0x0302)
/-- The header of Table 20-7, for a record of `len` bytes. -/
def State.summaryHeader (s : State) (len : Nat) : List Byte :=
  let pages := (s.liveDies.map fun d => (s.die d).livePages.length).sum
  let slices := (s.liveDies.map fun d => (s.die d).liveSlices.length).sum
  let cxl := (s.front.cxl.toList.filter fun b => b).length
  let live := (s.liveDies.map fun d => 2 ^ d).sum
  let w0 := 0x594D5553 + 2 ^ 32 + 0xB1 * 2 ^ 40 + firmwareRelease * 2 ^ 48
  let w1 := live + pages * 24 * 2 ^ 4 + slices * 2 ^ 28 + cxl * 2 ^ 40
  let lanes := (List.range 12).flatMap fun i => leBytes 1 (vget s.front.zports i).lanes
  sum64 w0 ++ sum64 w1 ++ lanes ++ leBytes 4 s.front.pool ++ sum64 len ++ List.replicate 24 0

/-- A page-map entry (08 Table 8-1). -/
def PageEntry.word (p : PageEntry) : Nat :=
  (match p.state with
   | .free => 0
   | .held => 1
   | .excluded => 2) + boolNat p.rsv * 4 + boolNat p.biv * 8 + p.res.toNat * 16

/-- Number of a pitch state, in the order of 05 Table 5-9; FREE is 0. -/
def PitchState.num : PitchState → Nat
  | .loading => 1
  | .loaded => 2
  | .armed => 3
  | .retiring => 4

/-- Leave held by a die's residencies. -/
def Die.leaveHeld (x : Die) : Nat := (x.res.map fun p => p.2.classLeave + p.2.explicitLeave).sum

/-- FRQFATAL (18 Table 18-4). -/
def Frq.fatalWord (q : Frq) : Nat := boolNat q.ovf + q.lost * 2 ^ 16 + q.first.toNat * 2 ^ 32

def State.summaryDieHeader (s : State) (x : Die) : List Byte :=
  ([s.cyc, x.parkLimit, x.frq.base.toNat, x.frq.prod.toNat, x.frq.cons.toNat, 0, x.frq.fatalWord, x.leaveHeld]).flatMap sum64

/-- An entry of the residency table, 256 bytes; one whose residency has left keeps its phase totals until it is used again (19 R393). -/
def summaryRes (x : Option Residency) (kept : Vector Nat 4) : List Byte :=
  let ws := match x with
    | none => List.replicate 7 0 ++ kept.toList
    | some x =>
      [x.state.num, recImage x.record, x.asid.toNat, x.band0 * 8 + x.group0, x.h + x.w * 8, x.prio,
        x.classLeave + x.explicitLeave] ++ x.totals.toList ++ [x.freeze]
  ws.flatMap sum64 ++ List.replicate (256 - 8 * ws.length) 0

/-- A queue: records waiting, records eligible, the aged record's position. -/
def summaryQueue (l : List QRec) : List Byte :=
  let aged := ((l.zipIdx.find? fun q => q.1.aged).map (·.2)).getD 0xFFFFFFFF
  leBytes 4 l.length ++ leBytes 4 (l.filter QRec.eligible).length ++ leBytes 4 aged ++ leBytes 4 0

/-- A rotation: its word and, 12 bits each, how many slots it has of every status, in the order of 11 Table 11-2. -/
def State.summaryRot (s : State) (d k n : Nat) : List Byte :=
  let r : ResId := ⟨d, k⟩
  match s.rot r n with
  | none => List.replicate 16 0
  | some q =>
    let num (st : SlotStatus) : Nat := (q.slots.filter fun z => decide (z.status = st)).length
    sum64 (s.rotWord r q) ++
      sum64 (num .empty + num .live * 2 ^ 12 + num .held * 2 ^ 24 + num .faulted * 2 ^ 36 + num .absent * 2 ^ 48)

/-- Growing cells homed on a die: count, TRUNC, and up to 4,096 entries. -/
def State.summarySpores (s : State) (d : Nat) : List Byte :=
  let cells := (s.tags.filter fun t => decide (t.2 = 2) && decide ((s.slot t.1).1 = d)).map (·.1)
  sum64 cells.length ++ sum64 (boolNat (decide (4096 < cells.length))) ++ (cells.take 4096).flatMap fun c =>
    let l := s.line c
    sum64 (c * 64) ++ sum64 (fldN l 0 32) ++ sum64 (fldN l 32 7) ++ sum64 (fldN l 128 64)

/-- A guard entry: in use, ASID, tiles in each state of 07 Table 7-2. -/
def summaryGuard (g : Option GuardEntry) : List Byte := match g with
  | none => List.replicate 32 0
  | some g =>
    let num (st : TileState) : List Byte :=
      leBytes 4 ((List.range g.count).filter fun i => decide ((g.tile i).state = st)).length
    leBytes 2 1 ++ leBytes 2 g.asid.toNat ++ num .queued ++ num .running ++ num .deciding ++ num .failed ++ num .fallback ++
      num .exact ++ num .done

/-- The section of a die (Table 20-8). -/
def State.summaryDie (s : State) (d : Nat) : List Byte :=
  let x := s.die d
  s.summaryDieHeader x ++ x.pages.toList.flatMap (fun p => leBytes 4 p.word) ++
  (List.range 48).flatMap (fun k => summaryRes (mapFind x.res k) (((mapFind x.phaseLog k).map (·.2)).getD (.replicate 4 0))) ++ x.queues.toList.flatMap summaryQueue ++
  (List.range 48).flatMap (fun k => (List.range 8).flatMap fun n => s.summaryRot d k n) ++ s.summarySpores d ++
  x.guards.toList.flatMap summaryGuard ++ x.counters.toList.flatMap fun c => sum64 c.toNat

/-- The whole record. -/
def State.summary (s : State) : List Byte :=
  let body := s.liveDies.flatMap s.summaryDie
  s.summaryHeader (64 + body.length) ++ body

end Sys2Proof.Machine
end

