-- ==== Sys2Proof/Machine/HostCmd.lean ====
section
/-! DEFINITION. The command ring of the front end and the host's commands (21 R420, R421). -/

namespace Sys2Proof.Machine

/-! ### The ring (R420) -/

/-- The entry at CONS, with its address: none while the ring is empty, or stopped by a bad LOG or PROD. -/
def State.hcqEntry (s : State) : Option (Nat × Line) :=
  let f := s.front
  let log := f.hcqSize.toNat
  let size := 2 ^ (log + 4)
  let n := (f.hcqProd - f.hcqCons).toNat
  if !s.booted || 8 < log || n = 0 || size < n then none
  else
    let a := f.hcqBase.toNat + 64 * (f.hcqCons.toNat % size)
    some (a, s.line (a / 64))

/-- Complete the entry at address `a`: word 7, then CONS, then vector 0 if IRQ is set. -/
def State.completeCmd (s : State) (a : Nat) (e : Line) (status : Nat) : State :=
  let s := s.physWrite (a + 56) (leBytes 4 status ++ leBytes 4 (fldN e 32 32))
  let s := { s with front := { s.front with hcqCons := s.front.hcqCons + 1 } }
  if bitOf e 16 then s.irq 0 else s

/-- A command of the entry at CONS: none of the body leaves the ring waiting, else the status and the state it leaves. -/
def State.command (s : State) (mine : Line → Bool) (body : State → Line → Option (Nat × State)) : State :=
  match s.hcqEntry with
  | none => s
  | some (a, e) =>
    if !mine e then s
    else match body s e with
      | none => s
      | some (status, s) => s.completeCmd a e status

def cmdOp (e : Line) : Nat := fldN e 0 16
/-- Word `k` of an entry. -/
def cmdWord (e : Line) (k : Nat) : Nat := fldN e (64 * k) 64
/-- Is a device physical address aligned to `n` bytes (12 R263)? -/
def physOk (a n : Nat) : Bool := decide (a % n = 0 ∧ a < 2 ^ 55)
/-- `n` bytes of device memory. -/
def State.physRead (s : State) (a n : Nat) : List Byte := s.mem.readBytes a n

def execOn (op : Nat) (body : State → Line → Option (Nat × State)) (s : State) : Out :=
  .next (s.command (fun e => decide (cmdOp e = op)) body)

/-! ### Work: LAUNCH, WITHDRAW, KILL, PREEMPT -/

/-- HOST_LAUNCH (R128-R130): a malformed record is refused at the front end; one whose queue is full is held there, its die chosen. -/
def execHostLaunch (s : State) : Out :=
  .next (match s.hcqEntry with
    | none => s
    | some (c, e) =>
      let a := cmdWord e 1
      if cmdOp e ≠ 1 then s
      else if !physOk a 64 then s.completeCmd c e 2
      else
        let l := lineOf (s.physRead a 64)
        let (die, l) := s.front.hcqHeld.getD (targetDie l s.freestDie, l)
        let home := s.liveDies.headD 0
        let hold (h : Option (Nat × Line)) (s : State) : State := { s with front := { s.front with hcqHeld := h } }
        if hostRecBad l then
          (hold none (if fldN l 320 4 = 0 then s.pairDone home (recAsid l) (recDone l) 13 else s)).completeCmd c e 0
        else match s.submit l (recAsid l) die home a with
          | none => hold (some (die, l)) s
          | some s => (hold none s).completeCmd c e 0)

/-- The place of the record that a LAUNCH named by an address: die, queue, position. -/
def State.recordAt (s : State) (a : Nat) : Option (Nat × Nat × Nat) :=
  (List.range 4).findSome? fun d => (List.range 16).findSome? fun k =>
    ((vget (s.die d).queues k).zipIdx.find? fun q => q.1.addr = a && q.1.capture.isNone).map fun q => (d, k, q.2)

/-- WITHDRAW: a record not yet placed completes with status 0x134, its reservation cleared. -/
def execWithdraw (s : State) : Out :=
  execOn 2 (fun s e =>
    let a := cmdWord e 1
    if !physOk a 64 then some (2, s)
    else match s.recordAt a with
      | none => some (3, s)
      | some (d, k, p) =>
        let q := (s.die d).recAt (k, p)
        some (0, (s.modDie d fun x => x.dropRec k p).launchDone d q.record q.asid q.guard (codeNum .killed + 0x100))) s

/-- The residency a command names: [1:0] die, [15:8] index. -/
def cmdRes (w : Nat) : ResId := ⟨w % 4, w / 256 % 256⟩

/-- KILL: the residency ends at once with status 0x134, and a report is posted. -/
def execKill (s : State) : Out :=
  execOn 3 (fun s e =>
    let r := cmdRes (cmdWord e 1)
    let st := (s.res r).state
    if !s.hasRes r || st = .retiring then some (3, s)
    else some (0, (s.killRes r (codeNum .killed + 0x100)).cpReport r .killed 0)) s

/-- PREEMPT (18 R370). -/
def execPreempt (s : State) : Out :=
  execOn 4 (fun s e =>
    let r := cmdRes (cmdWord e 1)
    let x := s.res r
    if !s.hasRes r || x.exempt || x.preempt.isSome || x.state ≠ .armed || x.freed then some (3, s)
    else some (0, s.askPreempt r)) s

/-! ### Tenants and limits -/

/-- ASIDROOT (12 R263): the table root of an ASID, and audit event 0x0002. Translations made under the old root go. -/
def execAsidroot (s : State) : Out :=
  execOn 5 (fun s e =>
    let asid := BitVec.ofNat 16 (cmdWord e 1)
    let root := cmdWord e 2
    if !physOk root (2 ^ 16) then some (2, s)
    else
      let s := { s with roots := if root = 0 then mapErase s.roots asid else mapSet s.roots asid root
                        tlb := s.tlb.filter fun t => decide (t.asid ≠ asid) }
      some (0, s.audit 0x0002 asid 0 (BitVec.ofNat 448 root))) s

/-- CTXAREA (18 R370). -/
def execCtxarea (s : State) : Out :=
  execOn 6 (fun s e =>
    let base := cmdWord e 2
    if !physOk base 64 then some (2, s)
    else some (0, { s with ctxAreas := mapSet s.ctxAreas (BitVec.ofNat 16 (cmdWord e 1)) (base, cmdWord e 3) })) s

/-- PARKLIM (15 R326). -/
def execParklim (s : State) : Out :=
  execOn 7 (fun s e =>
    let n := cmdWord e 2
    if n = 0 || 2 ^ 48 ≤ n then some (2, s)
    else some (0, (List.range 4).foldl (fun s d =>
      if cmdWord e 1 / 2 ^ d % 2 = 1 then s.modDie d fun x => { x with parkLimit := n } else s) s)) s

/-! ### Trace and debug (19 R379, R387-R391) -/

/-- TRACERING (19 R390). -/
def execTracering (s : State) : Out :=
  execOn 8 (fun s e =>
    let base := cmdWord e 2
    let k := cmdWord e 3 % 32
    if !physOk base 4096 || k < 10 || 24 < k then some (2, s)
    else some (0, s.modDie (cmdWord e 1 % 4) fun x => { x with
      trace := { x.trace with ring := true, base, k, mode := cmdWord e 3 / 256 % 2, written := 0, stopped := false } })) s

/-- Send a trigger with the filter of word 2; its origin time is now (19 R389). -/
def State.sendTrigger (s : State) (e : Line) : State :=
  let w := cmdWord e 2
  let f : Filter := { asid := BitVec.ofNat 16 w, res := if w / 2 ^ 24 % 2 = 1 then some (w / 2 ^ 16 % 256) else none
                      classes := BitVec.ofNat 6 (w / 2 ^ 32) }
  { s with front := { s.front with triggers := s.front.triggers ++ [{ action := cmdWord e 1 % 4, filter := f, origin := s.cyc }] } }

/-- A TRIGGER command of one action. -/
def execTrigger (act : Nat) (s : State) : Out :=
  .next (s.command (fun e => decide (cmdOp e = 9 ∧ cmdWord e 1 % 4 = act)) fun s e => some (0, s.sendTrigger e))

/-- TRIGGER START. -/
def execTriggerStart (s : State) : Out := execTrigger 0 s
/-- TRIGGER STOP. -/
def execTriggerStop (s : State) : Out := execTrigger 1 s
/-- TRIGGER FREEZE. -/
def execTriggerFreeze (s : State) : Out := execTrigger 2 s
/-- TRIGGER RESUME. -/
def execTriggerResume (s : State) : Out := execTrigger 3 s

/-- TRACEPKT: a capture packet takes its place in a CP queue; the ring waits while the queue is full (19 R391). -/
def execTracepkt (s : State) : Out :=
  execOn 10 (fun s e =>
    let w := cmdWord e 1
    let die := w % 4
    let k := w / 4 % 16
    if 64 ≤ (vget (s.die die).queues k).length then none
    else some (0, s.modDie die fun d => { d with
      queues := vmod d.queues k fun l => l ++ [{ record := 0, asid := 0, capture := some (decide (cmdWord e 2 % 2 = 0)) }] })) s

/-- A DEBUG command of one action. -/
def State.debugCmd (s : State) (act : Nat) (body : State → Line → Option (Nat × State)) : State :=
  s.command (fun e => decide (cmdOp e = 11 ∧ (cmdWord e 1 = act ∨ (act = 0 ∧ 3 < cmdWord e 1)))) body

/-- DEBUG attach: at most 16 ASIDs; audited. An action above 3 is out of range. -/
def execDebugAttach (s : State) : Out :=
  .next (s.debugCmd 0 fun s e =>
    let asid := BitVec.ofNat 16 (cmdWord e 2)
    let l := s.front.dbg.attached
    if 3 < cmdWord e 1 then some (2, s)
    else if l.contains asid || 16 ≤ l.length then some (3, s)
    else some (0, (s.modDbg fun d => { d with attached := d.attached ++ [asid] }).audit 0x0004 asid 0 0))

/-- DEBUG detach; audited. -/
def execDebugDetach (s : State) : Out :=
  .next (s.debugCmd 1 fun s e =>
    let asid := BitVec.ofNat 16 (cmdWord e 2)
    if !s.front.dbg.attached.contains asid then some (3, s)
    else some (0, (s.modDbg fun d => { d with attached := d.attached.filter fun a => a ≠ asid }).audit 0x0005 asid 0 0))

/-- DEBUG step: one instruction of one thread of an attached ASID, while the device is frozen (19 R387). -/
def execDebugStep (s : State) : Out :=
  .next (s.debugCmd 2 fun s e =>
    let w := cmdWord e 3
    let t : ThreadId := ⟨w % 4, w / 4 % 64, w / 2 ^ 8 % 8⟩
    let asid := BitVec.ofNat 16 (cmdWord e 2)
    let x := s.thr t
    if 48 ≤ t.page then some (2, s)
    else if !s.front.dbg.frozen || s.front.dbg.step.isSome || x.status = .free || x.asid ≠ asid ||
        !s.front.dbg.attached.contains asid then some (3, s)
    else some (0, s.modDbg fun d => { d with step := some (t, s.cyc, false) }))

/-- DEBUG cut: a debug cut of one residency of an attached ASID; it waits for an earlier cut of its pitch (19 R388). -/
def execDebugCut (s : State) : Out :=
  .next (s.debugCmd 3 fun s e =>
    let r := cmdRes (cmdWord e 3)
    let x := s.res r
    let asid := BitVec.ofNat 16 (cmdWord e 2)
    if !s.hasRes r || x.state ≠ .armed || x.freed || x.asid ≠ asid || !s.front.dbg.attached.contains asid ||
        s.front.dbg.cut.isSome || s.front.dbg.frozen then some (3, s)
    else some (0, (s.modDbg fun d => { d with cut := some (r, cmdWord e 4, s.cyc) }).startDebugCut r))

/-! ### Audit and health (20 R400, R403) -/

/-- AUDITMIR. -/
def execAuditmir (s : State) : Out :=
  execOn 12 (fun s e =>
    let base := cmdWord e 1
    let n := cmdWord e 2
    if !physOk base 4096 || !(List.range 17).any (fun k => decide (n = 2 ^ (k + 4))) then some (2, s)
    else some (0, { s with front := { s.front with auditMirror := (base, n) } })) s

/-- AUDITSIGN: event 0x0008, then SEQ, the head that includes it, the nonce and the signature. -/
def execAuditsign (s : State) : Out :=
  execOn 13 (fun s e =>
    let a := cmdWord e 1
    let b := cmdWord e 2
    if !physOk a 1 || !physOk b 1 then some (2, s)
    else
      let nonce := s.physRead a 32
      let s := s.audit 0x0008 0 0 0
      let (seq, head) := s.auditheadReg
      let msg := leBytes 8 seq ++ leBytes 48 head.toNat ++ nonce
      let sig := leBytes 96 (Config.signature (leBytes 48 (sha384 msg).toNat)).toNat
      some (0, s.physWrite b (msg ++ sig ++ List.replicate 72 0))) s

/-- SUMMARY: a buffer too short gets status 2, and word 6 the length needed. -/
def execSummary (s : State) : Out :=
  .next (match s.hcqEntry with
    | none => s
    | some (a, e) =>
      if cmdOp e ≠ 14 then s
      else
        let buf := cmdWord e 1
        let bs := s.summary
        if !physOk buf 64 then s.completeCmd a e 2
        else if cmdWord e 2 < bs.length then (s.physWrite (a + 48) (leBytes 8 bs.length)).completeCmd a e 2
        else (s.physWrite buf bs).completeCmd a e 0)

/-! ### Links and measurements (21 R412-R416) -/

/-- LINKCFG. -/
def execLinkcfg (s : State) : Out :=
  execOn 15 (fun s e =>
    let lto := cmdWord e 1
    let q := cmdWord e 2
    if lto < 100 || 1000000 < lto || q < 100 || 100000 < q then some (2, s)
    else some (0, { s with front := { s.front with lto, quantum := q } })) s

/-- A store that had left its thread's buffer when its peer fell: the fault of a store that does not perform (12 R270; 13 R440). -/
def State.storeLost (s : State) (x : Sent) : State := match x.who, x.note with
  | some (.thread t), some b => s.modThr t fun y =>
      { y with held := y.held ++ [{ words := storeFaultRec s t b { code := .peerGone }, freezes := false }] }
  | _, _ => s
/-- The accesses in flight to a peer end: what a requester asks after completes with PEER_GONE, a thread's posted store faults, the rest is
dropped, and so is what banks hold of the peer's lines, which carry its old incarnation (R270). -/
def State.peerCut (s : State) (p : Nat) : State :=
  let dead := s.sent.filter fun x => decide (x.peer = p)
  let cut (x : Sent) : Option Sent :=
    if x.peer ≠ p then some x
    else if !x.asks then none
    else some { x with lost := x.lost || !x.answered || x.kind = .read || x.kind = .amo }
  let s : State := { s with sent := s.sent.filterMap cut }
  let s := dead.foldl (fun s x => s.storeLost x) s
  let bank (b : Bank) : Bank := { b with lines := b.lines.filter fun x => decide (x.2.peer ≠ some p) }
  let s : State := { s with fes := s.fes.map fun (f : FeId × Fe) => (f.1, { f.2 with bank := f.2.bank.map bank }) }
  (dead.filter fun x => x.kind = .inv).foldl (fun s x => s.retest x.line) s

/-- A peer's entry is DOWN; if it was UP, its incarnation rises, accesses in flight to it end, and vector 11 says so. It is UP again only
once the host has enrolled it anew (12 R270). -/
def State.peerFalls (s : State) (p : Nat) : State :=
  if !s.peerUp p then s
  else
    let inc := (vget s.front.peers p).incarnation + 1
    let s := { s with front := { s.front with
      peers := vmod s.front.peers p fun x => { x with up := false, enrolled := false, incarnation := inc } } }
    let dead (l : Leaf) : Bool := l.p && decide (l.peer = p)
    let of (c : RdcLine) : Bool := c.peer.any fun q => decide (q.1 = p)
    let s := { s with rdc := s.rdc.filter fun c => !of c
                      tlb := if inc = 0 then s.tlb.filter fun t => !dead t.leaf else s.tlb }
    (s.peerCut p).irq 11
/-- GCLK aligns to that of the lowest-indexed UP device, which is this device where no UP peer's index is below its own (21 R414; DEDUCED, log
entry 6). -/
def State.alignGclk (s : State) : State :=
  let lower := (List.range 64).any fun p => s.peerUp p && decide (p < Config.ownIndex)
  let now := s.cyc / Config.cyclesPerNanosecond % 2 ^ 64
  if lower then { s with front := { s.front with gclk := (Config.peerGclk s.tick + 2 ^ 64 - now) % 2 ^ 64 } } else s
/-- A peer becomes UP, and the clocks align. -/
def State.peerRises (s : State) (p : Nat) : State :=
  if s.peerUp p || p = Config.ownIndex then s
  else (({ s with front := { s.front with peers := vmod s.front.peers p fun x => { x with up := true } } } : State).alignGclk).irq 11
/-- Is a port between the device and a peer up? -/
def State.portTo (s : State) (p : Nat) : Bool := s.front.zports.toList.any fun z => z.up && decide (z.peer = p)

/-- ENROL: GCLK aligns to the lowest-indexed UP device; the peer is UP once its host has enrolled this device and a port
between them is up (21 R413, R414). -/
def execEnrol (s : State) : Out :=
  .next (s.command (fun e => decide (cmdOp e = 16 ∧ cmdWord e 1 / 256 % 2 = 1)) fun s e =>
    let p := cmdWord e 1 % 64
    let s := (if s.peerUp p then s else s.alignGclk)
    let s := { s with front := { s.front with peers := vmod s.front.peers p fun x => { x with enrolled := true } } }
    some (0, if s.portTo p && Config.choice s.tick then s.peerRises p else s))

/-- ENROL, remove. -/
def execEnrolRemove (s : State) : Out :=
  .next (s.command (fun e => decide (cmdOp e = 16 ∧ cmdWord e 1 / 256 % 2 = 0)) fun s e =>
    let p := cmdWord e 1 % 64
    let s := s.peerFalls p
    some (0, { s with front := { s.front with peers := vmod s.front.peers p fun x => { x with enrolled := false } } }))

/-- Extend a measurement register: SHA-384 of what it holds and a digest (R416). -/
def State.extend (s : State) (k : Nat) (d : List Byte) : State :=
  let m := sha384 (leBytes 48 (vget s.front.mr k).toNat ++ d)
  { s with front := { s.front with mr := vset s.front.mr k m } }

/-- MREXT: MR6 alone. -/
def execMrext (s : State) : Out :=
  execOn 17 (fun s e =>
    let a := cmdWord e 1
    if !physOk a 1 then some (2, s) else some (0, s.extend 6 (s.physRead a 48))) s

/-! ### Spore cells of RULE HOST (15 R323) -/

/-- A cell command: the cell must be GROWING under a host grower. -/
def State.hostCell (s : State) (e : Line) (k : State → Nat → Line → State) : Option (Nat × State) :=
  let a := cmdWord e 1
  let b := cmdWord e 2
  if !physOk a 64 || !physOk b 64 then some (2, s)
  else
    let line := a / 64
    if s.tag line ≠ 2 || fldN (s.line line) 30 2 ≠ 3 then some (3, s)
    else some (0, k s line (s.line (b / 64)))

/-- SFILL. -/
def execSfill (s : State) : Out := execOn 18 (fun s e => s.hostCell e fun s line v => s.fillCell line v) s
/-- SFAIL. -/
def execSfail (s : State) : Out := execOn 19 (fun s e => s.hostCell e fun s line v => s.failCell line v 0) s

/-- HCQ_UNKNOWN_OP: status 1. -/
def execHcqUnknownOp (s : State) : Out :=
  .next (s.command (fun e => decide (cmdOp e = 0 ∨ 19 < cmdOp e)) fun s _ => some (1, s))

end Sys2Proof.Machine
end

