-- ==== Sys2Proof/Machine/Links.lean ====
section
/-! DEFINITION. The surroundings of the device: boot, host links, pool ports, the Zilost Link, attestation, power
(12 R270, R271; 20 R401; 21 R404-R419). -/

namespace Sys2Proof.Machine

/-! ### Device reset and boot (20 R401; 21 R415, R416) -/

/-- A die after a device reset: what failed at run time is still to be excluded (20 R401). -/
def Die.afterReset (x : Die) : Die := { ({} : Die) with excludeNext := x.excludeNext }
/-- The state after a device reset: the audit log goes on, the pool keeps its bytes (log entry 60), and what failed at run time is still
to be excluded (20 R401). -/
def State.deviceReset (s : State) : State :=
  { State.reset with
    tick := s.tick, agenda := s.agenda, mem := s.mem, poison := s.poison
    dies := s.dies.map Die.afterReset
    front := { State.reset.front with
      audit := s.front.audit, bootCount := s.front.bootCount, excludePorts := s.front.excludePorts } }

/-- Numbers of unit kinds in audit event 0x0007, in the order of Table 20-5: page, die, RDC bank, CXL port, Zilost port. -/
def exclusionDetail (kind index : Nat) : BitVec 32 := BitVec.ofNat 32 (kind + index * 2 ^ 8)

/-- A die with the pages, banks and itself excluded as boot found them; with no page left the die is out. -/
def Die.boot (x : Die) (d : Nat) (b : BootReport) (also : List Nat) : Die :=
  let out (p : Nat) : Bool := b.badPages.contains (d, p) || also.contains p
  let live := !b.badDies.contains d && !(List.range 48).all out
  { x with
    live, excludeNext := []
    pages := Vector.ofFn fun (k : Fin 48) => ({ state := if !live || out k.val then .excluded else .free } : PageEntry)
    rdcBanks := (List.range 16).filter fun k => !b.badBanks.contains (d, k) }

/-- One audit entry for each unit excluded. -/
def State.auditExclusions (s : State) (b : BootReport) (also : List (Nat × Nat)) : State :=
  let s := (b.badPages ++ also).foldl (fun s p => s.audit 0x0007 0 (exclusionDetail 0 (p.1 * 48 + p.2)) 0) s
  let s := ((List.range 4).filter fun d => !(s.die d).live).foldl (fun s d => s.audit 0x0007 0 (exclusionDetail 1 d) 0) s
  let s := b.badBanks.foldl (fun s p => s.audit 0x0007 0 (exclusionDetail 2 (p.1 * 16 + p.2)) 0) s
  let s := b.badPorts.foldl (fun s p => s.audit 0x0007 0 (exclusionDetail 3 p) 0) s
  ((List.range 12).filter fun i => decide (b.lanes.getD i 8 < 2)).foldl (fun s i => s.audit 0x0007 0 (exclusionDetail 4 i) 0) s

/-- Lanes a port runs at: 8, 4 or 2. -/
def lanesUsed (n : Nat) : Nat := if 8 ≤ n then 8 else if 4 ≤ n then 4 else if 2 ≤ n then 2 else 0

/-- The measurements of a boot: MR0 to MR5 from the report, then MR7 from MR0 to MR6 in order (Table 21-3). -/
def State.measure (s : State) (b : BootReport) : State :=
  let s := (List.range 6).foldl (fun s k => match b.digests[k]? with
    | none => s
    | some d => s.extend k (leBytes 48 d.toNat)) s
  (List.range 7).foldl (fun s k => s.extend 7 (leBytes 48 (vget s.front.mr k).toNat)) s

/-- Is every firmware image accepted: verified, and of no security version below the fused minimum (R415)? -/
def bootAccepted (b : BootReport) : Bool := b.verified && b.versions.all fun v => decide (v.2 ≤ v.1)
/-- The pool as enumerated: at most 512 GB behind each live port, of which each contributes the smallest port's, in granules of 4 KiB; the
tag side-table, two bits for each 64-byte line, lies at the top (12 R266; R408, R409). The manual does not say where within the top it
begins (DESIGN CHOICE, log entry 83). -/
def Front.pooled (x : Front) (b : BootReport) : Front :=
  let caps := Vector.ofFn fun (k : Fin 24) => if b.badPorts.contains k.val then 0 else min (b.capacity.getD k.val 0) 512000000000
  let live := ((List.range 24).filter fun k => !b.badPorts.contains k).map (vget caps)
  let n := live.length * (live.foldl min (live.headD 0) / 4096 * 4096)
  { x with portCap := caps, poolEnd := n, tagTable := n - n / 256 }

/-- The report of a boot, with the ports that were lost since the last one (20 R401). -/
def bootWithLost (b : BootReport) (ports : List Nat) : BootReport :=
  { b with badPorts := b.badPorts ++ ports.filter fun p => !b.badPorts.contains p }

/-- BOOT: firmware that is refused leaves the device in recovery, where no work is accepted. -/
def execBoot (b : BootReport) (s0 : State) : Out :=
  .next (
    let b := bootWithLost b s0.front.excludePorts
    let also := (List.range 4).map fun d => (s0.die d).excludeNext
    let s := s0.deviceReset
    let s := { s with front := { s.front with bootCount := s.front.bootCount + 1 } }
    if !bootAccepted b then { s with recovery := true }
    else
      let s := { s with
        booted := true
        dies := Vector.ofFn fun (d : Fin 4) => (s.die d.val).boot d.val b (also.getD d.val [])
        front := { s.front.pooled b with
          pool := b.poolUnits, poolFree := b.poolUnits, excludePorts := []
          cxl := Vector.ofFn fun (k : Fin 24) => !b.badPorts.contains k.val
          zports := Vector.ofFn fun (k : Fin 12) => { lanes := lanesUsed (b.lanes.getD k.val 8) } } }
      let s := s.auditExclusions b ((List.range 4).flatMap fun d => (also.getD d []).map fun p => (d, p))
      let s := s.measure b
      s.audit 0x0001 0 0 (BitVec.ofNat 448 (vget s.front.mr 7).toNat))

/-! ### BAR2 and IDE (R405, R407) -/

/-- BAR2_ACCESS: a host access of at most one line performs at its home as through a mapping with T = 0; it meets no watch entry. None is
carried by a stream out of the secure state, nor in recovery (R407, R415). A read waits while peers have still to drop the line (17 R350).
Device physical memory ends at 2^55 and the pool where boot found it to end, and an access beyond is not made (DESIGN CHOICE, log entry
83). A poisoned line's bytes are read as they stand (UNVERIFIED, log entry 51: the manual names no response; safe for what a program sees). -/
def execBar2Access (off : Via × Nat) (len : Nat) (wr : Option (BitVec 512)) (s : State) : Out :=
  .next (
    let a := s.front.hwin.toNat + off.2
    if !s.booted || !s.hostReaches off.1 || len = 0 || 2 ^ 36 < off.2 + len || 64 < a % 64 + len || 2 ^ 55 < a + len || s.offPool (a + len - 1) ||
        s.portGone a then s
    else match s.l2Bring (a / 64) with
      | none => s
      | some s' => match wr with
        | none => if s.recalling (a / 64) then s else { s' with front := { s'.front with bar2 := s'.mem.readBytes a len } }
        | some d => s'.homeStore a false ((lineBytes d).take len))

/-- IDE_INTEGRITY_FAIL: the TLP is dropped, and its stream carries nothing until its keys are programmed again. -/
def execIdeIntegrityFail (link stream : Nat) (s : State) : Out :=
  .next { s with front := { s.front with ide := mapErase s.front.ide (link, stream) } }
/-- IDE_KM: keys of link IDE (stream 0) or of a selective stream, inside an SPDM session of the link. -/
def execIdeKm (link stream : Nat) (key : BitVec 256) (s : State) : Out :=
  .next (if 2 ≤ link || 5 ≤ stream || (vget s.front.spdm link).stage ≠ .session then s
    else { s with front := { s.front with ide := mapSet s.front.ide (link, stream) key } })

/-! ### Pool ports (12 R271; R408, R409) -/

/-- CXL_PORT_LOST: lines behind it fault PEER_GONE; its dirty lines are poisoned and counted; the next boot excludes it (20 R401). -/
def execCxlPortLost (port : Nat) (s : State) : Out :=
  .next (
    if 24 ≤ port || !vget s.front.cxl port || s.front.lostPorts.contains port then s
    else
      let dirty := s.l2.flatMap fun (p : (Nat × Nat) × List L2Line) =>
        (p.2.filter fun x => x.dirty && decide (s.portOf (x.line * 64) = some port)).map fun x => (p.1.1, x.line)
      let s := dirty.foldl (fun s x => (s.setPoison x.2 true).count x.1 1 1) s
      { s with front := { s.front with
          lostPorts := s.front.lostPorts ++ [port], excludePorts := s.front.excludePorts ++ [port] } })

/-! ### The Zilost Link (12 R270; R410-R414) -/

def State.zport (s : State) (i : Nat) : ZPort := vget s.front.zports i
def State.modPort (s : State) (i : Nat) (f : ZPort → ZPort) : State :=
  { s with front := { s.front with zports := vmod s.front.zports i f } }

/-- A peer is lost: its entry is DOWN, and slices that it is a member of abort, once the device is not frozen, in whatever state of
Table 6-3 they are (06 R139, R140). Which slices have the peer as a member is not said. -/
def State.peerLost (s : State) (p : Nat) : State :=
  let s := s.peerFalls p
  let hit := s.allRes.filter fun x => decide (x.2.gang ≠ .none) && Config.choice (s.tick + x.1.idx)
  if s.front.dbg.frozen then hit.foldl (fun s x => s.modRes x.1 fun y => { y with gangLost := true }) s
  else hit.foldl (fun s x => s.gangAbort x.1) s

/-- A port goes down. -/
def ZPort.dropped (z : ZPort) : ZPort := { z with up := false, outq := [], waitingSince := none, withheld := .replicate 4 0 }
/-- PEER_DOWN (12 R270): a peer that fails, resets or powers down takes every port that reaches it down with it (R412). -/
def execPeerDown (peer : Nat) (s : State) : Out :=
  .next (if s.peerUp peer && decide (peer < 64) then
      let drop (z : ZPort) : ZPort := if z.peer = peer then z.dropped else z
      ({ s with front := { s.front with zports := s.front.zports.map drop } } : State).peerLost peer
    else s)

/-- Cycles of the link timeout. -/
def State.ltoCycles (s : State) : Nat := s.front.lto * Config.cyclesPerMicrosecond

def chanNum : LinkChan → Nat
  | .req => 0
  | .rsp => 1
  | .inv => 2
  | .ctl => 3
/-- The channel a message travels on; a returned allowance travels in a flit's header. -/
def msgChan : LinkMsg → Option LinkChan
  | .read _ _ _ => some .req
  | .write _ _ _ _ => some .req
  | .amo _ _ _ _ _ _ _ _ => some .req
  | .pair _ _ _ => some .req
  | .rsp _ _ _ => some .rsp
  | .inv _ _ => some .inv
  | .ctl _ => some .ctl
  | .allowance _ _ => none
/-- Since when the message waits that has waited longest for an allowance at a port. -/
def ZPort.oldest (z : ZPort) : Option Nat := ((z.outq.filter fun m => (msgChan m.2).isSome).map (·.1)).min?

/-- LINK_TIMEOUT: a port that heard nothing for LTO, or at which a message has waited LTO for an allowance, is down; its peer is DOWN when
no port reaches it (R412). -/
def execLinkTimeout (port : Nat) (s : State) : Out :=
  .next (
    let z := s.zport port
    let silent := decide (z.heardAt + s.ltoCycles ≤ s.cyc)
    let stuck := z.oldest.any fun c => decide (c + s.ltoCycles ≤ s.cyc)
    if !z.up || !(silent || stuck) then s
    else
      let s := s.modPort port ZPort.dropped
      if s.portTo z.peer then s else s.peerLost z.peer)

/-- Send what waits at a port while its channel holds an allowance: RSP and INV never wait behind REQ (R411). A frozen device grants no
allowance (19 R385). -/
def sendAll (frozen : Bool) : List (Nat × LinkMsg) → Vector Nat 4 → List (Nat × LinkMsg) × Vector Nat 4
  | [], v => ([], v)
  | m :: ms, v => match msgChan m.2 with
    | none => if frozen then
        let (l, v) := sendAll frozen ms v
        (m :: l, v)
      else sendAll frozen ms v
    | some c =>
      if 0 < vget v (chanNum c) then sendAll frozen ms (vmod v (chanNum c) (· - 1))
      else
        let (l, v) := sendAll frozen ms v
        (m :: l, v)
def State.sendPort (s : State) (i : Nat) : State :=
  let frozen := s.front.dbg.frozen
  s.modPort i fun z =>
    let (l, v) := sendAll frozen z.outq z.allow
    let z := { z with outq := l, allow := v, sentAt := s.cyc }
    { z with waitingSince := z.oldest }

/-- IDLE_FLIT (R412). -/
def execIdleFlit (port : Nat) (s : State) : Out := .next (if (s.zport port).up then s.sendPort port else s)
/-- FLIT_RETRY: link-level retry, which no program sees (R410). -/
def execFlitRetry (port : Nat) (s : State) : Out := .next (s.modPort port fun z => { z with resent := z.resent + 1 })

/-- Give the sender back the allowance its message used; a frozen device withholds it (19 R385). -/
def State.allowBack (s : State) (port : Nat) (c : LinkChan) : State :=
  if s.front.dbg.frozen then s.modPort port fun z => { z with withheld := vmod z.withheld (chanNum c) (· + 1) }
  else s.modPort port fun z => { z with outq := z.outq ++ [(s.cyc, .allowance c 1)] }

/-- Send a peer the response to its message, on the port it came by. -/
def State.respond (s : State) (port p : Nat) (bs : List Byte) : State :=
  s.modPort port fun z => { z with outq := z.outq ++ [(s.cyc, .rsp p bs.length (lineOf bs))] }

/-- A peer answers: bytes answer the oldest load or AMO that it has not answered, no bytes the oldest store or invalidation. A requester that
asks after it takes the answer then; the records that wait on a line that peers have dropped are tested. The manual gives a response no
name of what it answers (DESIGN CHOICE, log entry 9). -/
def State.peerAnswers (s : State) (p len : Nat) (data : BitVec 512) : State :=
  let fits (x : Sent) : Bool := if len = 0 then x.kind = .write || x.kind = .inv else x.kind = .read || x.kind = .amo
  match s.sent.find? fun x => decide (x.peer = p) && !x.answered && fits x with
  | none => s
  | some x =>
    let got := lineWith 0 x.off ((lineBytes data).take len)
    let s : State := if x.asks then { s with sent := s.sent.replace x { x with answered := true, data := got } }
      else { s with sent := s.sent.erase x }
    if x.kind = .inv then s.retest x.line else s

/-- A peer's access of at most one line at its home slice, through a mapping with T = 0 (R413): none while the line has no way, while it
is behind a lost port or beyond the pool, or while other copies have still to be dropped (17 R350). -/
def State.peerAccess (s : State) (pa len : Nat) (f : State → State) : Option State :=
  if len = 0 || 64 < pa % 64 + len || 2 ^ 55 < pa + len || s.offPool (pa + len - 1) || s.portGone pa || s.recalling (pa / 64) then none
  else (s.l2Bring (pa / 64)).map f
/-- A peer's AMO, one access at its home: a poisoned line is not written (13 R290, R295). -/
def State.peerAmoHere (s : State) (pa : Nat) (a : Acc) : State :=
  let line := pa / 64
  if s.poisoned line then s
  else
    let ws := amoWrites a (s.line line)
    if ws.isEmpty then s.retest line else ws.foldl (fun s w => s.homeStore (line * 64 + w.1) false w.2) s

/-- ZILOST_LINK_MESSAGE (R411, R413; 19 R385): a request of an UP peer performs at its home slice through a mapping with
T = 0 and is answered; an invalidation drops a copy and is answered; while the device is frozen it takes no new request and gives no
allowance. The answer to a read says nothing of poison (log entry 9). -/
def execZilostLinkMessage (port : Nat) (m : LinkMsg) (s : State) : Out :=
  .next (
    let z := s.zport port
    let from_ (p : Nat) : Bool := decide (z.peer = p) && s.peerUp p
    if !z.up then s
    else
      let s := s.modPort port fun z => { z with heardAt := s.cyc }
      let frozen := s.front.dbg.frozen
      match m with
      | .read p pa len =>
        if frozen || !from_ p then s
        else match s.peerAccess pa len fun s => s.modL2 (pa / 64) fun x => { x with peerBit := true } with
          | none => s
          | some s => (s.respond port p (s.mem.readBytes pa len)).allowBack port .req
      | .write p pa len data =>
        if frozen || !from_ p then s
        else match s.peerAccess pa len fun s => s.homeStore pa false ((lineBytes data).take len) with
          | none => s
          | some s => (s.respond port p []).allowBack port .req
      | .amo p pa op w n signed b c =>
        if frozen || !from_ p || w = 0 then s
        else match s.peerAccess pa (w * n) fun s => s.peerAmoHere pa (.amo op w n (pa % 64) signed b c) with
          | none => s
          | some s' => (s'.respond port p (s.mem.readBytes pa (w * n))).allowBack port .req
      | .pair p pa status =>
        if frozen || !from_ p then s
        else match s.peerAccess pa 16 fun s =>
            if s.poisoned (pa / 64) then s
            else s.homeStore pa false (leBytes 8 (leNat (s.mem.readBytes pa 8) + 1) ++ leBytes 8 status) with
          | none => s
          | some s => (s.respond port p []).allowBack port .req
      | .rsp p len data => (if from_ p then s.peerAnswers p len data else s).allowBack port .rsp
      | .inv p line =>
        let s : State := { s.staleReads p line with
          rdc := s.rdc.filter fun (c : RdcLine) => !(decide (c.line = line) && c.peer.any fun (q : Nat × Nat) => decide (q.1 = p)) }
        (if from_ p then s.respond port p [] else s).allowBack port .inv
      | .ctl p =>
        let s := if (vget s.front.peers p).enrolled && decide (z.peer = p) && Config.choice s.tick then s.peerRises p else s
        s.allowBack port .ctl
      | .allowance c n =>
        (s.modPort port fun z => { z with allow := vmod z.allow (chanNum c) (· + n) }).sendPort port)

/-- ZILOST_PORT_UP: a port comes up; an enrolled peer it reaches becomes UP, once that peer's host has enrolled this device
(R413). -/
def execZilostPortUp (port : Nat) (peer lanes : Nat) (s : State) : Out :=
  .next (
    if 12 ≤ port || 64 ≤ peer || !s.booted || (s.zport port).lanes < 2 then s
    else
      let n := min (lanesUsed lanes) (s.zport port).lanes
      if n = 0 then s
      else
        let s := s.modPort port fun z => { z with up := true, peer, lanes := n, heardAt := s.cyc, outq := [], waitingSince := none
                                                  withheld := .replicate 4 0 }
        if (vget s.front.peers peer).enrolled && Config.choice s.tick then s.peerRises peer else s)

/-! ### Attestation (R417) -/

/-- Kinds of SPDM responses, in the order R417 lists the requests; 255 is a refusal. -/
def State.spdmReply (s : State) (link : Nat) (stage : SpdmStage) (kind : Nat) (bs : List Byte) : State :=
  { s with front := { s.front with spdm := vset s.front.spdm link { stage, reply := some (kind, bs) } } }
def State.spdmAt (s : State) (link : Nat) : SpdmStage := (vget s.front.spdm link).stage
/-- What a response carries beyond what R417 states. -/
def State.spdmExtra (s : State) (kind : Nat) : List Byte := leBytes 96 (Config.spdmPayload kind s.tick).toNat
/-- Refuse a request: nothing else changes. -/
def State.spdmRefuse (s : State) (link : Nat) : State := s.spdmReply link (s.spdmAt link) 255 []
/-- Has negotiation succeeded? -/
def SpdmStage.ready : SpdmStage → Bool
  | .start => false
  | .version => false
  | .capabilities => false
  | .negotiated => true
  | .exchanged => true
  | .session => true
def State.spdmReady (s : State) (link : Nat) : Bool := (s.spdmAt link).ready

/-- GET_VERSION: the connection begins anew. -/
def execGetVersion (link : Nat) (s : State) : Out := .next (s.spdmReply link .version 0 (s.spdmExtra 0))
/-- GET_CAPABILITIES. -/
def execGetCapabilities (link : Nat) (s : State) : Out :=
  .next (if s.spdmAt link = .version then s.spdmReply link .capabilities 1 (s.spdmExtra 1) else s.spdmRefuse link)
/-- NEGOTIATE_ALGORITHMS: the offer must hold the device's algorithms. -/
def execNegotiateAlgorithms (link : Nat) (offer : SpdmOffer) (s : State) : Out :=
  .next (if s.spdmAt link = .capabilities && offer.p384 && offer.sha384 && offer.aes256 then
      s.spdmReply link .negotiated 2 (s.spdmExtra 2) else s.spdmRefuse link)
/-- GET_DIGESTS. -/
def execGetDigests (link : Nat) (s : State) : Out :=
  .next (if s.spdmReady link then s.spdmReply link (s.spdmAt link) 3 (s.spdmExtra 3) else s.spdmRefuse link)
/-- GET_CERTIFICATE: slot 0 alone is populated. -/
def execGetCertificate (link slot : Nat) (s : State) : Out :=
  .next (if s.spdmReady link && slot = 0 then s.spdmReply link (s.spdmAt link) 4 (s.spdmExtra 4) else s.spdmRefuse link)
/-- CHALLENGE: a signature that covers the nonce, by the device attestation key. -/
def execChallenge (link slot : Nat) (nonce : BitVec 256) (s : State) : Out :=
  .next (if s.spdmReady link && slot = 0 then
      s.spdmReply link (s.spdmAt link) 5 (leBytes 96 (Config.signature (leBytes 32 nonce.toNat ++ s.spdmExtra 5)).toNat)
    else s.spdmRefuse link)
/-- GET_MEASUREMENTS: indices 1 to 8 return MR0 to MR7 as raw digests. -/
def execGetMeasurements (link index : Nat) (s : State) : Out :=
  .next (if s.spdmReady link && decide (1 ≤ index ∧ index ≤ 8) then
      s.spdmReply link (s.spdmAt link) 6 (leBytes 48 (vget s.front.mr (index - 1)).toNat)
    else s.spdmRefuse link)
/-- KEY_EXCHANGE. -/
def execKeyExchange (link slot : Nat) (exchange : BitVec 768) (s : State) : Out :=
  .next (if s.spdmReady link && slot = 0 then
      s.spdmReply link .exchanged 7 (leBytes 96 (Config.signature (leBytes 96 exchange.toNat ++ s.spdmExtra 7)).toNat)
    else s.spdmRefuse link)
/-- Does a FINISH's code verify? The session's keys are not modelled. -/
def State.macGood (s : State) (mac : BitVec 384) : Bool := Config.choice (s.tick + mac.toNat)
/-- FINISH: the session is set up if the code verifies. -/
def execFinish (link : Nat) (mac : BitVec 384) (s : State) : Out :=
  .next (if s.spdmAt link = .exchanged && s.macGood mac then s.spdmReply link .session 8 (s.spdmExtra 8) else s.spdmRefuse link)

/-! ### Power (R418, R419) -/

/-- Leave that residencies hold. -/
def State.leaveHeld (s : State) : Nat := (s.allRes.map fun p => p.2.classLeave + p.2.explicitLeave).sum
/-- PWRSTAT as of its last update (Table 21-4). -/
def State.pwrstat (s : State) : BitVec 64 :=
  BitVec.ofNat 64 (s.front.pwr.toNat + s.front.pool % 2 ^ 16 * 2 ^ 16 + s.front.shownHeld % 2 ^ 16 * 2 ^ 32 + s.front.tout.toNat * 2 ^ 48 +
    s.front.shownLevel * 2 ^ 56)

/-- PWRSTAT_UPDATE: once in a millisecond. -/
def execPwrstatUpdate (pwr tout : BitVec 16) (s : State) : Out :=
  .next (if s.cyc < s.front.lastPwrstat + 1000 * Config.cyclesPerMicrosecond then s
    else { s with front := { s.front with pwr, tout := tout.setWidth 8, shownHeld := s.leaveHeld, shownLevel := s.front.level
                                          lastPwrstat := s.cyc } })

/-- POWER_LEVEL_CHANGE: A is 1,024 at LEVEL 0, lowered by some measure at 1, 64 at 2; vector 12. -/
def execPowerLevelChange (level : Nat) (s : State) : Out :=
  .next (
    if 2 < level || level = s.front.level then s
    else
      let cut := if level = 0 then 0 else if level = 1 then Config.freeNat s.tick % 2881 else 2880
      ({ s with front := { s.front with level, levelSince := s.cyc, rateCut := cut } }).irq 12)

/-- THERMAL_POWERDOWN: LEVEL 2 for a second, or the trip temperature: as a device reset. -/
def execThermalPowerdown (s : State) : Out :=
  .next (
    let long := s.front.level = 2 && decide (s.front.levelSince + 1000000 * Config.cyclesPerMicrosecond ≤ s.cyc)
    if long || Config.tripTemperature ≤ s.front.tout.toNat then s.deviceReset else s)

end Sys2Proof.Machine
end

