-- ==== Sys2Proof/Machine/Sampling.lean ====
section
/-! DEFINITION. The sampling unit: SPADD, the top-k array, CUMT; and HOLD and PHASE (16 R331-R338; 11 R232). -/

namespace Sys2Proof.Machine

/-! ### SPADD (16 R334) -/

/-- Change the sampling unit of an FE. -/
def State.modSamp (s : State) (f : FeId) (k : Sampling → Sampling) : State := s.modFe f fun x => { x with samp := k x.samp }

/-- What the entries of the pair register do to a logit token, from entry `j` on: the token, the next entry, entries
dropped out of order, and whether an entry waits for a later token. -/
def spaddEntries (m b : Nat) (pr : Line) : Nat → Nat → List Nat → Nat → List Nat × Nat × Nat × Bool
  | 0, j, x, bad => (x, j, bad, false)
  | n + 1, j, x, bad =>
    if 8 ≤ j then (x, j, bad, false)
    else
      let idx := lane pr (2 * j)
      if idx = 0xFFFFFFFF then spaddEntries m b pr n (j + 1) x bad
      else if idx < b then spaddEntries m b pr n (j + 1) x (bad + 1)
      else if idx < b + 16 then
        spaddEntries m b pr n (j + 1) (x.set (idx - b) (addPats (fmtOf 10) m (x.getD (idx - b) 0) (lane pr (2 * j + 1)))) bad
      else (x, j, bad, true)

/-- The merging loop on the tokens at hand: the token when it completes, or the partial token when it must wait. -/
def State.spaddMerge (s : State) (f : FeId) (plane port m b : Nat) : Nat → List Nat → List Nat × Bool × State
  | 0, x => (x, false, s)
  | n + 1, x =>
    let u := (s.fe f).samp
    match u.pr with
    | some pr =>
      let (x, j, bad, later) := spaddEntries m b pr 8 u.prj x 0
      let s := (s.modFe f fun y => { y with pairOrder := y.pairOrder + BitVec.ofNat 32 bad }).count f.die 7 bad
      if later then (x, true, s.modSamp f fun u => { u with prj := j })
      else (s.modSamp f fun u => { u with pr := none, prj := 0 }).spaddMerge f plane port m b n x
    | none =>
      if u.lstate = .ended then (x, true, s)
      else if s.heldHead f port then (x, false, s)
      else match (vget (s.plane f plane).inp port).fifo with
        | [] => (x, false, s)
        | h :: _ =>
          if h.kind = 6 then (x, false, s)
          else if h.kind = 5 then (x, true, s.modSamp f fun u => { u with lstate := .ended })
          else
            let s := s.takeHead f plane port h
            if h.kind ≠ 0 then (x, true, s.modSamp f fun u => { u with lstate := .ended })
            else (s.modSamp f fun u => { u with pr := some h.data, prj := 0 }).spaddMerge f plane port m b n x

/-- Pass over what is left of an old list: tokens up to and including the next END0-END3, stopping at EOS; done, or
waiting for more. -/
def State.spaddSkip (s : State) (f : FeId) (plane port : Nat) : Nat → Bool × State
  | 0 => (false, s)
  | n + 1 => match (vget (s.plane f plane).inp port).fifo with
    | [] => (false, s)
    | h :: _ =>
      if s.heldHead f port then (false, s)
      else if h.kind = 5 then (true, s)
      else if h.kind = 6 then (false, s)
      else
        let s := s.takeHead f plane port h
        if h.kind = 1 || h.kind = 2 || h.kind = 3 || h.kind = 4 then (true, s) else s.spaddSkip f plane port n

/-- SPADD: it may stop for tokens; the partial token then stands at its operand. -/
def execSpadd (P : BitVec 3) (q : BitVec 1) (v : BitVec 2) (u t : BitVec 9) (s : State) : Out :=
  .next (s.element [.a, .b] (q = 1) [t, u] fun g val s =>
    let f := s.curFe
    let m := modeOf (s.plane f g.plane).rounding v.toNat
    let b := lane (val .b) 0
    let port := P.toNat
    let n := (vget (s.plane f g.plane).inp port).fifo.length
    let stage (s : State) (k : Nat) : State := s.modFiring f g.plane fun h => { h with spadding := k }
    let samp := (s.fe f).samp
    let fresh := samp.lstate = .start || decide (b ≤ samp.lastBase)
    let k := if g.spadding ≠ 0 then g.spadding else if fresh && samp.lstate = .opened then 1 else 2
    let s := if g.spadding = 0 && fresh && k = 2 then s.modSamp f fun u => { u with pr := none, prj := 0, lstate := .opened }
             else s
    let (ok, s) := if k = 1 then s.spaddSkip f g.plane port (n + 1) else (true, s)
    if !ok then .wait (stage s 1)
    else
      let s := if k = 1 then s.modSamp f fun u => { u with pr := none, prj := 0, lstate := .opened } else s
      let (x, done, s) := s.spaddMerge f g.plane port m b (2 * n + 3) ((List.range 16).map (lane (val .a)))
      if done then .value (stage (s.modSamp f fun u => { u with lastBase := b }) 0) (ofLanes x)
      else .wait (stage (s.modFiring f g.plane fun h =>
        { h with dels := mapSet h.dels (g.slot, .a) (.value (ofLanes x)) }) 2))

/-! ### Candidates (16 R335, R336) -/

/-- Candidates of a token, empty ones left out. -/
def candsOf (x : Line) : List (Option Cand) := (List.range 8).map fun j =>
  if lane x (2 * j + 1) = 0xFFFFFFFF then none
  else some ⟨BitVec.ofNat 32 (lane x (2 * j)), BitVec.ofNat 32 (lane x (2 * j + 1))⟩

/-- A token of up to eight candidates, empty ones after them. -/
def candToken (cs : List Cand) : Line :=
  ofLanes ((List.range 8).flatMap fun j => match cs[j]? with
    | some c => [c.v.toNat, c.idx.toNat]
    | none => [0xFF800000, 0xFFFFFFFF])

/-- Does one candidate rank above another (R335)? -/
def Cand.above (a b : Cand) : Bool :=
  let x := (fmtOf 10).val a.v.toNat
  let y := (fmtOf 10).val b.v.toNat
  if x.isNan != y.isNan then y.isNan
  else if y.lt x then true
  else if x.lt y then false
  else decide (a.idx.toNat < b.idx.toNat)

/-- Insert into a list in rank order, behind those that rank above it or alike. -/
def Cand.insert (c : Cand) : List Cand → List Cand
  | [] => [c]
  | d :: ds => if c.above d then c :: d :: ds else d :: c.insert ds

/-- TOPK.INS: the best 16 stay, the next eight are delivered. -/
def execTopkIns (q : BitVec 1) (u t : BitVec 9) (s : State) : Out :=
  .next (s.element [.a] (q = 1) [t, u] fun _ val s =>
    let f := s.curFe
    let all := ((candsOf (val .a)).filterMap id).foldl (fun cs c => c.insert cs) (s.fe f).samp.cells
    .value (s.modSamp f fun u => { u with cells := all.take 16 }) (candToken (all.drop 16)))

/-- TOPK.DRN: the best eight are delivered and leave. -/
def execTopkDrn (q : BitVec 1) (u t : BitVec 9) (s : State) : Out :=
  .next (s.element [] (q = 1) [t, u] fun _ _ s =>
    let f := s.curFe
    let cells := (s.fe f).samp.cells
    .value (s.modSamp f fun u => { u with cells := cells.drop 8 }) (candToken (cells.take 8)))

/-! ### CUMT (16 R337, R338) -/

/-- RoundTo(f32, e^x, RNE) for x = ± n × 2^e / d, not zero (R338). -/
def expRound (neg : Bool) (n : Nat) (e : Int) (d : Nat) (key : Nat) : Nat :=
  let f := fmtOf 10
  let num := n * 2 ^ e.toNat
  let den := d * 2 ^ (-e).toNat
  if 104 * den ≤ num then (if neg then 0 else f.infBits)
  else firstAgreed 1 key precisions fun p =>
    let mag := num * 2 ^ p / den
    let xlo : Int := if neg then -(mag + 1 : Nat) else mag
    let xhi : Int := xlo + 1
    let l := ln2Bounds p
    let k : Int := xlo / (l.2 : Int) - 1
    let rlo := if 0 ≤ k then xlo - k * l.2 else xlo - k * l.1
    let rhi := if 0 ≤ k then xhi - k * l.1 else xhi - k * l.2
    let b := expBounds p ((max rlo 0).toNat, rhi.toNat)
    f.agree 0 false b.1 b.2 (k - p)

/-- q[j] of R338 when T is above zero and v, m are neither NaN nor −∞, m finite. -/
def cumtWeight (v m T : Nat) : Nat :=
  let f := fmtOf 10
  match sumVals 0 [f.val v, (f.val m).flip], f.val T with
  | .fin neg n e, .fin _ mt et => if n = 0 then 0x3F800000 else expRound neg n (e - et) mt (v + 2 ^ 32 * m + 2 ^ 64 * T)
  | .fin _ _ _, _ => 0x3F800000
  | _, .inf _ => Config.undecidedRounding 1 (v + 2 ^ 32 * m + 2 ^ 64 * T)
  | _, _ => f.infBits

/-- `Choose` (R338). -/
def choose (buf : List Cand) (T p u : Nat) : Line :=
  let f := fmtOf 10
  let val (x : Nat) : Val := f.val x
  let m := (buf.headD default).v.toNat
  if buf.isEmpty || (val m).isNan || val m = .inf true then ofLanes [0xFFFFFFFF, 0xFFFFFFFF, 0, 0]
  else
    let zero := Val.fin false 0 0
    let q := buf.zipIdx.map fun c =>
      let v := c.1.v.toNat
      if (val T).isNan || (val T).le zero then (if c.2 = 0 then 0x3F800000 else 0)
      else if (val v).isNan || val v = .inf true then 0
      else if val m = .inf false then (if val v = .inf false then 0x3F800000 else 0)
      else cumtWeight v m T
    let S := (q.foldl (fun (r : List Nat × Nat) x =>
      let t := addPats f 0 r.2 x
      (r.1 ++ [t], t)) ([], 0)).1
    let last := S.getD (S.length - 1) 0
    let p := if (val p).isNan || (val 0x3F800000).lt (val p) then 0x3F800000 else p
    let atLeast (t : Nat) (n : Nat) : Option Nat := (List.range n).find? fun j => (val t).le (val (S.getD j 0))
    let n := if (val p).le zero then 1
             else 1 + (atLeast (f.roundVal 0 (mulVal (val p) (val last))) S.length).getD (S.length - 1)
    let u := if (val u).isNan || (val u).lt zero then 0 else u
    let total := S.getD (n - 1) 0
    let r := (atLeast (f.roundVal 0 (mulVal (val u) (val total))) n).getD (n - 1)
    ofLanes [(buf.getD r default).idx.toNat, r, n, total]

/-- CUMT: collects candidates, and in the firing that completes the request delivers the choice. -/
def execCumt (q : BitVec 1) (u t : BitVec 9) (s : State) : Out :=
  .next (s.element [.a, .b] (q = 1) [t, u] fun _ val s =>
    let f := s.curFe
    let par (k : Nat) : Nat := lane (val .b) k
    let kk := min (max (par 3) 1) 256
    let buf := (s.fe f).samp.buf
    let cs := candsOf (val .a)
    let new := ((cs.take (kk - buf.length)).takeWhile Option.isSome).filterMap id
    let stop := decide (new.length < (cs.take (kk - buf.length)).length)
    let buf := buf ++ new
    if buf.length < kk && !stop then .quiet (s.modSamp f fun u => { u with buf := buf })
    else .value (s.modSamp f fun u => { u with buf := [] }) (choose buf (par 0) (par 1) (par 2)))

/-! ### HOLD and PHASE (11 R232) -/

/-- HOLD: every token of the firing carries SH (R229). -/
def execHold (q : BitVec 1) (s : State) : Out :=
  .next (s.element [] (q = 1) [] fun g _ s =>
    .quiet ((s.modFiring s.curFe g.plane fun h => { h with sh := true }).restamp s.curFe g.plane))

/-- PHASE: lane 0 is the firing's TAG. -/
def execPhase (u t : BitVec 9) (s : State) : Out :=
  .next (s.element [] false [t, u] fun g _ s => .value s (ofLanes [((s.firingTag s.curFe g).getD 0).toNat]))

end Sys2Proof.Machine
end

