-- ==== Sys2Proof/Machine/Dispatch.lean ====
section
/-! DEFINITION. One arm per instruction: a direct call of its meaning. -/

namespace Sys2Proof.Machine

def exec (i : Instr) (s : State) : Host.Outcome State Fault Refusal :=
  match i with
  | .add d a b => Sys2Proof.Machine.execAdd d a b s
  | .sub d a b => Sys2Proof.Machine.execSub d a b s
  | .and d a b => Sys2Proof.Machine.execAnd d a b s
  | .or d a b => Sys2Proof.Machine.execOr d a b s
  | .xor d a b => Sys2Proof.Machine.execXor d a b s
  | .andn d a b => Sys2Proof.Machine.execAndn d a b s
  | .shl d a b => Sys2Proof.Machine.execShl d a b s
  | .shr d a b => Sys2Proof.Machine.execShr d a b s
  | .shra d a b => Sys2Proof.Machine.execShra d a b s
  | .mul d a b => Sys2Proof.Machine.execMul d a b s
  | .mulh d a b => Sys2Proof.Machine.execMulh d a b s
  | .mulhZ d a b => Sys2Proof.Machine.execMulhZ d a b s
  | .div d a b => Sys2Proof.Machine.execDiv d a b s
  | .divZ d a b => Sys2Proof.Machine.execDivZ d a b s
  | .rem d a b => Sys2Proof.Machine.execRem d a b s
  | .remZ d a b => Sys2Proof.Machine.execRemZ d a b s
  | .min d a b => Sys2Proof.Machine.execMin d a b s
  | .max d a b => Sys2Proof.Machine.execMax d a b s
  | .minZ d a b => Sys2Proof.Machine.execMinZ d a b s
  | .maxZ d a b => Sys2Proof.Machine.execMaxZ d a b s
  | .slt d a b => Sys2Proof.Machine.execSlt d a b s
  | .sltZ d a b => Sys2Proof.Machine.execSltZ d a b s
  | .clz d a => Sys2Proof.Machine.execClz d a s
  | .popc d a => Sys2Proof.Machine.execPopc d a s
  | .lea d a b k => Sys2Proof.Machine.execLea d a b k s
  | .addi d a imm => Sys2Proof.Machine.execAddi d a imm s
  | .andi d a imm => Sys2Proof.Machine.execAndi d a imm s
  | .ori d a imm => Sys2Proof.Machine.execOri d a imm s
  | .xori d a imm => Sys2Proof.Machine.execXori d a imm s
  | .shiL d a n => Sys2Proof.Machine.execShiL d a n s
  | .shiR d a n => Sys2Proof.Machine.execShiR d a n s
  | .shiRa d a n => Sys2Proof.Machine.execShiRa d a n s
  | .insi d k imm => Sys2Proof.Machine.execInsi d k imm s
  | .slti d a imm => Sys2Proof.Machine.execSlti d a imm s
  | .sltiZ d a imm => Sys2Proof.Machine.execSltiZ d a imm s
  | .ld d a z o => Sys2Proof.Machine.execLd d a z o s
  | .st d a z o => Sys2Proof.Machine.execSt d a z o s
  | .amoAdd d a b z r => Sys2Proof.Machine.execAmoAdd d a b z r s
  | .amoSwap d a b z r => Sys2Proof.Machine.execAmoSwap d a b z r s
  | .amoCas d a b z r => Sys2Proof.Machine.execAmoCas d a b z r s
  | .amoMin d a b z r => Sys2Proof.Machine.execAmoMin d a b z r s
  | .amoMax d a b z r => Sys2Proof.Machine.execAmoMax d a b z r s
  | .amoAnd d a b z r => Sys2Proof.Machine.execAmoAnd d a b z r s
  | .amoOr d a b z r => Sys2Proof.Machine.execAmoOr d a b z r s
  | .amoXor d a b z r => Sys2Proof.Machine.execAmoXor d a b z r s
  | .ldAcq d a z => Sys2Proof.Machine.execLdAcq d a z s
  | .stRel a b z => Sys2Proof.Machine.execStRel a b z s
  | .fence c k p => Sys2Proof.Machine.execFence c k p s
  | .beq a b o => Sys2Proof.Machine.execBeq a b o s
  | .bne a b o => Sys2Proof.Machine.execBne a b o s
  | .blt a b o => Sys2Proof.Machine.execBlt a b o s
  | .bge a b o => Sys2Proof.Machine.execBge a b o s
  | .bltZ a b o => Sys2Proof.Machine.execBltZ a b o s
  | .bgeZ a b o => Sys2Proof.Machine.execBgeZ a b o s
  | .jal d o => Sys2Proof.Machine.execJal d o s
  | .jr d a => Sys2Proof.Machine.execJr d a s
  | .waitq a b c => Sys2Proof.Machine.execWaitq a b c s
  | .bar u p => Sys2Proof.Machine.execBar u p s
  | .tokw u p => Sys2Proof.Machine.execTokw u p s
  | .spawn a b => Sys2Proof.Machine.execSpawn a b s
  | .spat a n u p => Sys2Proof.Machine.execSpat a n u p s
  | .strmIn a n u p => Sys2Proof.Machine.execStrmIn a n u p s
  | .strmOut a n u p => Sys2Proof.Machine.execStrmOut a n u p s
  | .strmMc a b n u p => Sys2Proof.Machine.execStrmMc a b n u p s
  | .strmResume a b n u p => Sys2Proof.Machine.execStrmResume a b n u p s
  | .strmStop a u p => Sys2Proof.Machine.execStrmStop a u p s
  | .tfetch a b u p => Sys2Proof.Machine.execTfetch a b u p s
  | .trel a u p => Sys2Proof.Machine.execTrel a u p s
  | .copy a b q u p => Sys2Proof.Machine.execCopy a b q u p s
  | .pref a b u p => Sys2Proof.Machine.execPref a b u p s
  | .disc a b u p => Sys2Proof.Machine.execDisc a b u p s
  | .cfgLoad a b u p => Sys2Proof.Machine.execCfgLoad a b u p s
  | .cfgArm b u p => Sys2Proof.Machine.execCfgArm b u p s
  | .cfgSwap a u p => Sys2Proof.Machine.execCfgSwap a u p s
  | .cfgSeq a u p => Sys2Proof.Machine.execCfgSeq a u p s
  | .cfgFree u p => Sys2Proof.Machine.execCfgFree u p s
  | .splice a u p => Sys2Proof.Machine.execSplice a u p s
  | .launch a u p => Sys2Proof.Machine.execLaunch a u p s
  | .gsl a b k u p => Sys2Proof.Machine.execGsl a b k u p s
  | .rotJoin a b r u p => Sys2Proof.Machine.execRotJoin a b r u p s
  | .rotLeave a b r u p => Sys2Proof.Machine.execRotLeave a b r u p s
  | .rotSave a r u p => Sys2Proof.Machine.execRotSave a r u p s
  | .rotLoad a b r u p => Sys2Proof.Machine.execRotLoad a b r u p s
  | .rotClr a r u p => Sys2Proof.Machine.execRotClr a r u p s
  | .rotStat a b r u p => Sys2Proof.Machine.execRotStat a b r u p s
  | .sporeSet a b u p => Sys2Proof.Machine.execSporeSet a b u p s
  | .sporeFill a b u p => Sys2Proof.Machine.execSporeFill a b u p s
  | .sporeFail a b u p => Sys2Proof.Machine.execSporeFail a b u p s
  | .sporePeek a b u p => Sys2Proof.Machine.execSporePeek a b u p s
  | .kvt a b u p => Sys2Proof.Machine.execKvt a b u p s
  | .pwrAsk a b u p => Sys2Proof.Machine.execPwrAsk a b u p s
  | .pwrGive a u p => Sys2Proof.Machine.execPwrGive a u p s
  | .mfs d imm => Sys2Proof.Machine.execMfs d imm s
  | .mts a imm => Sys2Proof.Machine.execMts a imm s
  | .trap imm => Sys2Proof.Machine.execTrap imm s
  | .rte => Sys2Proof.Machine.execRte s
  | .halt => Sys2Proof.Machine.execHalt s
  | .brk imm => Sys2Proof.Machine.execBrk imm s
  | .mark imm => Sys2Proof.Machine.execMark imm s
  | .pin p k u t => Sys2Proof.Machine.execPin p k u t s
  | .pout p k => Sys2Proof.Machine.execPout p k s
  | .pctlKeep p => Sys2Proof.Machine.execPctlKeep p s
  | .pctlRelease p => Sys2Proof.Machine.execPctlRelease p s
  | .pkind p u t => Sys2Proof.Machine.execPkind p u t s
  | .mov q u t => Sys2Proof.Machine.execMov q u t s
  | .const imm T t => Sys2Proof.Machine.execConst imm T t s
  | .constw T u t => Sys2Proof.Machine.execConstw T u t s
  | .getr k t => Sys2Proof.Machine.execGetr k t s
  | .laneid T u t => Sys2Proof.Machine.execLaneid T u t s
  | .exit n => Sys2Proof.Machine.execExit n s
  | .exitc n => Sys2Proof.Machine.execExitc n s
  | .addE T q v u t => Sys2Proof.Machine.execAddE T q v u t s
  | .subE T q v u t => Sys2Proof.Machine.execSubE T q v u t s
  | .mulE T q v u t => Sys2Proof.Machine.execMulE T q v u t s
  | .mulhE T q u t => Sys2Proof.Machine.execMulhE T q u t s
  | .mad T q v u t => Sys2Proof.Machine.execMad T q v u t s
  | .andE T q u t => Sys2Proof.Machine.execAndE T q u t s
  | .orE T q u t => Sys2Proof.Machine.execOrE T q u t s
  | .xorE T q u t => Sys2Proof.Machine.execXorE T q u t s
  | .andnE T q u t => Sys2Proof.Machine.execAndnE T q u t s
  | .shlE T q v u t => Sys2Proof.Machine.execShlE T q v u t s
  | .shrE T q u t => Sys2Proof.Machine.execShrE T q u t s
  | .shraE T q u t => Sys2Proof.Machine.execShraE T q u t s
  | .minE T q u t => Sys2Proof.Machine.execMinE T q u t s
  | .maxE T q u t => Sys2Proof.Machine.execMaxE T q u t s
  | .abs T q v u t => Sys2Proof.Machine.execAbs T q v u t s
  | .clzE T q u t => Sys2Proof.Machine.execClzE T q u t s
  | .popcE T q u t => Sys2Proof.Machine.execPopcE T q u t s
  | .cmpeq T q u t => Sys2Proof.Machine.execCmpeq T q u t s
  | .cmpne T q u t => Sys2Proof.Machine.execCmpne T q u t s
  | .cmplt T q u t => Sys2Proof.Machine.execCmplt T q u t s
  | .cmple T q u t => Sys2Proof.Machine.execCmple T q u t s
  | .sel T q u t => Sys2Proof.Machine.execSel T q u t s
  | .dot4 T q v u t => Sys2Proof.Machine.execDot4 T q v u t s
  | .fadd T q v u t => Sys2Proof.Machine.execFadd T q v u t s
  | .fsub T q v u t => Sys2Proof.Machine.execFsub T q v u t s
  | .fmul T q v u t => Sys2Proof.Machine.execFmul T q v u t s
  | .fma T q v u t => Sys2Proof.Machine.execFma T q v u t s
  | .fmin T q u t => Sys2Proof.Machine.execFmin T q u t s
  | .fmax T q u t => Sys2Proof.Machine.execFmax T q u t s
  | .fabs T q u t => Sys2Proof.Machine.execFabs T q u t s
  | .fneg T q u t => Sys2Proof.Machine.execFneg T q u t s
  | .fcmpeq T q u t => Sys2Proof.Machine.execFcmpeq T q u t s
  | .fcmplt T q u t => Sys2Proof.Machine.execFcmplt T q u t s
  | .fcmple T q u t => Sys2Proof.Machine.execFcmple T q u t s
  | .frcp T q v u t => Sys2Proof.Machine.execFrcp T q v u t s
  | .frsq T q v u t => Sys2Proof.Machine.execFrsq T q v u t s
  | .fexp2 T q v u t => Sys2Proof.Machine.execFexp2 T q v u t s
  | .flog2 T q v u t => Sys2Proof.Machine.execFlog2 T q v u t s
  | .fclass T q u t => Sys2Proof.Machine.execFclass T q u t s
  | .cvt q S D v t => Sys2Proof.Machine.execCvt q S D v t s
  | .cvtsr q S D t => Sys2Proof.Machine.execCvtsr q S D t s
  | .qbfp q m S v t => Sys2Proof.Machine.execQbfp q m S v t s
  | .dqbfp q m D v t => Sys2Proof.Machine.execDqbfp q m D v t s
  | .red T q v u t => Sys2Proof.Machine.execRed T q v u t s
  | .scan T q v u t => Sys2Proof.Machine.execScan T q v u t s
  | .shuf T q u t => Sys2Proof.Machine.execShuf T q u t s
  | .bcst k T t => Sys2Proof.Machine.execBcst k T t s
  | .rotl k T t => Sys2Proof.Machine.execRotl k T t s
  | .ldE z o p k t => Sys2Proof.Machine.execLdE z o p k t s
  | .stE z o p k => Sys2Proof.Machine.execStE z o p k s
  | .amoAddE o p k t => Sys2Proof.Machine.execAmoAddE o p k t s
  | .amoSwapE o p k t => Sys2Proof.Machine.execAmoSwapE o p k t s
  | .amoCasE o p k t => Sys2Proof.Machine.execAmoCasE o p k t s
  | .amoMinE o p k t => Sys2Proof.Machine.execAmoMinE o p k t s
  | .amoMaxE o p k t => Sys2Proof.Machine.execAmoMaxE o p k t s
  | .amoAndE o p k t => Sys2Proof.Machine.execAmoAndE o p k t s
  | .amoOrE o p k t => Sys2Proof.Machine.execAmoOrE o p k t s
  | .amoXorE o p k t => Sys2Proof.Machine.execAmoXorE o p k t s
  | .ldt o p k t => Sys2Proof.Machine.execLdt o p k t s
  | .stt o p k => Sys2Proof.Machine.execStt o p k s
  | .fenceE c o p k => Sys2Proof.Machine.execFenceE c o p k s
  | .tfill p k => Sys2Proof.Machine.execTfill p k s
  | .tout p k => Sys2Proof.Machine.execTout p k s
  | .tclr k => Sys2Proof.Machine.execTclr k s
  | .bitx q k u t => Sys2Proof.Machine.execBitx q k u t s
  | .spadd P q v u t => Sys2Proof.Machine.execSpadd P q v u t s
  | .topkIns q u t => Sys2Proof.Machine.execTopkIns q u t s
  | .topkDrn q u t => Sys2Proof.Machine.execTopkDrn q u t s
  | .cumt q u t => Sys2Proof.Machine.execCumt q u t s
  | .rng T q u t => Sys2Proof.Machine.execRng T q u t s
  | .resid q u t => Sys2Proof.Machine.execResid q u t s
  | .seam B K X F => Sys2Proof.Machine.execSeam B K X F s
  | .hold q => Sys2Proof.Machine.execHold q s
  | .phase u t => Sys2Proof.Machine.execPhase u t s
  | .mma f => Sys2Proof.Machine.execMma f s
  | .mmas f => Sys2Proof.Machine.execMmas f s
  | .tadd f => Sys2Proof.Machine.execTadd f s
  | .tscl f => Sys2Proof.Machine.execTscl f s
  | .tcvt f => Sys2Proof.Machine.execTcvt f s
  | .ttrn f => Sys2Proof.Machine.execTtrn f s
  | .mtuReleasePoint f => Sys2Proof.Machine.execMtuReleasePoint f s
  | .mtuResult f => Sys2Proof.Machine.execMtuResult f s
  | .asyncDelivery t => Sys2Proof.Machine.execAsyncDelivery t s
  | .hostLaunch => Sys2Proof.Machine.execHostLaunch s
  | .place die => Sys2Proof.Machine.execPlace die s
  | .recordAged die queue pos => Sys2Proof.Machine.execRecordAged die queue pos s
  | .leaveGrant => Sys2Proof.Machine.execLeaveGrant s
  | .arm r => Sys2Proof.Machine.execArm r s
  | .threadStart r => Sys2Proof.Machine.execThreadStart r s
  | .taskStart die page => Sys2Proof.Machine.execTaskStart die page s
  | .firingStart f => Sys2Proof.Machine.execFiringStart f s
  | .planeDrain f => Sys2Proof.Machine.execPlaneDrain f s
  | .cutTake f => Sys2Proof.Machine.execCutTake f s
  | .portHeadToken f port => Sys2Proof.Machine.execPortHeadToken f port s
  | .tokenHop src => Sys2Proof.Machine.execTokenHop src s
  | .creditReturn f port => Sys2Proof.Machine.execCreditReturn f port s
  | .rateWindow r => Sys2Proof.Machine.execRateWindow r s
  | .planeSwitch r => Sys2Proof.Machine.execPlaneSwitch r s
  | .seqSwitch r => Sys2Proof.Machine.execSeqSwitch r s
  | .spliceFeSwitch f => Sys2Proof.Machine.execSpliceFeSwitch f s
  | .rotStep r rot => Sys2Proof.Machine.execRotStep r rot s
  | .slotFaultNotice r rot => Sys2Proof.Machine.execSlotFaultNotice r rot s
  | .seamPkToken r rot => Sys2Proof.Machine.execSeamPkToken r rot s
  | .memportIssue f => Sys2Proof.Machine.execMemportIssue f s
  | .accessPerform a => Sys2Proof.Machine.execAccessPerform a s
  | .waitsForChase t => Sys2Proof.Machine.execWaitsForChase t s
  | .sporeTimeout die slice pos => Sys2Proof.Machine.execSporeTimeout die slice pos s
  | .l2Fill die addr => Sys2Proof.Machine.execL2Fill die addr s
  | .pageWalk die asid va => Sys2Proof.Machine.execPageWalk die asid va s
  | .peerDown peer => Sys2Proof.Machine.execPeerDown peer s
  | .cxlPortLost port => Sys2Proof.Machine.execCxlPortLost port s
  | .streamBindingStart t => Sys2Proof.Machine.execStreamBindingStart t s
  | .streamDeliver r bind turn => Sys2Proof.Machine.execStreamDeliver r bind turn s
  | .streamTake r bind => Sys2Proof.Machine.execStreamTake r bind s
  | .engineComplete t unit pos => Sys2Proof.Machine.execEngineComplete t unit pos s
  | .waitqWake t => Sys2Proof.Machine.execWaitqWake t s
  | .waitqTimeout t => Sys2Proof.Machine.execWaitqTimeout t s
  | .guardTileIssue die entry => Sys2Proof.Machine.execGuardTileIssue die entry s
  | .gangAllReady r => Sys2Proof.Machine.execGangAllReady r s
  | .gangStart r => Sys2Proof.Machine.execGangStart r s
  | .gangAbandon r => Sys2Proof.Machine.execGangAbandon r s
  | .cutComplete r => Sys2Proof.Machine.execCutComplete r s
  | .preemptSave r => Sys2Proof.Machine.execPreemptSave r s
  | .preemptEscalate r => Sys2Proof.Machine.execPreemptEscalate r s
  | .frqPost die => Sys2Proof.Machine.execFrqPost die s
  | .uncorrectedError die kind index => Sys2Proof.Machine.execUncorrectedError die kind index s
  | .retire r => Sys2Proof.Machine.execRetire r s
  | .scrubComplete r => Sys2Proof.Machine.execScrubComplete r s
  | .deviceFreeze => Sys2Proof.Machine.execDeviceFreeze s
  | .deviceResume => Sys2Proof.Machine.execDeviceResume s
  | .stepTimeout => Sys2Proof.Machine.execStepTimeout s
  | .debugCutWithdraw => Sys2Proof.Machine.execDebugCutWithdraw s
  | .triggerApply => Sys2Proof.Machine.execTriggerApply s
  | .capturePacketHead die queue => Sys2Proof.Machine.execCapturePacketHead die queue s
  | .frqReplay die post => Sys2Proof.Machine.execFrqReplay die post s
  | .frqAbort die post => Sys2Proof.Machine.execFrqAbort die post s
  | .frqfatalClear die w => Sys2Proof.Machine.execFrqfatalClear die w s
  | .dbgstatClear w => Sys2Proof.Machine.execDbgstatClear w s
  | .breakpointWrite n e => Sys2Proof.Machine.execBreakpointWrite n e s
  | .registerWrite reg v => Sys2Proof.Machine.execRegisterWrite reg v s
  | .withdraw => Sys2Proof.Machine.execWithdraw s
  | .kill => Sys2Proof.Machine.execKill s
  | .preempt => Sys2Proof.Machine.execPreempt s
  | .asidroot => Sys2Proof.Machine.execAsidroot s
  | .ctxarea => Sys2Proof.Machine.execCtxarea s
  | .parklim => Sys2Proof.Machine.execParklim s
  | .tracering => Sys2Proof.Machine.execTracering s
  | .triggerStart => Sys2Proof.Machine.execTriggerStart s
  | .triggerStop => Sys2Proof.Machine.execTriggerStop s
  | .triggerFreeze => Sys2Proof.Machine.execTriggerFreeze s
  | .triggerResume => Sys2Proof.Machine.execTriggerResume s
  | .tracepkt => Sys2Proof.Machine.execTracepkt s
  | .debugAttach => Sys2Proof.Machine.execDebugAttach s
  | .debugDetach => Sys2Proof.Machine.execDebugDetach s
  | .debugStep => Sys2Proof.Machine.execDebugStep s
  | .debugCut => Sys2Proof.Machine.execDebugCut s
  | .auditmir => Sys2Proof.Machine.execAuditmir s
  | .auditsign => Sys2Proof.Machine.execAuditsign s
  | .summary => Sys2Proof.Machine.execSummary s
  | .linkcfg => Sys2Proof.Machine.execLinkcfg s
  | .enrol => Sys2Proof.Machine.execEnrol s
  | .enrolRemove => Sys2Proof.Machine.execEnrolRemove s
  | .mrext => Sys2Proof.Machine.execMrext s
  | .sfill => Sys2Proof.Machine.execSfill s
  | .sfail => Sys2Proof.Machine.execSfail s
  | .hcqUnknownOp => Sys2Proof.Machine.execHcqUnknownOp s
  | .auditAppend event asid detail arg => Sys2Proof.Machine.execAuditAppend event asid detail arg s
  | .boot b => Sys2Proof.Machine.execBoot b s
  | .linkTimeout port => Sys2Proof.Machine.execLinkTimeout port s
  | .idleFlit port => Sys2Proof.Machine.execIdleFlit port s
  | .flitRetry port => Sys2Proof.Machine.execFlitRetry port s
  | .ideIntegrityFail link stream => Sys2Proof.Machine.execIdeIntegrityFail link stream s
  | .ideKm link stream key => Sys2Proof.Machine.execIdeKm link stream key s
  | .getVersion link => Sys2Proof.Machine.execGetVersion link s
  | .getCapabilities link => Sys2Proof.Machine.execGetCapabilities link s
  | .negotiateAlgorithms link offer => Sys2Proof.Machine.execNegotiateAlgorithms link offer s
  | .getDigests link => Sys2Proof.Machine.execGetDigests link s
  | .getCertificate link slot => Sys2Proof.Machine.execGetCertificate link slot s
  | .challenge link slot nonce => Sys2Proof.Machine.execChallenge link slot nonce s
  | .getMeasurements link index => Sys2Proof.Machine.execGetMeasurements link index s
  | .keyExchange link slot exchange => Sys2Proof.Machine.execKeyExchange link slot exchange s
  | .finish link mac => Sys2Proof.Machine.execFinish link mac s
  | .pwrstatUpdate pwr tout => Sys2Proof.Machine.execPwrstatUpdate pwr tout s
  | .powerLevelChange level => Sys2Proof.Machine.execPowerLevelChange level s
  | .thermalPowerdown => Sys2Proof.Machine.execThermalPowerdown s
  | .illegal w => Sys2Proof.Machine.execIllegal w s
  | .fetchFault code w1 => Sys2Proof.Machine.execFetchFault code w1 s
  | .frqconsWrite die v => Sys2Proof.Machine.execFrqconsWrite die v s
  | .bar2Access off len wr => Sys2Proof.Machine.execBar2Access off len wr s
  | .zilostLinkMessage port m => Sys2Proof.Machine.execZilostLinkMessage port m s
  | .zilostPortUp port peer lanes => Sys2Proof.Machine.execZilostPortUp port peer lanes s
  | .backOffRetry q => Sys2Proof.Machine.execBackOffRetry q s

end Sys2Proof.Machine
end

