-- ==== Sys2Proof/Machine/Fetch.lean ====
section
/-! DEFINITION. Turns: what a step runs, time, and the fetch of a thread's next instruction (09 R174-R178, R182, R183;
01 R20; 19 R382-R387; log entries 1, 72). -/

namespace Sys2Proof.Machine

/-- The step gets its number, and one cycle or more passes (log entry 3). -/
def State.pass (s : State) : State := { s with tick := s.tick + 1, cyc := s.cyc + 1 + Config.stepCycles s.tick }
/-- A step begins: the trace records of the cycle before go out (19 R390), a debug cut that everything had taken by then is complete
(19 R388), and time passes. -/
def State.begin (s : State) : State := s.traceAll.debugCutTaken.pass

/-- What must happen now because its time has come: a trigger, a freeze, a resume, the one of the earliest origin first (19 R383, R387,
R389). -/
def State.dueEvent (s : State) : Option Instr :=
  let d := s.front.dbg
  let all : List (Nat × Instr) := s.front.triggers.map (fun t => (t.origin, .triggerApply)) ++
    (if d.frozen then d.resumeAt.toList.map fun c => (c, .deviceResume) else d.freezeAt.toList.map fun c => (c, .deviceFreeze))
  match all with
  | [] => none
  | e :: es =>
    let x := es.foldl (fun m e => if e.1 < m.1 then e else m) e
    if x.1 + 96 ≤ s.cyc then some x.2 else none

/-- The next turn: the head of the agenda, or the schedule's choice. -/
def State.nextTurn (s : State) : Turn × State :=
  match s.agenda with
  | t :: ts => (t, { s with agenda := ts })
  | [] => (Config.turn s.tick, s)

/-- Rows of the opcode table that are events and no instruction of a thread, a block or an MTU. -/
def Instr.isEvent (i : Instr) : Bool := (encodeWord i).isNone && (encodeRecord i).isNone

/-- The line that a thread's fetch reads, as its own accesses do: a bank, a cache, the home slice or a peer; none while it waits (R177;
12 R257-R261). -/
def State.fetchRead (s : State) (ag : Agent) (l : Leaf) (pc : Nat) : Option Served × State :=
  match s.tentCopy (s.tentReads ag.res) (l.line l.pa) with
  | none => s.readLine ag l.pa l pc
  | some c =>
    let (g, s') := s.sliceLoad ag l.pa l true
    (g.map fun g => { g with poison := (overTent (some c) g.line g.poison).2 }, s')
/-- A line with the stores to a key that a thread's fetch must see. -/
def State.codeSeen (s : State) (t : ThreadId) (key : CodeKey) (l : Line) : Line :=
  ((s.codeStores key).filter fun y => y.seenBy t (s.thr t)).foldl (fun l y => mergeLine l y.data y.mask) l
/-- A line as a thread's fetch sees it, where it has read `now` (R178; log entry 72): what it must see of the stores at its home, of those
that a bank of its residency holds, of those in its residency's tentative copy. -/
def State.fetchLine (s : State) (t : ThreadId) (l : Leaf) (pc : Nat) (now : Line) : Line :=
  let x := s.thr t
  let n := l.pa / 64
  let f := (s.bankServes x.role.res l pc).map (·.1)
  let home := if l.p then (match f with
    | some f => s.codeView t (.bank f n) now
    | none => now) else match f with
    | some f => s.codeSeen t (.bank f n) (s.codeLine t n)
    | none => s.codeLine t n
  match s.tentReads x.role.res with
  | some o => s.codeSeen t (.tent o (l.line l.pa)) home
  | none => home

/-- The word at a global address as a thread's fetch sees it (R177): faults in the order of R181; none while the fetch waits. -/
def State.fetchMem (s : State) (t : ThreadId) (pc : Nat) : Except Code (Option (BitVec 32)) × State :=
  let x := s.thr t
  if windowOf pc ≠ some .glob then (.error .badWindow, s)
  else match s.translateFor t.die x.asid pc .x with
    | .error c => (.error c, s)
    | .ok l =>
      if l.t && !l.p && s.tag (l.pa / 64) ≠ 0 then (.error .access, s)
      else match s.goneFor (.thread t) l l.pa pc with
        | some y => (.error (if !l.p && s.poisoned (l.pa / 64) then .poison else y.code), s.dropLost (.thread t))
        | none => match s.fetchRead (s.agent t) l pc with
          | (none, s') => (.ok none, s')
          | (some g, s') =>
            if g.poison then (.error .poison, s'.tookReturns (.thread t))
            else
              let own (i : Nat) : Option Byte := x.fencedByte (.glob l.pa l pc) i
              let d := s'.fetchLine t l pc g.line
              (.ok (some (BitVec.ofNat 32 (leNat ((lineSlice d (pc % 64) 4).zipIdx.map fun b => (own b.2).getD b.1)))),
                s'.tookReturns (.thread t))

/-- The word a thread fetches: a word fetched before and not refetched since may still be executed (R178). -/
def State.fetch (s : State) (t : ThreadId) (pc : Nat) : Except Code (Option (BitVec 32)) × State :=
  match s.fetchMem t pc with
  | (.ok (some w), s') => match mapFind (s.thr t).fetched pc with
    | none => (.ok (some w), s')
    | some old => (.ok (some (if old ≠ w && Config.choice s.tick then old else w)), s')
  | x => x

/-- Does a thread's fetch of its next instruction wait? -/
def State.fetchWaits (s : State) (t : ThreadId) : Bool := match (s.fetchMem t (s.thr t).pc.toNat).1 with
  | .ok none => true
  | _ => false
/-- May a thread of a core issue its next instruction now: READY, its page not paused, the debugger not stopping it (R174)? One that
waits for a pop, or for room in an engine's queue, is READY again once that is there (R182, R183). -/
def State.mayIssue (s : State) (t : ThreadId) : Bool :=
  let x := s.thr t
  x.paused.isNone && x.pushOwed.isNone && x.ending.isNone && !s.stoppedThread t && match x.status with
    | .ready => !s.fetchWaits t
    | .stalled => (match decodeControl x.word with
      | .ok i => x.unissued i && x.canIssue i
      | .error _ => false)
    | .free => false
    | .saved => false
/-- The thread that a core issues from: thread 0 whenever it is ready, else the ready thread that follows the one that issued last,
of 1 to 7 in turn (01 R20). -/
def State.coreNext (s : State) (die page : Nat) : Option ThreadId :=
  let last := mapGet 0 (s.die die).lastIssued page
  (0 :: (List.range 7).map fun k => (last + 6 + k + 1) % 7 + 1).map (fun k => (⟨die, page, k⟩ : ThreadId)) |>.find? s.mayIssue

/-- Has the instruction that a step of a thread issued retired (19 R387)? -/
def State.stepOver (s : State) (t : ThreadId) : Bool :=
  (s.front.dbg.step.any fun p => decide (p.1 = t) && p.2.2) && decide ((s.thr t).status ≠ .stalled)
/-- The step ends, and vector 10 says so. -/
def State.endStep (s : State) : State :=
  ({ s with front := { s.front with dbg := { s.front.dbg with step := none } } }).irq 10
/-- A thread's instruction issues: its core notes it, and it is traced (01 R20; 19 R387, Table 19-2). -/
def State.noteIssue (s : State) (t : ThreadId) : State :=
  let x := s.thr t
  let s := s.noteStep.modDie t.die fun d => { d with lastIssued := mapSet d.lastIssued t.page t.tid }
  s.traceRec t.die 2 x.asid (x.role.res.map (·.idx)) (s.throughDoor x.role.res) t.page t.tid 0 x.pc 0

/-- A thread fetches its word and runs it. While its pop or its room is not there the instruction has not issued (R182). -/
def State.issueAt (s : State) (t : ThreadId) : Option Instr × State :=
  let x := s.thr t
  let s := { s with front := { s.front with dbg := { s.front.dbg with
    passed := s.front.dbg.passed.filter fun p => decide (p ≠ (t, x.pc)) } } }
  match s.fetch t x.pc.toNat with
  | (.error c, s) => (some (.fetchFault c x.pc), s.noteStep.modThr t fun x => { x with word := 0 })
  | (.ok none, s) => (none, s)
  | (.ok (some w), s) =>
    let s := s.modThr t fun x => { x with word := w, fetched := mapSet x.fetched x.pc.toNat w }
    match decodeControl w with
    | .ok i => (some i, if x.canIssue i then s.noteIssue t else s)
    | .error _ => (some (.illegal w), s.noteIssue t)

/-- A thread's turn: what it executes next, if it can execute anything and its core issues from it (01 R20; R174-R182). An
instruction that a step takes up where it stands is the step's (19 R387). -/
def State.threadTurn (s : State) (t : ThreadId) : Option Instr × State :=
  let s := { s with curThread := t }
  let x := s.thr t
  if s.stepOver t then (none, s.endStep)
  else if x.status = .free || x.status = .saved || x.paused.isSome || s.stoppedThread t then (none, s)
  else match x.ending with
  | some w => (none, s.endThread t w)
  | none =>
  if !x.held.isEmpty && s.mayDeliver t then (some (.asyncDelivery t), s)
  else match x.pushOwed with
  | some i =>
    match x.pushTok i with
    | none => (none, s.noteStep)
    | some y => (none, s.noteStep.modThr t fun _ => { y with pushOwed := none, status := .ready })
  | none =>
    if x.status = .stalled then
      match decodeControl x.word with
      | .ok i =>
        if !x.unissued i then (some i, s.noteStep)
        else if s.coreNext t.die t.page = some t then (some i, s.noteIssue t)
        else (none, s)
      | .error _ => (some (.illegal x.word), s.noteStep)
    else if s.coreNext t.die t.page ≠ some t then (none, if s.fetchWaits t then (s.fetchMem t x.pc.toNat).2 else s)
    else
      let hits := if s.front.dbg.passed.contains (t, x.pc) then [] else s.pcHits x.asid x.pc
      if !hits.isEmpty && !s.front.dbg.frozen then
        let s := hits.foldl (fun s k => s.bpHit k (some (.thread t))) s
        (none, { s with front := { s.front with dbg := { s.front.dbg with passed := (t, x.pc) :: s.front.dbg.passed } } })
      else s.issueAt t

/-- The element word at the current slot of an FE's firing. -/
def Fe.slotWord (x : Fe) (g : Firing) : Option (BitVec 32) :=
  match vget (vget x.planes g.plane).blocks g.block with
  | none => none
  | some b => b.words[g.slot]?

/-- What a turn runs: an instruction of a thread, the current slot of a firing, the SEAM of an FE that fires by steps
(11 R231), an MTU record, or an event. -/
def State.runTurn (s : State) : Turn → Option Instr × State
  | .thread t => s.threadTurn t
  | .element f =>
    let s := { s with curFe := f }
    match (s.fe f).firing with
    | none =>
      let p := s.plane f (s.fe f).active
      match vget p.blocks p.sel with
      | none => (none, s)
      | some b => if !p.isSeam then (none, s)
        else match decodeElement (b.words.headD 0) with
          | .ok i => (some i, s)
          | .error _ => (none, s)
    | some g => match (s.fe f).slotWord g with
      | none => (none, s)
      | some w => match decodeElement w with
        | .ok i => (some i, s)
        | .error _ => (none, s)
  | .mtu f e =>
    let s := { s with curFe := f, curMtu := e }
    match decodeMtu (vget (vget (s.fe f).planes (s.fe f).active).recs e) with
    | .ok i => (some i, s)
    | .error _ => (none, s)
  | .event i => (if Instr.isEvent i then some i else none, s)

/-- The instruction of a step and the state it runs in: what is due, else what the turn runs. -/
def State.takeTurn (s : State) : Option Instr × State :=
  let s := s.begin
  match s.dueEvent with
  | some i => (some i, s)
  | none =>
    let (t, s) := s.nextTurn
    s.runTurn t

end Sys2Proof.Machine
end

