-- ==== Sys2Proof/Machine/Place.lean ====
section
/-! DEFINITION. Placing one instruction where the next step runs it: a control word at a thread's pc, an element word in
the slot of a firing, a record in an MTU entry (log entry 5). -/

namespace Sys2Proof.Machine

/-- The core of a thread issues from it next: thread 0 does not stand in its way, and the one before it issued last (01 R20). -/
def State.turnTo (s : State) (t : ThreadId) : State :=
  let s := if t.tid = 0 then s else s.modThr { t with tid := 0 } fun x => if x.status = .ready then { x with status := .stalled } else x
  s.modDie t.die fun d => { d with lastIssued := mapSet d.lastIssued t.page (t.tid - 1) }

/-- Place a control word at the pc of the current thread: the thread is ready and its core's next, its page translates to itself with
execute permission, and the word stands there. -/
def State.placeControl (s : State) (w : Nat) : State :=
  let t := s.curThread
  let pc := (s.thr t).pc.toNat
  let s := (s.turnTo t).modThr t fun x =>
    { x with status := .ready, paused := none, held := [], popTaken := none, pushOwed := none, waitFrom := none
             stage := 0, copied := none, ending := none, fetched := mapErase x.fetched pc }
  let page := pc / 2 ^ 16 % 2 ^ 39
  let e : TlbEntry := { die := t.die, tile := s.tlbTile t.die pc, asid := (s.thr t).asid, vpn := pc / 2 ^ 16
                        block := false, leaf := { pa := page * 2 ^ 16, x := true }, made := [] }
  let pa := page * 2 ^ 16 + pc % 2 ^ 16
  let s := s.dropCode fun k => decide (k = .home (pa / 64))
  { s with tlb := e :: s.tlb, poison := s.poison.filter fun l => decide (l ≠ pa / 64)
           mem := s.mem.writeBytes pa (leBytes 4 w), agenda := [.thread t] }

/-- Place an element word as the only slot of block 0 of the current FE's active plane, with its firing begun. -/
def State.placeElement (s : State) (w : Nat) : State :=
  let f := s.curFe
  let p := (s.fe f).active
  let s := s.modFe f fun x =>
    { x with planes := vmod x.planes p fun q => { q with blocks := vset q.blocks 0 (some ⟨0, [BitVec.ofNat 32 w]⟩) }
             firing := some { plane := p, block := 0 } }
  { s with agenda := [.element f] }

/-- Place a record in the current MTU entry of the current FE's active plane. -/
def State.placeRecord (s : State) (w : Nat) : State :=
  let f := s.curFe
  let s := s.modFe f fun x =>
    { x with planes := vmod x.planes x.active fun q => { q with recs := vset q.recs s.curMtu (BitVec.ofNat 64 w) } }
  { s with agenda := [.mtu f s.curMtu] }

/-- Place the first `nbits` bits of `w` as the instruction they encode. -/
def State.place (s : State) (nbits w : Nat) : State :=
  let v := w % 2 ^ nbits
  if nbits > 32 then s.placeRecord v
  else match decodeControl (BitVec.ofNat 32 v) with
    | .ok _ => s.placeControl v
    | .error _ => match decodeElement (BitVec.ofNat 32 v) with
      | .ok _ => s.placeElement v
      | .error _ => s.placeControl v

end Sys2Proof.Machine
end

