-- ==== Sys2Proof/Machine/Step.lean ====
section
/-! DEFINITION. One step: take a turn and execute what it runs. A turn that runs nothing passes. -/

namespace Sys2Proof.Machine

/-- One step of the device. -/
def step (s : State) : Host.Outcome State Fault Refusal :=
  match s.takeTurn with
  | (some i, s') => exec i s'
  | (none, s') => .next s'

/-- The state with an instruction placed where the next step fetches it (log entry 5). -/
def State.withFetchWord (s : State) (nbits w : Nat) : State := s.place nbits w

end Sys2Proof.Machine
end

