-- ==== Sys2Proof/Safety.lean ====
section
/-! DEFINITION. The terms in which claims are made: completion with an effect, frames of a step, states whose memories are
canonical, and plain addresses that no special case of the memory system touches. -/

namespace Sys2Proof.Machine

/-- Pool memory and the local memories of the FEs are in canonical form. -/
def State.Inv (s : State) : Prop := s.mem.wf = true ∧ s.lmem.wf = true

/-- The instruction answers a next state, of which `P` holds. -/
def Completes (i : Instr) (s : State) (P : State → Prop) : Prop := ∃ t, exec i s = .next t ∧ P t

/-! ### Frames -/

/-- Every byte of memory, of the pool and of the FEs' local memories, reads as before. -/
def State.sameMem (s t : State) : Prop := (∀ a, t.mem.read a = s.mem.read a) ∧ ∀ a, t.lmem.read a = s.lmem.read a

/-- Nothing but the record of thread `u` has changed. -/
def State.onlyThread (s t : State) (u : ThreadId) : Prop :=
  t = { s with threads := t.threads } ∧ ∀ v, v ≠ u → t.thr v = s.thr v

/-- Nothing but the record of FE `f` has changed. -/
def State.onlyFe (s t : State) (f : FeId) : Prop :=
  t = { s with fes := t.fes } ∧ ∀ g, g ≠ f → t.fe g = s.fe g

/-- Nothing but the record of residency `r` has changed. -/
def State.onlyRes (s t : State) (r : ResId) : Prop :=
  t = { s with dies := t.dies } ∧ (∀ d, d ≠ r.die → t.die d = s.die d) ∧
  t.die r.die = { s.die r.die with res := (t.die r.die).res } ∧
  ∀ k, k ≠ r.idx → mapFind (t.die r.die).res k = mapFind (s.die r.die).res k

/-- Nothing but the front end has changed. -/
def State.onlyFront (s t : State) : Prop := t = { s with front := t.front }

/-- Nothing but the record of die `d` has changed. -/
def State.onlyDie (s t : State) (d : Nat) : Prop :=
  t = { s with dies := t.dies } ∧ ∀ e, e ≠ d → t.die e = s.die e

/-- Nothing but what L2 slices and remote-data caches hold, and which requests are held at slices, has changed. -/
def State.cached (s t : State) : Prop := t = { s with l2 := t.l2, rdc := t.rdc, heldReqs := t.heldReqs }

/-! ### Retirement of a control instruction -/

/-- `x` with the fields that retirement and the clauses of an instruction touch taken from `y`: pc, status, token FIFOs,
and what notes a wait. -/
def Thread.clauses (x y : Thread) : Thread :=
  { x with pc := y.pc, status := y.status, fifo := y.fifo, returned := y.returned, popTaken := y.popTaken
           pushOwed := y.pushOwed, waitFrom := y.waitFrom, stage := y.stage, bar := y.bar, copied := y.copied }

/-- A thread whose instruction retires at `pc`, its own push apart. -/
def Thread.atRest (x : Thread) (pc : Word) : Prop :=
  x.pc = pc ∧ x.popTaken = none ∧ x.waitFrom = none ∧ x.stage = 0 ∧ x.bar = none ∧ x.copied = none

/-- The instruction without clauses of the current thread has retired at `pc` and written `v` into g[d], and nothing else
has changed: every other register, every special register, every other thread, all of memory (09 R175). -/
def State.wrote (s t : State) (d : BitVec 5) (v pc : Word) : Prop :=
  t.rd d = (if d = 0 then 0 else v) ∧ (∀ r, r ≠ d → t.rd r = s.rd r) ∧
  t.cur = { s.cur with
    g := t.cur.g, pc := pc, status := .ready, popTaken := none, waitFrom := none, stage := 0, bar := none, copied := none } ∧
  s.onlyThread t s.curThread ∧ s.sameMem t

/-- As `wrote`, and the caches hold what the instruction has read. -/
def State.fetchedWrote (s t : State) (d : BitVec 5) (v pc : Word) : Prop := ∃ m, s.cached m ∧ m.wrote t d v pc

/-- The instruction of the current thread has retired at `pc`; no register but g[d], which holds `v`, and no special
register of the thread has changed, nor its engine queues and its store buffer; what its fetch may still see is not said. -/
def State.gave (s t : State) (d : BitVec 5) (v pc : Word) : Prop :=
  t.curThread = s.curThread ∧ t.rd d = (if d = 0 then 0 else v) ∧ (∀ r, r ≠ d → t.rd r = s.rd r) ∧ t.cur.atRest pc ∧
  t.cur = { s.cur.clauses t.cur with g := t.cur.g, fetched := t.cur.fetched, acquiredAt := t.cur.acquiredAt }

/-- The current thread's instruction has retired after itself: g[d] holds `v`, every other register is as before. -/
def State.wentOn (s t : State) (d : BitVec 5) (v : Word) : Prop :=
  t.curThread = s.curThread ∧ t.cur.pc = s.cur.pc + 4 ∧ t.rd d = (if d = 0 then 0 else v) ∧ ∀ r, r ≠ d → t.rd r = s.rd r

/-- The pop clause of an instruction that unit `u` executes is met at once (09 R183). -/
def State.canPop (s : State) (p : BitVec 3) (u : Nat := 0) : Prop :=
  p = 0 ∨ s.cur.popTaken.isSome = true ∨ 0 < vget s.cur.fifo (fifoIdx (p.toNat - 1) u)

/-! ### Traps -/

/-- The current thread has a handler and may take a trap (09 R179). -/
def State.canTrap (s : State) : Prop := s.cur.tvec ≠ 0 ∧ s.cur.intrap = false

/-- The current thread has taken a trap of the code with words 1 to 3, its return address being `ret` (09 R179): TREC and
TPC hold them, INTRAP is set, the handler runs; every register, TVEC, the ASID, its store buffer, every other thread and all of
memory are as before. -/
def State.trapped (s t : State) (c : Code) (w1 w2 w3 ret : Word) : Prop :=
  t.curThread = s.curThread ∧ t.cur.pc = s.cur.tvec ∧ t.cur.tpc = codeAddr ret ∧ t.cur.intrap = true ∧
  t.cur.trec = rec8 [wordN (codeNum c + s.cur.word.toNat * 2 ^ 32), w1, w2, w3] ∧ t.cur.status = .ready ∧
  (∀ r, t.rd r = s.rd r) ∧ t.cur.tvec = s.cur.tvec ∧ t.cur.asid = s.cur.asid ∧ t.cur.sbuf = s.cur.sbuf ∧
  (∀ v, v ≠ s.curThread → t.thr v = s.thr v) ∧ s.sameMem t

/-! ### Plain addresses -/

/-- No debugger is attached and no die captures: accesses touch nothing of the front end and no trace ring. -/
def State.unobserved (s : State) : Prop :=
  s.front.dbg.attached = [] ∧ ∀ d, (s.die d).trace.log = [] ∧ (s.die d).trace.door = []

/-- The caches agree on a line for an agent: its set has a way for it, its die's remote-data cache holds its present bytes if it
holds it, and no peer holds it. -/
def State.calmLine (s : State) (ag : Agent) (line : Nat) : Prop :=
  (s.l2Bring line).isSome = true ∧
  (∀ c, s.rdcFind ag.die line none = some c → c.data = s.line line ∧ c.poison = false) ∧
  (∀ x, s.l2Find line = some x → x.peerBit = false)

/-- `n` bytes at global address `va`, naturally aligned, that translate through `l` for the agent: pool memory that is
there, a cell that holds VALUE, no bank, no tentative copies, no poison, no return of a park to take, no request at a peer. -/
def State.plainAt (s : State) (ag : Agent) (va n : Nat) (l : Leaf) : Prop :=
  va % n = 0 ∧ 0 < n ∧ n ≤ 64 ∧ 64 % n = 0 ∧ va < 0x80000000000000 ∧ va + n ≤ 0x80000000000000 ∧
  l.pa % 64 = va % 64 ∧ s.translate ag.die ag.asid va = .ok l ∧ l.p = false ∧ s.portGone l.pa = false ∧
  (l.t = true → s.tag (l.pa / 64) = 0 ∧ s.parkedAt ag.who (l.pa / 64) = false) ∧ s.bankServes ag.res l va = none ∧
  s.tentReads ag.res = none ∧ s.tentWrites ag.res = none ∧ s.poisoned (l.pa / 64) = false ∧
  s.returns = [] ∧ s.unobserved ∧ s.calmLine ag (l.pa / 64) ∧ s.sent = [] ∧ s.passesBank ag.res = false

/-- The current thread's instruction has read the `n`-byte record at `a`, whose bytes are `bs`: it is copied (06 R142), and the
caches hold its lines. -/
def State.havingRead (s : State) (a : Word) (n : Nat) (bs : List Byte) : State :=
  (s.recordRead s.curAgent a.toNat n).2.modCur fun x => { x with copied := some bs }

/-- A completion pair at `done` lands at physical address `l.pa` (06 R133): it translates with W, and its line is there, holds VALUE
and is not poisoned. -/
def State.pairLands (s : State) (die : Nat) (asid : BitVec 16) (done : Word) (l : Leaf) : Prop :=
  done ≠ 0 ∧ windowOf done.toNat = some .glob ∧ s.translateFor die asid done.toNat .w = .ok l ∧ l.p = false ∧
  s.portGone l.pa = false ∧ s.poisoned (l.pa / 64) = false ∧ (l.t = true → s.tag (l.pa / 64) = 0)
/-- The bytes of a completion pair that holds a count, after it has been raised by 1 and given a status. -/
def pairBytes (count status : Nat) : List Byte := leBytes 8 (count + 1) ++ leBytes 8 status

/-! ### Element instructions -/

/-- A firing of the current FE stands at a slot, no earlier result holds back what it delivers, and a firing that waits
beneath it is of another plane. -/
def State.firingAt (s : State) (g : Firing) : Prop :=
  (s.fe s.curFe).firing = some g ∧ (∀ b, (s.fe s.curFe).firingBelow = some b → b.plane ≠ g.plane) ∧ g.plane < 6 ∧ g.late = []

/-- An instruction that may be predicated runs: it is not predicated, or its predicate stands and lane 0 of it is not zero
(10 R203). -/
def Firing.runs (g : Firing) (q : BitVec 1) : Prop := q = 1 → ∃ P, g.operand .q = .value P ∧ lane P 0 ≠ 0

/-- The firing of the current FE changed by `k`, and nothing else. -/
def State.withFiring (s : State) (k : Firing → Firing) : State := s.modFe s.curFe fun x => { x with firing := x.firing.map k }

/-- How many slots the instruction at the firing's slot takes: two for one with a literal (04 R93). -/
def State.slotStep (s : State) (g : Firing) : Nat := if wordOp (s.wordAt s.curFe g g.slot) = 7 then 2 else 1

/-- `s` with the firing `g` at its next slot. -/
def State.slotDone (s : State) (g : Firing) : State := s.withFiring fun h => { h with slot := h.slot + s.slotStep g }

/-- The firing `g` has put a token of kind `k` with data `v` out at port `p` (05 R115; 10 R205): the token stands last in the
port's output register, with the port's count as its ordinal, the firing's TAG and bits, and the arming number of a spliced
successor; it has taken a place of the edge. Every other port, plane and FE and all of memory are as before, and everything else too where nothing watches. -/
def State.putsOut (s t : State) (g : Firing) (p : Nat) (k : BitVec 3) (v : Line) : Prop :=
  let f := s.curFe
  let o := vget (s.plane f g.plane).outp p
  let token : Token := { data := v, kind := k, tag := (s.firingTag f g).getD 0, ord := o.count, sf := g.sf, sh := g.sh
                         late := o.eos, next := s.emitNext f g.plane }
  let o' : OutPort := { o with
    reg := o.reg ++ [token], free := o.free - 1, count := o.count + 1, eos := o.eos || decide (k = 5) }
  let g' : Firing := { g with
    emitted := g.emitted ++ [p], eosOut := if k = 5 then g.eosOut ++ [p] else g.eosOut }
  let plane : Plane := { s.plane f g.plane with outp := vset (s.plane f g.plane).outp p o' }
  t.curFe = f ∧ t.fe f = { s.fe f with firing := some g', planes := vset (s.fe f).planes g.plane plane } ∧
  (∀ h, h ≠ f → t.fe h = s.fe h) ∧ s.sameMem t ∧ (s.unobserved → s.onlyFe t f)

/-- The residual of `v` has gone to the guard tile that the plane's residency serves (07 R157): the first one that arrives
while the tile runs is kept, a greater one or a NaN replaces it; without a guard nothing changes. -/
def State.tellsGuard (s t : State) (plane : Nat) (v : Line) : Prop :=
  let m := residualOf v
  let val (p : BitVec 32) : Val := (fmtOf 10).val p.toNat
  t = { s with dies := t.dies } ∧
  (∀ r e k z, s.planeOwner s.curFe plane = some r → ((s.res r).guard = .surrogate e k ∨ (s.res r).guard = .checker e k) →
    s.guardTile r.die e k = some z → t.guardTile r.die e k = some (
      if z.state ≠ .running then z
      else if z.deliv = false then { z with res := m, deliv := true }
      else if (val z.res).isNan = false ∧ ((val m).isNan = true ∨ (val z.res).lt (val m) = true) then { z with res := m }
      else z)) ∧
  ((∀ r, s.planeOwner s.curFe plane = some r → ∀ e k, (s.res r).guard ≠ .surrogate e k ∧ (s.res r).guard ≠ .checker e k) →
    t = s)

/-- `v` has gone from the current slot to the target `k` (10 R205; 03 Table 3-4): nowhere, to an operand of a later slot, to an
output port as a token of kind 0, to an element register, to the pending selector, or to the guard. Nothing else changes. -/
def State.lands (s t : State) (v : Line) (k : BitVec 9) : Prop :=
  ∀ g, (s.fe s.curFe).firing = some g →
    (k = 0 → t = s) ∧
    (∀ o, tgtOpnd k = some o →
      t = s.withFiring fun h => { h with dels := mapSet h.dels (tgtIdx k, o) (.value v) }) ∧
    (tgtClass k = 5 → tgtIdx k < 8 → s.putsOut t g (tgtIdx k) 0 v) ∧
    (tgtClass k = 6 → tgtIdx k < 32 → t = s.modPlane s.curFe g.plane fun p => { p with e := vset p.e (tgtIdx k) v }) ∧
    (tgtClass k = 7 → tgtIdx k = 1 → t = s.withFiring fun h => { h with selp := some (BitVec.ofNat 3 (lane v 0)) }) ∧
    (tgtClass k = 7 → tgtIdx k = 2 → s.tellsGuard t g.plane v)

/-- `v` has gone from the current slot to each of its targets, in order. -/
def State.landed (v : Line) : State → State → List (BitVec 9) → Prop
  | s, t, [] => t = s
  | s, t, k :: ks => ∃ m, s.lands m v k ∧ State.landed v m t ks

/-- The current slot has delivered `v` to each of its targets and the firing stands at the next slot. -/
def State.yields (s t : State) (ts : List (BitVec 9)) (v : Line) : Prop :=
  ∃ g m, (s.fe s.curFe).firing = some g ∧ State.landed v s m ts ∧ t = m.slotDone g

/-- An arithmetic overflow at a slot of `g` reaches thread `h`: the plane's residency `r` is there, its control thread is `h`,
and the slot belongs to no loop of a rotation (10 R206, 11 R239). -/
def State.faultsReach (s : State) (g : Firing) (r : ResId) (h : ThreadId) : Prop :=
  s.planeOwner s.curFe g.plane = some r ∧ s.loopOf s.curFe g.plane = none ∧ s.hasRes r = true ∧
  (s.res r).freed = false ∧ (s.res r).thread = some h
/-- The slot has faulted ARITH_OVF (10 R206): the pitch is frozen once more, the record of code 0x30 waits for the control
thread, nothing is delivered, and no memory changes. -/
def State.overflows (s t : State) (g : Firing) (r : ResId) (h : ThreadId) : Prop :=
  (t.res r).freeze = (s.res r).freeze + 1 ∧ s.sameMem t ∧
  (t.fe s.curFe).firing = some { g with slot := g.slot + s.slotStep g } ∧
  (∀ p, t.plane s.curFe p = s.plane s.curFe p) ∧
  ∃ d : Delivery, (t.thr h).held = (s.thr h).held ++ [d] ∧ d.freezes = true ∧ vget d.words 0 = wordN (0x30 + 2 ^ 16)

/-- The firing of the current FE has passed to its next slot; operands that the targets name hold `v`, every other operand
is as before. Registers, ports and units of the FE may have changed. -/
def State.handed (s t : State) (ts : List (BitVec 9)) (v : Line) : Prop :=
  ∃ g g' : Firing, (s.fe s.curFe).firing = some g ∧ (t.fe s.curFe).firing = some g' ∧ g'.slot = g.slot + s.slotStep g ∧
    g'.plane = g.plane ∧ g'.block = g.block ∧
    ∀ k o, mapFind g'.dels (k, o) =
      if ts.any (fun x => decide (x ≠ 0 ∧ tgtOpnd x = some o ∧ tgtIdx x = k)) then some (.value v)
      else mapFind g.dels (k, o)

/-- The token whose elements of type `T` have the patterns `f` gives, in lane form (02 R34, R35). -/
def elemLine (T : BitVec 4) (f : Nat → Nat) : Line := ofElems T.toNat ((List.range (typeElems T.toNat)).map f)

/-! ### Host commands -/

/-- The front end's command ring stands at the entry `e`, of operation `op`, at the aligned address `a`. -/
def State.cmdAt (s : State) (op a : Nat) (e : Line) : Prop :=
  s.hcqEntry = some (a, e) ∧ cmdOp e = op ∧ a % 64 = 0 ∧ s.mem.wf = true

/-- The entry `e` at address `a` has completed with a status (21 R420): word 7 holds it and the entry's tag, CONS has gone
on, vector 0 is signalled last if the entry asks for it and a function has MSI-X enabled (21 R406). -/
def State.answered (s t : State) (a : Nat) (e : Line) (status : Nat) : Prop :=
  t.mem.readBytes (a + 56) 8 = leBytes 4 status ++ leBytes 4 (fldN e 32 32) ∧
  t.front.hcqCons = s.front.hcqCons + 1 ∧ (bitOf e 16 = true → ∀ k, s.front.msixLink = some k → t.front.irqs.getLast? = some (k, 0))

/-- The records of a CP queue of a die, in order, with what each was launched with. -/
def State.queued (s : State) (die k : Nat) : List (Line × BitVec 16 × Nat × GuardRole) :=
  (vget (s.die die).queues k).map fun q => (q.record, q.asid, q.addr, q.guard)

/-- Thread `h` has taken a precise trap of a code at its own address (09 R179). -/
def State.trapsAt (s t : State) (h : ThreadId) (c : Code) : Prop :=
  (t.thr h).pc = (s.thr h).tvec ∧ (t.thr h).tpc = codeAddr (s.thr h).pc ∧ (t.thr h).intrap = true ∧ (t.thr h).status = .ready ∧
  vget (t.thr h).trec 0 = wordN (codeNum c + (s.thr h).word.toNat * 2 ^ 32)

end Sys2Proof.Machine
end

