-- ==== Sys2Proof/Certificates/Slice0/Obligations.lean ====
section
/-! DEFINITION. The statements for the provers. -/

open Sys2Proof Sys2Proof.Machine

/-! ### Control thread: registers, branches, memory, traps -/

/-- Table 9-5 (R186): every INT operation gives its value and touches nothing else. Table 9-5 (R186): CLZ counts the
zero bits above the highest set bit, POPC the set bits, LEA scales its second operand. -/
def Obligations.IntOperationResults : Prop :=
  (∀ (s : State) (d a b : BitVec 5),
    let A := s.rd a
    let B := s.rd b
    let gives (i : Instr) (v : Word) : Prop := Completes i s fun t => s.wrote t d v (s.cur.pc + 4)
    gives (.add d a b) (A + B) ∧ gives (.sub d a b) (A - B) ∧
    gives (.and d a b) (A &&& B) ∧ gives (.or d a b) (A ||| B) ∧ gives (.xor d a b) (A ^^^ B) ∧
    gives (.andn d a b) (A &&& ~~~B) ∧
    gives (.shl d a b) (A <<< (B.toNat % 64)) ∧ gives (.shr d a b) (A >>> (B.toNat % 64)) ∧
    gives (.shra d a b) (A.sshiftRight (B.toNat % 64)) ∧
    gives (.mul d a b) (A * B) ∧
    gives (.mulh d a b) ((A.signExtend 128 * B.signExtend 128).extractLsb' 64 64) ∧
    gives (.mulhZ d a b) ((A.zeroExtend 128 * B.zeroExtend 128).extractLsb' 64 64) ∧
    gives (.div d a b) (if B = 0 then BitVec.allOnes 64 else A.sdiv B) ∧
    gives (.divZ d a b) (if B = 0 then BitVec.allOnes 64 else A / B) ∧
    gives (.rem d a b) (if B = 0 then A else A.srem B) ∧
    gives (.remZ d a b) (if B = 0 then A else A % B) ∧
    gives (.min d a b) (if A.slt B then A else B) ∧ gives (.max d a b) (if A.slt B then B else A) ∧
    gives (.minZ d a b) (if A.ult B then A else B) ∧ gives (.maxZ d a b) (if A.ult B then B else A) ∧
    gives (.slt d a b) (if A.slt B then 1 else 0) ∧ gives (.sltZ d a b) (if A.ult B then 1 else 0)) ∧
  (∀ (s : State) (d a b : BitVec 5) (k : BitVec 2),
    (∃ n : Nat, n ≤ 64 ∧ (∀ j, 64 - n ≤ j → j < 64 → (s.rd a).getLsbD j = false) ∧
      (n < 64 → (s.rd a).getLsbD (63 - n) = true) ∧
      Completes (.clz d a) s fun t => s.wrote t d (BitVec.ofNat 64 n) (s.cur.pc + 4)) ∧
    (Completes (.popc d a) s fun t =>
      s.wrote t d (BitVec.ofNat 64 ((List.range 64).countP fun j => (s.rd a).getLsbD j)) (s.cur.pc + 4)) ∧
    (Completes (.lea d a b k) s fun t => s.wrote t d (s.rd a + s.rd b * (1 <<< k.toNat)) (s.cur.pc + 4)))

/-- R187-R189: the immediate is sign-extended by ADDI and SLTI and zero-extended by the others; the shift counts are
the immediates; INSI replaces one 16-bit part and keeps the others. -/
def Obligations.ImmediateResults : Prop :=
  ∀ (s : State) (d a : BitVec 5) (m : BitVec 16) (n : BitVec 6) (k : BitVec 2),
    let A := s.rd a
    let gives (i : Instr) (v : Word) : Prop := Completes i s fun t => s.wrote t d v (s.cur.pc + 4)
    gives (.addi d a m) (A + m.signExtend 64) ∧ gives (.andi d a m) (A &&& m.zeroExtend 64) ∧
    gives (.ori d a m) (A ||| m.zeroExtend 64) ∧ gives (.xori d a m) (A ^^^ m.zeroExtend 64) ∧
    gives (.shiL d a n) (A <<< n.toNat) ∧ gives (.shiR d a n) (A >>> n.toNat) ∧
    gives (.shiRa d a n) (A.sshiftRight n.toNat) ∧
    gives (.slti d a m) (if A.slt (m.signExtend 64) then 1 else 0) ∧
    gives (.sltiZ d a m) (if A.ult (m.zeroExtend 64) then 1 else 0) ∧
    ∃ v : Word, (∀ j, j < 64 → v.getLsbD j =
        if 16 * k.toNat ≤ j ∧ j < 16 * k.toNat + 16 then m.getLsbD (j - 16 * k.toNat) else (s.rd d).getLsbD j) ∧
      gives (.insi d k m) v

/-- R190, R191: a taken branch goes to PC + 4 × offset, any other to PC + 4; JAL and JR write PC + 4 into g[d], JR
having read its target first, and nothing else changes; a JR to a misaligned target traps MISALIGNED with the target
in TREC1. -/
def Obligations.BranchesAndJumps : Prop :=
  ∀ (s : State) (d a b : BitVec 5) (o : BitVec 16) (j : BitVec 21),
    let A := s.rd a
    let B := s.rd b
    let goes (i : Instr) (c : Bool) : Prop := Completes i s fun t =>
      s.wrote t 0 0 (if c then s.cur.pc + 4 * o.signExtend 64 else s.cur.pc + 4)
    goes (.beq a b o) (A == B) ∧ goes (.bne a b o) (A != B) ∧ goes (.blt a b o) (A.slt B) ∧
    goes (.bge a b o) (B.sle A) ∧ goes (.bltZ a b o) (A.ult B) ∧ goes (.bgeZ a b o) (B.ule A) ∧
    (Completes (.jal d j) s fun t => s.wrote t d (s.cur.pc + 4) (s.cur.pc + 4 * j.signExtend 64)) ∧
    (A.toNat % 4 = 0 → Completes (.jr d a) s fun t => s.wrote t d (s.cur.pc + 4) A) ∧
    (A.toNat % 4 ≠ 0 → s.canTrap → Completes (.jr d a) s fun t => s.trapped t .misaligned A 0 0 s.cur.pc)

/-- R289: LD reads its naturally aligned bytes, little-endian, and extends them by its size code: even codes below 6
by the sign, the others by zeros. With an empty store buffer nothing but g[d], the pc and what the caches hold
changes. R290: LD.acq reads as LD does, the thread's buffered stores being empty; no register but g[d] and no memory
changes. 12 R255-R258, R261, R270, 07 R149, 17 R357: the LD of a control thread takes its bytes in the PITCH window
from the scratch of the FE that the address names, in a bound range from the bank line that holds them, where its
residency has a tentative copy of the line from the copy over what the line holds, and of a line that a peer homes
from its die's copy of it; with no copy it asks the peer once and waits, and goes on with the peer's answer. -/
def Obligations.LoadResults : Prop :=
  (∀ (s : State) (d a : BitVec 5) (z : BitVec 3) (o : BitVec 13) (l : Leaf),
    let ea := s.rd a + o.signExtend 64
    let w := 2 ^ (z.toNat / 2)
    let v := BitVec.ofNat (8 * w) (leNat (s.mem.readBytes l.pa w))
    s.plainAt s.curAgent ea.toNat w l → l.r = true → s.cur.sbuf = [] → z.toNat < 7 →
    Completes (.ld d a z o) s fun t =>
      s.fetchedWrote t d (if z.toNat % 2 = 0 then v.signExtend 64 else v.zeroExtend 64) (s.cur.pc + 4)) ∧
  (∀ (s : State) (d a : BitVec 5) (z : BitVec 2) (l : Leaf),
    let w := if z.toNat < 2 then 4 else 8
    let v := BitVec.ofNat (8 * w) (leNat (s.mem.readBytes l.pa w))
    s.plainAt s.curAgent (s.rd a).toNat w l → l.r = true → s.cur.sbuf = [] → z.toNat < 3 →
    Completes (.ldAcq d a z) s fun t =>
      s.gave t d (if z = 0 then v.signExtend 64 else v.zeroExtend 64) (s.cur.pc + 4) ∧ s.sameMem t) ∧
  (∀ (s : State) (d a : BitVec 5) (z : BitVec 3) (o : BitVec 13) (l : Leaf),
    let ea := s.rd a + o.signExtend 64
    let va := ea.toNat
    let w := 2 ^ (z.toNat / 2)
    let ag := s.curAgent
    let line := l.pa / 64
    let val (bs : List Byte) : Word :=
      if z.toNat % 2 = 0 then (BitVec.ofNat (8 * w) (leNat bs)).signExtend 64 else (BitVec.ofNat (8 * w) (leNat bs)).zeroExtend 64
    let gives (bs : List Byte) : Prop := Completes (.ld d a z o) s fun t => s.fetchedWrote t d (val bs) (s.cur.pc + 4)
    let goesOn (bs : List Byte) : Prop := Completes (.ld d a z o) s fun t => s.wentOn t d (val bs) ∧ s.sameMem t
    let glob : Prop := va < 0x80000000000000 ∧ s.translate ag.die ag.asid va = .ok l ∧ l.r = true ∧ l.pa % 64 = va % 64
    let own : Prop := l.p = false ∧ s.portGone l.pa = false ∧ s.tag line = 0 ∧ s.parkedAt ag.who line = false ∧ s.unobserved ∧ s.sent = []
    z.toNat < 7 → va % w = 0 → s.cur.sbuf = [] → s.returns = [] →
    (∀ r i off, s.curRes = some r → s.hasRes r = true → (s.res r).urgent = false → i < 24 * (s.res r).h * (s.res r).w → i < 2 ^ 11 →
      off + w ≤ 0x20000 → va = pitchBase + i * 0x20000 + off → off + w ≤ (s.fe (feOfIndex r (s.res r) i)).scratch → s.sent = [] →
      gives (s.lmem.readBytes (feBase (feOfIndex r (s.res r) i) + off) w)) ∧
    (∀ f b x, glob → own → s.tentReads ag.res = none → s.bankServes ag.res l va = some (f, b) →
      mapFind b.lines (va / 64 % b.n) = some x → x.va = va / 64 * 64 → x.poison = false → gives (lineSlice x.data (va % 64) w)) ∧
    (∀ q c, glob → own → s.calmLine ag line → s.poisoned line = false → s.tentReads ag.res = some q →
      s.bankServes ag.res l va = none → s.tentCopy (some q) line = some c → c.poison = false →
      gives (lineSlice (mergeLine (s.line line) c.data c.mask) (va % 64) w)) ∧
    (glob → l.p = true → s.peerUp l.peer = true → s.tentReads ag.res = none → s.bankServes ag.res l va = none →
      (∀ x ∈ s.sent, x.lost = false) → s.pendingAt l.peer line = [] →
      (∀ c, l.nc = false → s.rdcFind ag.die line (some l.peer) = some c → c.poison = false → goesOn (lineSlice c.data (va % 64) w)) ∧
      (l.nc = true ∨ s.rdcFind ag.die line (some l.peer) = none →
        (s.askedFor ag.who l.peer line .read = none → Completes (.ld d a z o) s fun t =>
          t.cur = { s.cur with status := .stalled, waitFrom := some (s.cur.waitFrom.getD s.cyc) } ∧
          (∀ u, u ≠ s.curThread → t.thr u = s.thr u) ∧ s.sameMem t ∧
          t.sent = s.sent ++ [{ who := some ag.who, peer := l.peer, line, kind := .read, asks := true
                                msg := .read l.peer (line * 64) 64 }]) ∧
        ∀ x, s.askedFor ag.who l.peer line .read = some x → x.answered = true → goesOn (lineSlice x.data (va % 64) w))))

/-- R289, R440: ST and ST.rel translate and check at issue and put the store at the end of the thread's store buffer:
no byte of memory and no register changes as they retire. R289: a load takes from the thread's own store buffer what
the latest store to its bytes put there, before the store performs. 12 R255-R258, R261, R270, 13 R440, 07 R148, 17
R357, R358: a control thread's store into the PITCH window is buffered with the FE's scratch as its target. As the
oldest store of a thread's buffer performs, its bytes go to that scratch, into the bank line that holds its line, into
the tentative copy of a SNAP residency, or, where a peer homes the line, they are sent to the peer, and the store has
left the buffer; pool memory does not change. -/
def Obligations.StoreResults : Prop :=
  (∀ (s : State) (d a b : BitVec 5) (z : BitVec 3) (y : BitVec 2) (o : BitVec 13) (l : Leaf),
    let puts (i : Instr) (ea : Word) (w : Nat) (v : Word) : Prop :=
      ea.toNat % w = 0 → ea.toNat < 0x80000000000000 → s.translate s.curThread.die s.cur.asid ea.toNat = .ok l →
      l.w = true → Completes i s fun t =>
        t.cur.sbuf = s.cur.sbuf ++ [⟨.glob l.pa l ea.toNat, w, v, ea, s.cur.pc, s.cur.word, false⟩] ∧
        t.cur.pc = s.cur.pc + 4 ∧ (∀ r, t.rd r = s.rd r) ∧ s.onlyThread t s.curThread ∧ s.sameMem t
    puts (.st d a z o) (s.rd a + o.signExtend 64) (2 ^ (z.toNat / 2)) (s.rd d) ∧
    puts (.stRel a b y) (s.rd a) (if y.toNat < 2 then 4 else 8) (s.rd b)) ∧
  (∀ (s t : State) (d e a : BitVec 5) (z : BitVec 3) (o : BitVec 13) (l : Leaf),
    let ea := s.rd a + o.signExtend 64
    let w := 2 ^ (z.toNat / 2)
    let v := (s.rd d).setWidth (8 * w)
    z.toNat < 7 → ea.toNat % w = 0 → ea.toNat < 0x80000000000000 →
    s.translate s.curThread.die s.cur.asid ea.toNat = .ok l → l.w = true → l.r = true → s.returns = [] →
    s.gone l ea.toNat = none →
    exec (.st d a z o) s = .next t →
    Completes (.ld e a z o) t fun u =>
      t.wrote u e (if z.toNat % 2 = 0 then v.signExtend 64 else v.zeroExtend 64) (s.cur.pc + 8)) ∧
  (∀ (s : State),
    (∀ (d a : BitVec 5) (z : BitVec 3) (o : BitVec 13) (r : ResId) (i off : Nat),
      let ea := s.rd a + o.signExtend 64
      let w := 2 ^ (z.toNat / 2)
      let f := feOfIndex r (s.res r) i
      s.curRes = some r → s.hasRes r = true → (s.res r).urgent = false → i < 24 * (s.res r).h * (s.res r).w → i < 2 ^ 11 →
      off + w ≤ 0x20000 → ea.toNat % w = 0 → ea.toNat = pitchBase + i * 0x20000 + off → off + w ≤ (s.fe f).scratch →
      Completes (.st d a z o) s fun t =>
        t.cur.sbuf = s.cur.sbuf ++ [⟨.scratch f off, w, s.rd d, ea, s.cur.pc, s.cur.word, false⟩] ∧
        t.cur.pc = s.cur.pc + 4 ∧ (∀ r, t.rd r = s.rd r) ∧ s.onlyThread t s.curThread ∧ s.sameMem t) ∧
    (∀ (h : ThreadId) (b : Buffered) (rest : List Buffered) (f : FeId) (off : Nat),
      (s.thr h).sbuf = b :: rest → b.target = .scratch f off →
      Completes (.accessPerform (.storeBuffer h)) s fun t => (t.thr h).sbuf = rest ∧ t.mem = s.mem ∧
        t.lmem = s.lmem.writeBytes (feBase f + off) (leBytes b.len b.data.toNat)) ∧
    ∀ (h : ThreadId) (b : Buffered) (rest : List Buffered) (l : Leaf),
      let va := b.va.toNat
      let bs := leBytes b.len b.data.toNat
      let res := (s.agent h).res
      (s.thr h).sbuf = b :: rest → b.target = .glob l.pa l va → l.pa % 64 = va % 64 → (∀ x ∈ s.sent, x.lost = false) →
      (∀ f k x, l.p = false → s.portGone l.pa = false → s.tag (l.pa / 64) = 0 → s.tentWrites res = none → s.passesBank res = false →
        s.bankServes res l va = some (f, k) → (s.fe f).bank = some k → mapFind k.lines (va / 64 % k.n) = some x → x.va = va / 64 * 64 →
        Completes (.accessPerform (.storeBuffer h)) s fun t => (t.thr h).sbuf = rest ∧ s.sameMem t ∧ ∃ k' x',
          (t.fe f).bank = some k' ∧ mapFind k'.lines (va / 64 % k.n) = some x' ∧ x'.data = lineWith x.data (va % 64) bs ∧
          x'.dirty = x.dirty ||| byteMask (va % 64) b.len) ∧
      (∀ r c, l.p = false → s.portGone l.pa = false → s.tag (l.pa / 64) = 0 → s.tentWrites res = some (.snap r) →
        s.tentCopy (some (.snap r)) (l.pa / 64) = some c →
        Completes (.accessPerform (.storeBuffer h)) s fun t => (t.thr h).sbuf = rest ∧ s.sameMem t ∧ ∃ c',
          t.tentCopy (some (.snap r)) (l.pa / 64) = some c' ∧ c'.data = lineWith c.data (l.pa % 64) bs ∧
          c'.mask = c.mask ||| byteMask (l.pa % 64) b.len) ∧
      (l.p = true → s.peerUp l.peer = true → s.tentWrites res = none → s.bankServes res l va = none →
        Completes (.accessPerform (.storeBuffer h)) s fun t => (t.thr h).sbuf = rest ∧ s.sameMem t ∧ ∃ x ∈ t.sent,
          x.who = some (.thread h) ∧ x.peer = l.peer ∧ x.line = l.pa / 64 ∧ x.kind = .write ∧ x.answered = false ∧
          x.msg = .write l.peer l.pa b.len (lineOf bs)))

/-- R290: an AMO reads its word, writes what its operation gives and returns the word read, as one step; CAS writes
only where the word equals g[d]. Sizes are 32 and 64 bits, signed for even codes; the stored bytes are the word's at
its physical address. 13 R290, 12 R255-R258, 07 R148, R149, 17 R351, R357, 21 R411: a control thread's AMO in the
PITCH window, on a line of a bank, or on one of which its SNAP residency has a tentative copy, reads its word there,
puts there what its operation gives, and returns the word read; of a line that a peer homes the peer performs it: the
thread sends it once and waits, and goes on with the word that the peer answers. Pool memory does not change. -/
def Obligations.AtomicResults : Prop :=
  (∀ (s : State) (d a b : BitVec 5) (z r : BitVec 2) (l : Leaf),
    let w := if z.toNat < 2 then 4 else 8
    let sg := z.toNat % 2 = 0
    let old := BitVec.ofNat (8 * w) (leNat (s.mem.readBytes l.pa w))
    let x := (s.rd b).setWidth (8 * w)
    let y := (s.rd d).setWidth (8 * w)
    let gives (i : Instr) (new : BitVec (8 * w)) (stores : Prop) : Prop :=
      Completes i s fun t =>
        (stores → t.mem = s.mem.writeBytes l.pa (leBytes w new.toNat)) ∧ (¬stores → t.mem = s.mem) ∧
        s.gave t d (if z = 0 then old.signExtend 64 else old.zeroExtend 64) (s.cur.pc + 4)
    s.plainAt s.curAgent (s.rd a).toNat w l → l.w = true → s.cur.sbuf = [] →
    gives (.amoAdd d a b z r) (old + x) True ∧ gives (.amoSwap d a b z r) x True ∧
    gives (.amoCas d a b z r) x (old = y) ∧
    gives (.amoMin d a b z r) (if (if sg then x.slt old else x.ult old) then x else old) True ∧
    gives (.amoMax d a b z r) (if (if sg then old.slt x else old.ult x) then x else old) True ∧
    gives (.amoAnd d a b z r) (old &&& x) True ∧ gives (.amoOr d a b z r) (old ||| x) True ∧
    gives (.amoXor d a b z r) (old ^^^ x) True) ∧
  (∀ (s : State) (d a b : BitVec 5) (z r : BitVec 2) (l : Leaf),
    let w := if z.toNat < 2 then 4 else 8
    let va := (s.rd a).toNat
    let ag := s.curAgent
    let line := l.pa / 64
    let x := (s.rd b).setWidth (8 * w)
    let y := (s.rd d).setWidth (8 * w)
    let word (bs : List Byte) : BitVec (8 * w) := BitVec.ofNat (8 * w) (leNat bs)
    let ret (v : BitVec (8 * w)) : Word := if z = 0 then v.signExtend 64 else v.zeroExtend 64
    let pick (p : Bool) (u v : BitVec (8 * w)) : BitVec (8 * w) := if p then u else v
    let below (u v : BitVec (8 * w)) : Bool := if z.toNat % 2 = 0 then u.slt v else u.ult v
    let all (P : Instr → BitVec 3 → (BitVec (8 * w) → BitVec (8 * w)) → Prop) : Prop :=
      P (.amoAdd d a b z r) 0 (fun v => v + x) ∧ P (.amoSwap d a b z r) 1 (fun _ => x) ∧
      P (.amoCas d a b z r) 2 (fun v => if v = y then x else v) ∧ P (.amoMin d a b z r) 3 (fun v => pick (below x v) x v) ∧
      P (.amoMax d a b z r) 4 (fun v => pick (below v x) x v) ∧ P (.amoAnd d a b z r) 5 (fun v => v &&& x) ∧
      P (.amoOr d a b z r) 6 (fun v => v ||| x) ∧ P (.amoXor d a b z r) 7 (fun v => v ^^^ x)
    let glob : Prop := va < 0x80000000000000 ∧ s.translate ag.die ag.asid va = .ok l ∧ l.w = true ∧ l.pa % 64 = va % 64
    let own : Prop := l.p = false ∧ s.portGone l.pa = false ∧ s.tag line = 0 ∧ s.parkedAt ag.who line = false ∧ s.unobserved ∧ s.sent = []
    z.toNat < 4 → va % w = 0 → s.cur.sbuf = [] → s.returns = [] →
    (∀ q i off, s.curRes = some q → s.hasRes q = true → (s.res q).urgent = false → i < 24 * (s.res q).h * (s.res q).w → i < 2 ^ 11 →
      off + w ≤ 0x20000 → va = pitchBase + i * 0x20000 + off → off + w ≤ (s.fe (feOfIndex q (s.res q) i)).scratch →
      let at_ := feBase (feOfIndex q (s.res q) i) + off
      s.lmem.wf = true →
      all fun n _ op => Completes n s fun t => s.wentOn t d (ret (word (s.lmem.readBytes at_ w))) ∧ t.mem = s.mem ∧
        t.lmem = s.lmem.writeBytes at_ (leBytes w (op (word (s.lmem.readBytes at_ w))).toNat)) ∧
    (∀ f k c, glob → own → s.tentReads ag.res = none → s.tentWrites ag.res = none → s.passesBank ag.res = false →
      s.bankServes ag.res l va = some (f, k) → (s.fe f).bank = some k → mapFind k.lines (va / 64 % k.n) = some c → c.va = va / 64 * 64 →
      c.poison = false →
      let v := word (lineSlice c.data (va % 64) w)
      all fun n _ op => Completes n s fun t => s.wentOn t d (ret v) ∧ s.sameMem t ∧ ∃ k' c', (t.fe f).bank = some k' ∧
        mapFind k'.lines (va / 64 % k.n) = some c' ∧ word (lineSlice c'.data (va % 64) w) = op v) ∧
    (∀ q c, glob → own → s.calmLine ag line → s.poisoned line = false → s.tentReads ag.res = some (.snap q) →
      s.tentWrites ag.res = some (.snap q) → s.bankServes ag.res l va = none → s.tentCopy (some (.snap q)) line = some c →
      c.poison = false →
      let seen (t : State) : BitVec (8 * w) := word (lineSlice (t.view (some (.snap q)) line) (va % 64) w)
      all fun n _ op => Completes n s fun t => s.wentOn t d (ret (seen s)) ∧ s.sameMem t ∧ seen t = op (seen s)) ∧
    (glob → l.p = true → s.peerUp l.peer = true → s.tentReads ag.res = none → s.tentWrites ag.res = none →
      s.bankServes ag.res l va = none → (∀ c ∈ s.sent, c.lost = false) → s.pendingAt l.peer line = [] →
      (s.askedFor ag.who l.peer line .amo = none → all fun n op _ => Completes n s fun t =>
        t.cur = { s.cur with status := .stalled, waitFrom := some (s.cur.waitFrom.getD s.cyc) } ∧ s.sameMem t ∧
        ∃ c ∈ t.sent, c.who = some ag.who ∧ c.peer = l.peer ∧ c.line = line ∧ c.kind = .amo ∧ c.answered = false ∧
          c.msg = .amo l.peer (line * 64 + va % 64) op w 1 (decide (z.toNat % 2 = 0)) ((s.rd b).zeroExtend 512) ((s.rd d).zeroExtend 512)) ∧
      ∀ c, s.askedFor ag.who l.peer line .amo = some c → c.answered = true → all fun n _ _ => Completes n s fun t =>
        s.wentOn t d (ret (word (lineSlice c.data (va % 64) w))) ∧ s.sameMem t))

/-- R291: a FENCE retires once the predecessors it names are done: its stores have performed at its scope (17 R349; at
ELEM scope they need not, R348), its engine commands, its multicasts. That at ELEM scope nothing of the stores is
waited for, and what `performedAt` asks at each other scope, is the model's choice (DEDUCED, log entry 75). With
stores among them the words fetched before are forgotten (09 R178). It stores nothing and writes no register. -/
def Obligations.FenceCompletes : Prop :=
  ∀ (s : State) (c : BitVec 3) (k p : BitVec 4),
    (p.getLsbD 1 = true → c ≠ 0 → s.cur.sbuf = [] ∧ s.performedAt (.thread s.curThread) c.toNat = true) →
    (p.getLsbD 2 = true → s.cur.enginesSettled = true) → (p.getLsbD 3 = true → s.cur.mcBusy = false) →
    Completes (.fence c k p) s fun t =>
      t.cur.pc = s.cur.pc + 4 ∧ (∀ r, t.rd r = s.rd r) ∧ s.sameMem t ∧
      t = { s with threads := t.threads, code := t.code } ∧ (∀ v, v ≠ s.curThread → t.thr v = s.thr v) ∧
      (p.getLsbD 1 = true → t.cur.fetched = [] ∧ t.cur.fencedAt = s.tick) ∧
      (p.getLsbD 1 = false → t.cur.fetched = s.cur.fetched ∧ s.onlyThread t s.curThread)

/-- R289, R290: an address that is not a multiple of the size traps MISALIGNED with the address in TREC1, before
anything is read or stored: all of memory, the thread's store buffer and every other thread are as before; JR does so
for a target that is no multiple of 4 (R191). -/
def Obligations.MisalignedTraps : Prop :=
  ∀ (s : State) (d a b : BitVec 5) (z : BitVec 3) (y r : BitVec 2) (o : BitVec 13),
    let traps (i : Instr) (ea : Word) (w : Nat) : Prop :=
      ea.toNat % w ≠ 0 → Completes i s fun t => s.trapped t .misaligned ea 0 0 s.cur.pc
    let w2 := if y.toNat < 2 then 4 else 8
    s.canTrap →
    traps (.ld d a z o) (s.rd a + o.signExtend 64) (2 ^ (z.toNat / 2)) ∧
    traps (.st d a z o) (s.rd a + o.signExtend 64) (2 ^ (z.toNat / 2)) ∧
    traps (.amoAdd d a b y r) (s.rd a) w2 ∧ traps (.amoSwap d a b y r) (s.rd a) w2 ∧
    traps (.amoCas d a b y r) (s.rd a) w2 ∧ traps (.amoMin d a b y r) (s.rd a) w2 ∧
    traps (.amoMax d a b y r) (s.rd a) w2 ∧ traps (.amoAnd d a b y r) (s.rd a) w2 ∧
    traps (.amoOr d a b y r) (s.rd a) w2 ∧ traps (.amoXor d a b y r) (s.rd a) w2 ∧
    traps (.ldAcq d a y) (s.rd a) w2 ∧ traps (.stRel a b y) (s.rd a) w2 ∧
    traps (.jr d a) (s.rd a) 4

/-- 08 R172: WAITQ retires when the queue record's head and tail show what it waits for: something to take (c = 0) or
room (c = 1), counted modulo 2^32; otherwise, with no limit, the thread waits, and nothing else but what the caches
hold changes. 08 R172: a thread stalled in a WAITQ goes on when its queue shows what it waits for, and takes
QWAIT_TIMEOUT, with the queue's counters and its limit, when the limit passes first; in a step the frozen cycles
before it do not count (19 R384). -/
def Obligations.WaitqTestsItsQueue : Prop :=
  (∀ (s : State) (a b : BitVec 5) (c : BitVec 1) (l : Leaf),
    let ra := s.rd a
    let head := leNat (s.mem.readBytes l.pa 4)
    let tail := leNat (s.mem.readBytes (l.pa + 4) 4)
    let size := leNat (s.mem.readBytes (l.pa + 8) 4)
    let used := (tail + 2 ^ 32 - head) % 2 ^ 32
    let ok := if c = 0 then used ≠ 0 else used < size
    s.plainAt s.curAgent ra.toNat 64 l → l.r = true → s.cur.sbuf = [] → (s.rd b).toNat < 2 ^ 48 → 0 < size → size ≤ 2 ^ 31 →
    (ok → Completes (.waitq a b c) s fun t => s.gave t 0 0 (s.cur.pc + 4) ∧ s.sameMem t) ∧
    (¬ok → s.rd b = 0 → Completes (.waitq a b c) s fun t =>
      t.cur = { s.cur with status := .stalled, waitFrom := some (s.cur.waitFrom.getD s.cyc) } ∧
      ∃ m, s.cached m ∧ m.onlyThread t s.curThread)) ∧
  (∀ (s : State) (q : ThreadId) (a b : BitVec 5) (c : BitVec 1) (l : Leaf),
    let x : State := { s with curThread := q }
    let ra := x.rd a
    let head := leNat (s.mem.readBytes l.pa 4)
    let tail := leNat (s.mem.readBytes (l.pa + 4) 4)
    let size := leNat (s.mem.readBytes (l.pa + 8) 4)
    let used := (tail + 2 ^ 32 - head) % 2 ^ 32
    let ok := if c = 0 then used ≠ 0 else used < size
    let limit := (x.rd b).toNat
    let now := if s.front.dbg.frozen then s.front.dbg.frozenFrom else s.cyc
    x.plainAt x.curAgent ra.toNat 64 l → l.r = true → x.cur.sbuf = [] → limit < 2 ^ 48 → 0 < size → size ≤ 2 ^ 31 →
    x.cur.status = .stalled → x.cur.paused = none → x.cur.held = [] → x.cur.ending = none → s.stoppedThread q = false →
    decodeControl x.cur.word = .ok (.waitq a b c) →
    (ok → Completes (.waitqWake q) s fun t => x.gave t 0 0 (x.cur.pc + 4) ∧ s.sameMem t) ∧
    (¬ok → limit ≠ 0 → limit ≤ now - x.cur.waitFrom.getD s.cyc → x.canTrap →
      Completes (.waitqTimeout q) s fun t =>
        x.trapped t .qwaitTimeout ra (wordN (head + tail * 2 ^ 32)) (wordN (c.toNat + limit * 2 ^ 16)) x.cur.pc))

/-- R183, R184: a token instruction takes one token from the FIFO its pop clause names and puts one into the FIFO its
push clause names; while that FIFO holds 16 the push is owed and the thread stalls after the instruction. TOKW does
that and nothing else. R183: an instruction whose pop clause names an empty FIFO into its unit waits: its thread
stalls at it, and nothing else changes. -/
def Obligations.TokenClausesWaitAndMove : Prop :=
  (∀ (s : State) (u p : BitVec 3),
    let src := fifoIdx (p.toNat - 1) 0
    let dst := fifoIdx 0 (u.toNat - 1)
    let count (x : Thread) (i : Nat) : Nat := vget x.fifo i
    (Instr.tokw u p).wf = true → s.cur.popTaken = none → (∀ i, vget s.cur.returned i = 0) →
    (p = 0 ∨ 0 < count s.cur src) →
    Completes (.tokw u p) s fun t =>
      t.cur.pc = s.cur.pc + 4 ∧ (∀ r, t.rd r = s.rd r) ∧ s.onlyThread t s.curThread ∧ s.sameMem t ∧
      t.cur = s.cur.clauses t.cur ∧
      (∀ i, i ≠ src → i ≠ dst → count t.cur i = count s.cur i) ∧
      (p ≠ 0 → count t.cur src = count s.cur src - 1) ∧ (u = 0 → src ≠ dst → count t.cur dst = count s.cur dst) ∧ (p = 0 → src ≠ dst → count t.cur src = count s.cur src) ∧
      (u ≠ 0 → count s.cur dst < 16 → count t.cur dst = count s.cur dst + 1 ∧ t.cur.status = .ready) ∧
      (u ≠ 0 → count s.cur dst = 16 → count t.cur dst = 16 ∧ t.cur.pushOwed = some dst ∧ t.cur.status = .stalled)) ∧
  (∀ (s : State) (a b q : BitVec 5) (n : BitVec 4) (k u p : BitVec 3),
    p ≠ 0 → s.cur.popTaken = none →
    let waits (unit : Nat) (is : List Instr) : Prop := vget s.cur.fifo (fifoIdx (p.toNat - 1) unit) = 0 →
      ∀ i ∈ is, Completes i s fun t =>
        t.cur = { s.cur with status := .stalled, waitFrom := some (s.cur.waitFrom.getD s.cyc) } ∧ s.onlyThread t s.curThread
    waits 0 [Instr.tokw u p, .bar u p,
        .cfgLoad a b u p, .cfgArm b u p, .cfgSwap a u p, .cfgSeq a u p, .cfgFree u p, .splice a u p, .launch a u p,
        .gsl a b k u p, .rotJoin a b k u p, .rotLeave a b k u p, .rotSave a k u p, .rotLoad a b k u p, .rotClr a k u p,
        .rotStat a b k u p, .sporeSet a b u p, .sporeFill a b u p, .sporeFail a b u p, .sporePeek a b u p, .kvt a b u p,
        .pwrAsk a b u p, .pwrGive a u p] ∧
    waits 1 [.spat a n u p, .strmIn a n u p, .strmOut a n u p, .strmMc a b n u p, .strmResume a b n u p, .strmStop a u p] ∧
    waits 2 [.tfetch a b u p, .trel a u p] ∧ waits 3 [.copy a b q u p, .pref a b u p, .disc a b u p])

/-- R185, 17 R352: BAR waits for the bindings, EOS tokens and port accesses noted as it issued, and for the stores of
its pitch; then it retires, and for a residency that is a boundary, which ends its phase (19 R392). The wait for the
stores is the model's choice (DEDUCED, log entry 20): stores that its threads have buffered perform first
(`drainPitch`), and while one is left the thread stalls. -/
def Obligations.BarEndsPhase : Prop :=
  ∀ (s : State) (u p : BitVec 3),
    s.canPop p →
    (s.curRes = none → Completes (.bar u p) s fun t => t.cur.pc = s.cur.pc + 4 ∧ (∀ r, t.rd r = s.rd r) ∧
      s.onlyThread t s.curThread) ∧
    ∀ r, s.curRes = some r → s.hasRes r = true →
      let b := s.cur.bar.getD (s.barSet r)
      (s.barDone b = true → s.pitchStored r = true →
        Completes (.bar u p) s fun t => t.curThread = s.curThread ∧ t.cur.pc = s.cur.pc + 4 ∧ (∀ r, t.rd r = s.rd r) ∧
          (t.res r).phase.seq = (s.res r).phase.seq + 1) ∧
      (s.barDone b = false →
        Completes (.bar u p) s fun t => t.cur.pc = s.cur.pc ∧ t.cur.status = .stalled ∧ t.cur.bar = some b ∧
          (∀ r, t.rd r = s.rd r) ∧ s.onlyThread t s.curThread) ∧
      (s.barDone b = true → s.pitchStored r = false → ((s.threadsOf r).all fun h => s.drained h) = true →
        Completes (.bar u p) s fun t => t.cur.pc = s.cur.pc ∧ t.cur.status = .stalled ∧ t.cur.bar = some b ∧
          (∀ r, t.rd r = s.rd r) ∧ s.onlyThread t s.curThread) ∧
      (s.barDone b = true → ∀ i, s.issue p = some i →
        let m := (i.modCur fun x => { x with bar := some b }).drainPitch r
        m.pitchStored r = false → m.curThread = s.curThread →
          Completes (.bar u p) s fun t => t.cur.status = .stalled ∧ m.onlyThread t s.curThread ∧ (t.res r).phase = (m.res r).phase)

/-- 08 R168-R170: SPAWN puts its packet at the end of the task queue of the core its address names, as the residency's
task, and counts it. -/
def Obligations.SpawnQueuesTask : Prop :=
  ∀ (s : State) (a b : BitVec 5) (l : Leaf) (die page : Nat),
    let pkt := s.line (l.pa / 64)
    s.curThread.tid ≠ 0 → s.cur.sbuf = [] → s.cur.copied = none → s.plainAt s.curAgent (s.rd b).toNat 64 l → l.r = true →
    fldN pkt 0 2 = 0 → fldN pkt 448 3 = 0 → s.spawnTarget (s.rd a) = .ok (die, page) → die < 4 →
    (mapGet [] (s.die die).taskq page).length < 32 →
    Completes (.spawn a b) s fun t =>
      (∃ k : Packet, k.entry = lineWord pkt 0 ∧ k.named = s.rd a ∧ (∀ j, j < 6 → vget k.args j = lineWord pkt (j + 1)) ∧
        k.done = lineWord pkt 7 ∧ k.asid = s.cur.asid ∧ k.owner = s.curRes ∧ k.cell = none ∧
        mapGet [] (t.die die).taskq page = mapGet [] (s.die die).taskq page ++ [k]) ∧
      (∀ r, s.curRes = some r → s.hasRes r = true → (t.res r).tasks = (s.res r).tasks + 1) ∧
      t.curThread = s.curThread ∧ t.cur.pc = s.cur.pc + 4 ∧ (∀ r, t.rd r = s.rd r) ∧ s.sameMem t

/-- 13 R272, 09 R183: a command instruction reads its registers, takes the token its pop clause names from the FIFO
into its engine, queues its command behind those of the engine and retires; no other queue, no register and no memory
changes. The room is the model's reading (DEDUCED, log entry 15): the 16 places are those of commands that have not
started. -/
def Obligations.EngineCommandsQueue : Prop :=
  ∀ (s : State) (a b q : BitVec 5) (n : BitVec 4) (u p : BitVec 3),
    let queues (i : Instr) (un : Unit3) (op : EngOp) (vb vq : Word) (pat : BitVec 4) : Prop :=
      s.canPop p (unitNum un) → (unitQueue un s.cur).waiting.length < 16 →
      Completes i s fun t =>
        (∃ c : EngineCmd, c.op = op ∧ c.word = s.cur.word ∧ c.va = s.rd a ∧ c.vb = vb ∧ c.vq = vq ∧ c.pat = pat ∧
          c.push = u ∧ c.seq = s.cur.cmdSeq ∧ c.asid = s.cur.asid ∧ c.res = s.curRes ∧ c.done = false ∧
          unitQueue un t.cur = { unitQueue un s.cur with waiting := (unitQueue un s.cur).waiting ++ [c] }) ∧
        (∀ v, v ≠ un → unitQueue v t.cur = unitQueue v s.cur) ∧
        t.cur = { s.cur.clauses t.cur with se := t.cur.se, tf := t.cur.tf, ce := t.cur.ce, cmdSeq := s.cur.cmdSeq + 1 } ∧
        (let k := fifoIdx (p.toNat - 1) (unitNum un)
         p ≠ 0 → s.cur.popTaken = none → vget s.cur.returned k = 0 → vget t.cur.fifo k = vget s.cur.fifo k - 1) ∧
        t.cur.atRest (s.cur.pc + 4) ∧ (∀ r, t.rd r = s.rd r) ∧ s.onlyThread t s.curThread ∧ s.sameMem t
    queues (.spat a n u p) .se .spat 0 0 n ∧ queues (.strmIn a n u p) .se .strmIn 0 0 n ∧
    queues (.strmOut a n u p) .se .strmOut 0 0 n ∧ queues (.strmMc a b n u p) .se .strmMc (s.rd b) 0 n ∧
    queues (.strmResume a b n u p) .se .strmResume (s.rd b) 0 n ∧ queues (.strmStop a u p) .se .strmStop 0 0 0 ∧
    queues (.tfetch a b u p) .tf .tfetch (s.rd b) 0 0 ∧ queues (.trel a u p) .tf .trel 0 0 0 ∧
    queues (.copy a b q u p) .ce .copy (s.rd b) (s.rd q) 0 ∧ queues (.pref a b u p) .ce .pref (s.rd b) 0 0 ∧
    queues (.disc a b u p) .ce .disc (s.rd b) 0 0

/-- R176, R192: MFS reads a special register into g[d] and changes nothing else; for the control or urgent thread of a
residency the pitch registers read the residency's, on a task thread they read zero. R176, R192: MTS writes TVEC and
TPC with bits [1:0] clear, INTRAP from bit 0, a word of TREC whole, and the low 32 bits of a tolerance register of the
residency; no register and nothing else changes. On a task thread a tolerance register traps ACCESS. R176, R192: a
special register that Table 9-2 does not assign, and a write of a read-only one, trap ILLEGAL. -/
def Obligations.SpecialRegisterAccess : Prop :=
  (∀ (s : State) (d : BitVec 5),
    let reads (n : BitVec 16) (v : Word) : Prop := Completes (.mfs d n) s fun t => s.wrote t d v (s.cur.pc + 4)
    reads 0x000 (wordN s.curThread.tid) ∧ reads 0x002 (wordN s.curThread.die) ∧ reads 0x003 (wordN s.curThread.page) ∧
    reads 0x004 (wordN s.cyc) ∧ reads 0x005 (s.cur.asid.zeroExtend 64) ∧ reads 0x010 s.cur.tvec ∧ reads 0x011 s.cur.tpc ∧
    (∃ v : Word, (v.getLsbD 0 = s.cur.intrap) ∧ (v.getLsbD 1 = !s.cur.held.isEmpty) ∧
      (v.getLsbD 2 = s.front.dbg.attached.contains s.cur.asid) ∧ v.toNat < 8 ∧ reads 0x012 v) ∧
    (∀ k, k < 8 → reads (0x018 + BitVec.ofNat 16 k) (vget s.cur.trec k)) ∧
    (((List.range 12).all fun i => decide (vget s.cur.fifo i ≤ 16)) = true →
      ∃ v : Word, (∀ i, i < 12 → v.toNat / 32 ^ i % 32 = vget s.cur.fifo i) ∧ v.toNat < 2 ^ 60 ∧ reads 0x032 v) ∧
    (((∃ r w, s.cur.role = .task r w) ∨ ∃ c va, s.cur.role = .evaluator c va) →
      reads 0x001 0 ∧ (∀ k, k < 8 → reads (0x020 + BitVec.ofNat 16 k) 0) ∧ reads 0x030 0 ∧ reads 0x031 0) ∧
    ∀ r, s.cur.role = .control r ∨ s.cur.role = .urgent r →
      reads 0x001 (wordN ((s.res r).h + (s.res r).w * 8 + (s.res r).band0 * 2 ^ 7 + (s.res r).group0 * 2 ^ 10 + r.idx * 2 ^ 13)) ∧
      (∀ k, k < 8 → reads (0x020 + BitVec.ofNat 16 k) (wordN (vget (s.res r).gtol k).toNat)) ∧
      reads 0x030 (wordN ((s.res r).classLeave + (s.res r).explicitLeave)) ∧
      reads 0x031 (wordN ((s.res r).ringAt + (s.res r).plane * 8 + (if (s.res r).ringRun then 64 else 0)))) ∧
  (∀ (s : State) (a : BitVec 5),
    let v := s.rd a
    let kept (t : State) : Prop := t.cur.pc = s.cur.pc + 4 ∧ (∀ r, t.rd r = s.rd r) ∧ s.onlyThread t s.curThread ∧ s.sameMem t
    (Completes (.mts a 0x010) s fun t => kept t ∧ t.cur = { s.cur.clauses t.cur with tvec := v &&& ~~~3 }) ∧
    (Completes (.mts a 0x011) s fun t => kept t ∧ t.cur = { s.cur.clauses t.cur with tpc := v &&& ~~~3 }) ∧
    (Completes (.mts a 0x012) s fun t => kept t ∧ t.cur = { s.cur.clauses t.cur with intrap := v.getLsbD 0 }) ∧
    (∀ k, k < 8 → Completes (.mts a (0x018 + BitVec.ofNat 16 k)) s fun t => kept t ∧
      vget t.cur.trec k = v ∧ (∀ j, j ≠ k → vget t.cur.trec j = vget s.cur.trec j) ∧
      t.cur = { s.cur.clauses t.cur with trec := t.cur.trec }) ∧
    (∀ k, k < 8 → s.canTrap → ((∃ r w, s.cur.role = .task r w) ∨ ∃ c va, s.cur.role = .evaluator c va) →
      Completes (.mts a (0x020 + BitVec.ofNat 16 k)) s fun t => s.trapped t .access 0 0 0 s.cur.pc) ∧
    (∀ k r, k < 8 → (s.cur.role = .control r ∨ s.cur.role = .urgent r) → s.hasRes r = true →
      Completes (.mts a (0x020 + BitVec.ofNat 16 k)) s fun t =>
        t.cur.pc = s.cur.pc + 4 ∧ (∀ g, t.rd g = s.rd g) ∧ vget (t.res r).gtol k = v.setWidth 32 ∧
        t.res r = { s.res r with gtol := (t.res r).gtol })) ∧
  (∀ (s : State) (d a : BitVec 5) (n : BitVec 16),
    s.canTrap →
    (0x006 ≤ n.toNat ∧ n.toNat < 0x010 ∨ 0x013 ≤ n.toNat ∧ n.toNat < 0x018 ∨ 0x028 ≤ n.toNat ∧ n.toNat < 0x030 ∨
        0x033 ≤ n.toNat → Completes (.mfs d n) s fun t => s.trapped t .illegal 0 0 0 s.cur.pc) ∧
    (n.toNat < 0x010 ∨ 0x013 ≤ n.toNat ∧ n.toNat < 0x018 ∨ 0x028 ≤ n.toNat →
      Completes (.mts a n) s fun t => s.trapped t .illegal 0 0 0 s.cur.pc))

/-- R179, R193, R196: TRAP saves the address after itself and the code USER with its operand; BRK with no debugger
attached, a word that encodes no instruction and a fetch that fails save the address of the instruction, with the
codes BRK, ILLEGAL and the fetch's own (R177, 04 R91); a fetch behind a lost pool port sets bit 63 of word 2 (12
R271). R180: a trap with no handler, or inside a handler, ends the thread: it becomes FREE, and its record goes to the
die's fault record queue as a report with the trap's code; the residency of a control or urgent thread ends with the
code + 0x100. A task ends without its DONE increment: its residency counts it no more and takes the code + 0x100 as
its completion status. -/
def Obligations.TrapEntry : Prop :=
  (∀ (s : State) (m : BitVec 16) (w : BitVec 32) (c : Code) (w1 : BitVec 64),
    s.canTrap →
    (Completes (.trap m) s fun t => s.trapped t .user (m.zeroExtend 64) 0 0 (s.cur.pc + 4)) ∧
    (s.front.dbg.attached.contains s.cur.asid = false →
      Completes (.brk m) s fun t => s.trapped t .brk (m.zeroExtend 64) 0 0 s.cur.pc) ∧
    (Completes (.illegal w) s fun t =>
      (s.modCur fun x => { x with word := w }).trapped t .illegal 0 0 0 s.cur.pc) ∧
    (c ≠ .peerGone →
      Completes (.fetchFault c w1) s fun t => (s.modCur fun x => { x with word := 0 }).trapped t c w1 0 0 s.cur.pc) ∧
    (∀ l, s.translate s.curThread.die s.cur.asid w1.toNat = .ok l →
      Completes (.fetchFault .peerGone w1) s fun t => (s.modCur fun x => { x with word := 0 }).trapped t .peerGone w1
        (if l.p then 0 else wordN (2 ^ 63)) 0 s.cur.pc)) ∧
  (∀ (s : State) (m : BitVec 16) (w : BitVec 32) (c : Code) (w1 : BitVec 64),
    let ends (i : Instr) (code : Code) (v : Word) : Prop := Completes i s fun t =>
      (t.thr s.curThread).status = .free ∧
      (∃ rec : Rec8, (rec, 0, none) ∈ (t.die s.curThread.die).frq.due ∧ vget rec 0 = wordN (codeNum code) ∧ vget rec 1 = v) ∧
      (∀ r w, s.cur.role = .task (some r) w → s.hasRes r = true → (s.res r).freed = false →
        (t.res r).tasks = (s.res r).tasks - 1 ∧ (t.res r).status = codeNum code + 0x100 ∧ (t.res r).freed = false) ∧
      ∀ r, (s.cur.role = .control r ∨ s.cur.role = .urgent r) → s.hasRes r = true → (s.res r).freed = false →
        (t.res r).freed = true ∧ (t.res r).status = codeNum code + 0x100 ∧ (t.res r).halted = true ∧ (t.res r).thread = none
    (s.cur.tvec = 0 ∨ s.cur.intrap = true) → s.curThread.die < 4 → s.cur.sbuf = [] →
    ends (.trap m) .user (m.zeroExtend 64) ∧
    (s.front.dbg.attached.contains s.cur.asid = false → ends (.brk m) .brk (m.zeroExtend 64)) ∧
    ends (.illegal w) .illegal 0 ∧ ends (.fetchFault c w1) c w1)

/-- R194, 18 R363: RTE returns to TPC and leaves the trap; TREC, TPC and every register stay. When the delivery it
answers froze the pitch, TREC0.ACT 00 thaws the pitch by one; 01 rolls a SNAP residency back to its last complete cut
(18 R369): its freeze count is 0, no tentative copy of its stores is left and no memory has changed, its bindings of
the cut run again, and every FE of its pages has the cut's element registers, block and GEN and empty tiles and
sampling units. Any other ends the residency with TREC0.CODE + 0x100. Outside a trap RTE traps ILLEGAL. R182: a
delivery held for a thread that may take one (outside a trap, R174; in no plane switch, 06 R141) is taken at an
instruction boundary: its record is in TREC, the pc in TPC, and the handler runs. -/
def Obligations.TrapReturnAndDelivery : Prop :=
  (∀ (s : State),
    (s.cur.intrap = true → s.cur.handlingFreeze = false →
      Completes .rte s fun t => t.cur = { s.cur with pc := s.cur.tpc, intrap := false, status := .ready } ∧
        s.onlyThread t s.curThread ∧ s.sameMem t) ∧
    (∀ r, s.cur.intrap = true → s.cur.handlingFreeze = true → s.cur.role = .control r → s.hasRes r = true →
      (fldN (vget s.cur.trec 0) 17 2 = 1 → (s.res r).snap = true → (s.res r).cut = none →
        Completes .rte s fun t => t.cur.pc = s.cur.tpc ∧ t.cur.intrap = false ∧ (t.res r).freeze = 0 ∧ (t.res r).cut = none ∧
          (∀ z ∈ t.tent, z.owner ≠ .snap r) ∧ (∀ b ∈ (s.res r).cutBinds, b ∈ (t.res r).binds) ∧ s.sameMem t ∧
          ∀ f y, f.die = r.die → f.page ∈ (s.res r).pages → mapFind s.fes f = some y → y.beneath = none → y.active < 6 →
            let x := vget (t.fe f).planes y.active
            x.e = y.cutShadow.e ∧ x.sel = y.cutShadow.sel ∧ x.genKey = y.cutShadow.genKey ∧ x.genCtr = y.cutShadow.genCtr ∧
            (t.fe f).tiles = .replicate 16 {} ∧ (t.fe f).samp = {}) ∧
      (fldN (vget s.cur.trec 0) 17 2 = 0 →
        Completes .rte s fun t =>
          t.cur = { s.cur with pc := s.cur.tpc, intrap := false, handlingFreeze := false, status := .ready } ∧
          t.res r = { s.res r with freeze := (s.res r).freeze - 1 }) ∧
      (fldN (vget s.cur.trec 0) 17 2 ≠ 0 → ¬(fldN (vget s.cur.trec 0) 17 2 = 1 ∧ (s.res r).snap = true) → (s.res r).freed = false →
        Completes .rte s fun t => t.cur.pc = s.cur.tpc ∧ t.cur.intrap = false ∧ (t.res r).freed = true ∧
          (t.res r).status = fldN (vget s.cur.trec 0) 0 16 + 0x100)) ∧
    (s.cur.intrap = false → s.cur.tvec ≠ 0 → Completes .rte s fun t => s.trapped t .illegal 0 0 0 s.cur.pc)) ∧
  (∀ (s : State) (q : ThreadId) (d : Delivery) (rest : List Delivery),
    (s.thr q).held = d :: rest → s.mayDeliver q = true → (s.thr q).tvec ≠ 0 →
    Completes (.asyncDelivery q) s fun t =>
      (t.thr q).trec = d.words ∧ (t.thr q).tpc = codeAddr (s.thr q).pc ∧ (t.thr q).pc = (s.thr q).tvec ∧ (t.thr q).intrap = true ∧
      (t.thr q).handlingFreeze = d.freezes ∧ (t.thr q).status = .ready ∧ (∀ r, (t.thr q).reg r = (s.thr q).reg r))

/-- R195: HALT, with its stores performed and its engine commands complete, ends the thread; the halt of a control
thread is noted in its residency, and a task with no DONE address is no longer counted in its own (08 R169). It stores
nothing. R196, 19 R383: BRK with a debugger attached to its ASID asks for a freeze, is noted, and retires. R197, 18
R368: MARK starts a cut with its operand's number and asks every active input binding for a MARK; with none active the
cut completes at once. -/
def Obligations.HaltBreakMark : Prop :=
  (∀ (s : State) (r : ResId),
    s.cur.sbuf = [] → s.cur.enginesSettled = true → s.cur.held = [] → s.hasRes r = true →
    (s.cur.role = .control r → Completes .halt s fun t =>
      (t.thr s.curThread).status = .free ∧ (t.thr s.curThread).role = .none ∧
      t.res r = { s.res r with halted := true, thread := none } ∧ s.sameMem t) ∧
    (s.cur.role = .task (some r) 0 → Completes .halt s fun t =>
      (t.thr s.curThread).status = .free ∧ (t.thr s.curThread).role = .none ∧
      t.res r = { s.res r with tasks := (s.res r).tasks - 1 } ∧ s.sameMem t)) ∧
  (∀ (s : State) (m : BitVec 16),
    s.front.dbg.attached.contains s.cur.asid = true → s.front.dbg.frozen = false → s.front.dbg.freezeAt = none →
    Completes (.brk m) s fun t =>
      t.front.dbg.freezeAt = some s.cyc ∧ t.front.dbg.brk = some (s.curThread, s.cur.pc, m) ∧
      Stopped.thread s.curThread ∈ t.front.dbg.stopped ∧ t.cur.pc = s.cur.pc + 4 ∧ (∀ r, t.rd r = s.rd r) ∧ s.sameMem t) ∧
  (∀ (s : State) (m : BitVec 16) (r : ResId),
    s.cur.role = .control r → s.hasRes r = true → (s.res r).cut = none →
    Completes (.mark m) s fun t =>
      t.curThread = s.curThread ∧ t.cur.pc = s.cur.pc + 4 ∧ (∀ g, t.rd g = s.rd g) ∧
      ((∃ b ∈ (s.res r).binds, b.2.marks = true) →
        (∃ c, (t.res r).cut = some c ∧ c.num = m.zeroExtend 32 ∧ c.debug = false ∧ c.since = s.cyc) ∧
        ∀ b ∈ (t.res r).binds, b.2.marks = true → b.2.markDue = some (m.zeroExtend 32, false)) ∧
      ((∀ b ∈ (s.res r).binds, b.2.marks = false) →
        (t.res r).cut = none ∧ (t.res r).cutCommitted = some (m.zeroExtend 32)))

/-! ### Configuration, launches, power, rotations, spores -/

/-- 05 R125, 06 R141: CFG.LOAD stages an image that obeys the rules, for planes that are not in use, and returns 0;
for planes in use it returns CFG_BUSY, and for an image that does not obey them its refusal's code, and stages
nothing. Which planes are in use beside those that R141 names, the ones of a switch under way and of a spliced
successor, is the model's reading (`loadBusy`; DEDUCED, log entry 30). (`i` is the state after the pop clause.) 06
R141, 05 R127: CFG.ARM with nothing staged returns 0. Once no bank of the staged planes is in use and the explicit
leave covers what their power class needs, beside what other waiting CFG.ARMs have drawn of it, it writes the staged
planes into their FEs and returns 0; with banks in use it answers BANK_BUSY (11) and writes none. -/
def Obligations.ImagesStageAndArm : Prop :=
  (∀ (s i : State) (a b : BitVec 5) (u p : BitVec 3) (r : ResId),
    let x := i.res r
    let image := checkImage i.cfgReader (i.rd a).toNat x.h x.w (i.pitchHeld r x)
    let refuses (c : Code) : Prop := Completes (.cfgLoad a b u p) s fun t =>
      i.wentOn t b (wordN (codeNum c)) ∧ (t.res r).staged = x.staged ∧ i.sameMem t
    s.issue p = some i → i.cfgRes = some r → i.hasRes r = true → i.cur.sbuf = [] →
    (∀ g ps, image = .ok (g, ps) → x.loadBusy (g.staged r x) = false →
      Completes (.cfgLoad a b u p) s fun t => i.wentOn t b 0 ∧ (t.res r).staged = some (g.staged r x)) ∧
    (∀ g ps, image = .ok (g, ps) → x.loadBusy (g.staged r x) = true → x.freed = false → x.thread.isSome = true →
      refuses .cfgBusy) ∧
    (∀ y, image = .error (.refused y) → x.freed = false → x.thread.isSome = true → refuses y.code)) ∧
  (∀ (s i : State) (b : BitVec 5) (u p : BitVec 3) (r : ResId),
    let x := i.res r
    let idle : Prop := ∀ q ∈ i.front.leaveReqs, ∀ z, q.who ≠ .cfgArm i.curThread z ∧ q.who ≠ .pwrAsk i.curThread z
    s.issue p = some i → i.cfgRes = some r → i.hasRes r = true → idle →
    (x.staged = none → Completes (.cfgArm b u p) s fun t => i.wentOn t b 0 ∧ i.onlyThread t i.curThread) ∧
    ∀ st : Staged, x.staged = some st →
      let need := (st.power + 1) * x.h * x.w - x.classLeave
      (i.bankBusy st.banks = true →
        Completes (.cfgArm b u p) s fun t => i.wentOn t b 11 ∧ (t.res r).staged = some st ∧ i.sameMem t ∧ t.fes = i.fes) ∧
      (i.bankBusy st.banks = false → need + i.drawnOf r ≤ x.explicitLeave →
        (∀ y ∈ st.feBlocks, y.2.1 < 6) → (st.feBlocks.map fun y => (y.1, y.2.1)).Nodup →
        Completes (.cfgArm b u p) s fun t => i.wentOn t b 0 ∧ (t.res r).staged = none ∧
          (∀ y ∈ st.feBlocks, (t.plane y.1 y.2.1).blocks = y.2.2.blocks ∧ (t.plane y.1 y.2.1).recs = y.2.2.recs) ∧
          (t.res r).classLeave = x.classLeave + need ∧ (t.res r).explicitLeave = x.explicitLeave - need ∧
          (t.res r).power = max x.power st.power ∧ i.sameMem t))

/-- 06 R141: CFG.SWAP and CFG.SEQ ask for a plane switch and wait; when it has been made they retire. CFG.SEQ with 0
stops the ring. 06 R141: CFG.FREE ends the residency: it is freed, its switch and its ring are gone, its status stays.
Of an armed one it discards every stream binding and every token in flight, at the ports, on the tracks and on the
page network, and writes back the banks: none holds a line, and a bank line's dirty bytes are memory's. -/
def Obligations.SwitchAndFree : Prop :=
  (∀ (s i : State) (a : BitVec 5) (u p : BitVec 3) (r : ResId) (l : Leaf) (k : Nat) (es : List (Nat × Nat)),
    let x := i.res r
    let asks (n : Instr) (target : Nat) (ring : Option Nat) : Prop :=
      (i.cur.stage = 0 → Completes n s fun t =>
        (t.res r).switch = some { target, ring, asker := some i.curThread, since := i.cyc } ∧
        (t.res r).ringRun = false ∧ t.cur.status = .stalled ∧ t.cur.stage = 1 ∧ t.cur.pc = i.cur.pc ∧
        (∀ g, t.rd g = i.rd g) ∧ i.sameMem t) ∧
      (i.cur.stage ≠ 0 → Completes n s fun t => i.wentOn t 0 0 ∧ i.onlyThread t i.curThread)
    s.issue p = some i → i.cfgRes = some r → i.hasRes r = true → x.switch = none → x.urgent = false →
    ((i.rd a).toNat ≤ 4 → asks (.cfgSwap a u p) (i.rd a).toNat none) ∧
    (i.rd a ≠ 0 → i.cur.sbuf = [] → i.cur.copied = none → i.plainAt i.curAgent (i.rd a).toNat 64 l → l.r = true →
      seqRing (i.line (l.pa / 64)) (24 * x.h * x.w) = some (k, es) →
      asks (.cfgSeq a u p) (es.getD k (0, 0)).1 (some k)) ∧
    (i.rd a = 0 → Completes (.cfgSeq a u p) s fun t => i.wentOn t 0 0 ∧ t.res r = { x with ringRun := false } ∧ i.sameMem t)) ∧
  (∀ (s i : State) (u p : BitVec 3) (r : ResId),
    s.issue p = some i → i.cfgRes = some r → i.hasRes r = true → (i.res r).freed = false →
    Completes (.cfgFree u p) s fun t => i.wentOn t 0 0 ∧ (t.res r).freed = true ∧ (t.res r).status = (i.res r).status ∧
      (t.res r).switch = none ∧ (t.res r).ringRun = false ∧
      ((i.res r).state = .armed →
        (t.res r).binds = [] ∧ (∀ e ∈ (t.res r).edges, e.netq = []) ∧
        (∀ k z, (k, z) ∈ t.latches → k.die = r.die → k.p5 = (i.res r).urgent → (i.res r).covers k.row k.col = false) ∧
        (∀ f k j, f.die = r.die → f.page ∈ (i.res r).pages → k < 6 → (i.res r).usesPlane k = true → j < 8 →
          (vget (t.plane f k).inp j).fifo = [] ∧ (vget (t.plane f k).inp j).resident = none ∧ (vget (t.plane f k).outp j).reg = []) ∧
        (∀ f b, f.die = r.die → f.page ∈ (i.res r).pages → (t.fe f).bank = some b → b.lines = []) ∧
        ∀ f b n x, ((i.fes.filter fun q => decide (q.1.die = r.die) && (i.res r).pages.contains q.1.page && q.2.bank.isSome).map (·.1)) = [f] →
          (i.fe f).bank = some b → b.lines = [(n, x)] → x.peer = none → x.pa % 64 = 0 → i.tag (x.pa / 64) = 0 → x.dirty ≠ 0 →
          t.mem = i.mem.writeBytes x.pa (lineBytes (mergeLine (i.line (x.pa / 64)) x.data x.dirty))))

/-- 06 R142, R130, R132, R133: LAUNCH puts its record, with the thread's ASID, at the end of the CP queue of its
priority and class on the die it names; while that queue holds 64 it waits. A record for an excluded die completes
with status 13, one whose shape can never fit with status 2, in its completion pair, and is queued nowhere: every
queue of every die holds the records it held. (`i` is the state after the pop clause, `m` after the record has been
read.) 06 R138, R142, R133: SPLICE loads its successor onto the pitch of its own residency and links the two; the
completion pair of a successor that may not be loaded takes the status of its refusal, and nothing is linked. No
splice of the pitch is pending: the residency has no successor and is none (DEDUCED, log entry 74). (`i` is the state
after the pop clause, `m` after the record has been read.) -/
def Obligations.LaunchAndSplice : Prop :=
  (∀ (s i : State) (a : BitVec 5) (u p : BitVec 3) (l : Leaf),
    let rec0 := i.line (l.pa / 64)
    let m := i.havingRead (i.rd a) 64 (lineBytes rec0)
    let rec1 := putFld rec0 88 16 i.cur.asid.toNat
    let d := if fldN rec0 83 3 = 7 then i.curThread.die else fldN rec0 83 3
    let k := fldN rec0 71 2 * 4 + fldN rec0 73 2
    let ends (home status : Nat) : Prop := ∀ z : Leaf, m.pairLands home i.cur.asid (fld rec1 320 64) z →
      Completes (.launch a u p) s fun t => i.wentOn t 0 0 ∧ (∀ e j, t.queued e j = i.queued e j) ∧
        t.mem = m.mem.writeBytes z.pa (pairBytes (leNat (m.mem.readBytes z.pa 8)) status)
    s.issue p = some i → i.curThread.tid ≠ 0 → i.cur.sbuf = [] → i.cur.copied = none →
    i.plainAt i.curAgent (i.rd a).toNat 64 l → l.r = true → deviceRecBad rec0 false = false →
    ((i.die d).live = false → ends i.curThread.die 13) ∧
    ((i.die d).live = true → (i.die d).everFits (recH rec1) (recW rec1) = false → ends d 2) ∧
    (d < 4 → (i.die d).live = true → (i.die d).everFits (recH rec1) (recW rec1) = true →
      ((vget (i.die d).queues k).length < 64 →
        Completes (.launch a u p) s fun t => i.wentOn t 0 0 ∧ i.sameMem t ∧
          ∃ q : QRec, q.record = rec1 ∧ q.asid = i.cur.asid ∧
            vget (t.die d).queues k = vget (i.die d).queues k ++ [q] ∧
            ∀ j, j ≠ k → vget (t.die d).queues j = vget (i.die d).queues j) ∧
      (64 ≤ (vget (i.die d).queues k).length →
        Completes (.launch a u p) s fun t => t.cur.status = .stalled ∧ t.cur.pc = i.cur.pc ∧ i.sameMem t ∧
          vget (t.die d).queues k = vget (i.die d).queues k))) ∧
  (∀ (s i : State) (a : BitVec 5) (u p : BitVec 3) (l : Leaf) (r : ResId) (idx : Nat),
    let rec0 := i.line (l.pa / 64)
    let m := i.havingRead (i.rd a) 64 (lineBytes rec0)
    let rec1 := putFld rec0 88 16 i.cur.asid.toNat
    s.issue p = some i → i.curThread.tid ≠ 0 → i.cur.sbuf = [] → i.cur.copied = none →
    i.plainAt i.curAgent (i.rd a).toNat 64 l → l.r = true →
    deviceRecBad rec0 true = false → i.curRes = some r → i.hasRes r = true → (i.die r.die).freeIdx = some idx →
    (i.res r).successor = none → (i.res r).predecessor = none →
    (∀ g ps, m.spliceLoad r rec1 i.cur.asid = .ok (g, ps) →
      Completes (.splice a u p) s fun t => i.wentOn t 0 0 ∧ (t.res r).successor = some idx ∧
        (t.res ⟨r.die, idx⟩).predecessor = some r.idx ∧ (t.res ⟨r.die, idx⟩).record = rec1 ∧
        (t.res ⟨r.die, idx⟩).state = .loaded ∧ t.hasRes ⟨r.die, idx⟩ = true) ∧
    (∀ c, m.spliceLoad r rec1 i.cur.asid = .error c →
      Completes (.splice a u p) s fun t => i.wentOn t 0 0 ∧ (t.res r).successor = none ∧
        ∀ z : Leaf, m.pairLands r.die i.cur.asid (fld rec1 320 64) z →
          t.mem = m.mem.writeBytes z.pa (pairBytes (leNat (m.mem.readBytes z.pa 8)) c)))

/-- 07 R156: GSL starts a guard in a free entry of its die, with its record, its tolerance register's value and its
completion pair. That it takes the lowest free entry is the model's choice (DESIGN CHOICE, log entry 82). -/
def Obligations.GuardStarts : Prop :=
  ∀ (s i : State) (a b : BitVec 5) (k u p : BitVec 3) (l : Leaf) (e : Nat),
    let d := i.curThread.die
    s.issue p = some i → i.curThread.tid ≠ 0 → i.fromGuard = false → i.cur.sbuf = [] → i.cur.copied = none →
    i.plainAt i.curAgent (i.rd a).toNat 64 l → l.r = true → i.rd b ≠ 0 → (i.rd b).toNat % 16 = 0 →
    guardBad (i.line (l.pa / 64)) = false → d < 4 → (i.die d).guardWait = [] → e < 16 → vget (i.die d).guards e = none →
    (∀ j, j < e → vget (i.die d).guards j ≠ none) →
    Completes (.gsl a b k u p) s fun t => i.wentOn t 0 0 ∧ i.sameMem t ∧
      (∃ g : GuardEntry, vget (t.die d).guards e = some g ∧ g.record = i.line (l.pa / 64) ∧ g.asid = i.cur.asid ∧
        g.pair = i.rd b ∧ g.tiles = [] ∧ g.tol = i.gtolFor k) ∧
      ∀ j, j ≠ e → vget (t.die d).guards j = vget (i.die d).guards j

/-- 06 R143: PWR.ASK takes its units from the pool when the pool holds them and adds them to the residency's explicit
leave; else it returns 0 and takes none without the wait bit, and joins the queue of those that wait with it. PWR.GIVE
returns to the pool no more than the explicit leave, without what waiting CFG.ARMs have drawn of it. -/
def Obligations.PowerLeaveMoves : Prop :=
  ∀ (s i : State) (a b : BitVec 5) (u p : BitVec 3) (r : ResId),
    let n := fldN (i.rd a) 0 12
    let x := i.res r
    let back := min (i.rd a).toNat (x.explicitLeave - i.drawnOf r)
    s.issue p = some i → i.curThread.tid ≠ 0 → i.curRes = some r → i.hasRes r = true →
    (n ≠ 0 → (i.rd a).toNat < 2 ^ 13 → (∀ q ∈ i.front.leaveReqs, q.who ≠ .pwrAsk i.curThread r) → i.front.level < 2 →
      n ≤ i.front.poolFree →
      Completes (.pwrAsk a b u p) s fun t => i.wentOn t b (wordN n) ∧ i.sameMem t ∧
        t.front = { i.front with poolFree := i.front.poolFree - n } ∧
        t.res r = { x with explicitLeave := x.explicitLeave + n }) ∧
    (n ≠ 0 → (i.rd a).toNat < 2 ^ 12 → i.front.poolFree < n →
      Completes (.pwrAsk a b u p) s fun t => i.wentOn t b 0 ∧ i.onlyThread t i.curThread) ∧
    (n ≠ 0 → 2 ^ 12 ≤ (i.rd a).toNat → (i.rd a).toNat < 2 ^ 13 →
      (∀ q ∈ i.front.leaveReqs, q.who ≠ .pwrAsk i.curThread r) → i.front.poolFree < n →
      Completes (.pwrAsk a b u p) s fun t => t.cur.status = .stalled ∧ t.cur.pc = i.cur.pc ∧ i.sameMem t ∧
        t.front = { i.front with leaveReqs := i.front.leaveReqs ++ [{ who := .pwrAsk i.curThread r, units := n, prio := x.prio }] }) ∧
    (Completes (.pwrGive a u p) s fun t => i.wentOn t 0 0 ∧ i.sameMem t ∧
      t.front = { i.front with poolFree := i.front.poolFree + back } ∧
      t.res r = { x with explicitLeave := x.explicitLeave - back })

/-- 11 R245-R248, R251, R252: JOIN puts a record's slot into the lowest empty phase and returns it; LEAVE writes a
slot at rest out and empties it; STAT returns a slot's word or the rotation's; CLR makes a faulted slot live; SAVE
begins a save revolution and retires with its header written when every phase has been saved. Memory after LEAVE and
SAVE is that after the store of the slot's record and of the header. A FAULTED record's slot keeps its counters as
those of the chunk that faulted (DEDUCED, log entry 17). 11 R252: LOAD with no map puts the records of an image that
are not EMPTY into the phases 0, 1, … in the order of their old phases, and writes each record's new phase behind the
image: memory is that after the store of those bytes. (`m` is the state after the header has been read, `k` after the
records have been read too.) -/
def Obligations.RotationInstructions : Prop :=
  (∀ (s i : State) (a b : BitVec 5) (n u p : BitVec 3) (r : ResId) (q : Rotation) (bs : List Byte) (ph : Nat)
    (ps : List Piece),
    let at_ (t : State) (ph : Nat) : Option Slot := (t.rot r n.toNat).map fun q => q.slot ph
    let l := lineOf (bs.take 64)
    s.issue p = some i → i.cur.role = .control r → i.hasRes r = true → i.rot r n.toNat = some q → i.cur.sbuf = [] →
    i.cur.copied = none → q.slots.length = q.depth → ph < q.depth → q.depth ≤ 256 →
    (fldN (i.rd a) 0 6 = 0 → (i.recordRead i.curAgent (i.rd a).toNat (64 * (q.width + 1))).1 = .ok (some bs) →
      slotRecBad l = false → fldN l 134 2 = q.width - 1 → bitOf l 136 = q.k → fldN l 0 3 ≠ 0 → fldN l 0 3 ≠ 4 →
      (q.slot ph).status = .empty → (∀ j, j < ph → (q.slot j).status ≠ .empty) →
      Completes (.rotJoin a b n u p) s fun t => i.wentOn t b (wordN ph) ∧
        (i.havingRead (i.rd a) (64 * (q.width + 1)) bs).sameMem t ∧
        at_ t ph = some (recSlot l q bs) ∧ ∀ j, j ≠ ph → at_ t j = at_ i j) ∧
    (fldN (i.rd b) 0 6 = 0 → (i.rd a).toNat = ph → (q.slot ph).status = .live → (q.slot ph).atRest q.chunk = true →
      i.slotBind r q.num ph = none → i.resolve i.curAgent (i.rd b).toNat (64 * (q.width + 1)) .w = .ok ps →
      (i.slotRecord r q ph).length = 64 * (q.width + 1) →
      (i.storePieces i.curAgent ps (i.slotRecord r q ph)).1 = .done →
      Completes (.rotLeave a b n u p) s fun t => t.curThread = i.curThread ∧ t.cur.pc = i.cur.pc + 4 ∧
        t.mem = (i.storePieces i.curAgent ps (i.slotRecord r q ph)).2.mem ∧
        (∃ z, at_ t ph = some z ∧ z.status = .empty)) ∧
    ((i.rd a).toNat = ph → Completes (.rotStat a b n u p) s fun t => i.wentOn t b (wordN (i.slotWord r q ph)) ∧
      i.onlyThread t i.curThread) ∧
    (i.rd a = 256 → Completes (.rotStat a b n u p) s fun t => i.wentOn t b (wordN (i.rotWord r q)) ∧
      i.onlyThread t i.curThread) ∧
    ((i.rd a).toNat = ph → (q.slot ph).status = .faulted →
      Completes (.rotClr a n u p) s fun t => i.wentOn t 0 0 ∧ i.sameMem t ∧
        at_ t ph = some { q.slot ph with status := .live, fcode := 0, chunkCtr := none, chunkLen := 0 } ∧
        ∀ j, j ≠ ph → at_ t j = at_ i j) ∧
    (fldN (i.rd a) 0 6 = 0 → q.saving = none →
      i.resolve i.curAgent (i.rd a).toNat (64 + q.depth * (64 * (q.width + 1))) .w = .ok ps →
      Completes (.rotSave a n u p) s fun t => t.cur.status = .stalled ∧ t.cur.pc = i.cur.pc ∧ i.sameMem t ∧
        (t.rot r n.toNat).map (·.saving) = some (some { who := i.curThread, image := i.rd a })) ∧
    (∀ v, fldN (i.rd a) 0 6 = 0 → q.saving = some v → q.depth ≤ v.done →
      i.resolve i.curAgent (i.rd a).toNat (64 + q.depth * (64 * (q.width + 1))) .w = .ok ps →
      (i.res r).thread.isSome = true → ∀ ps', i.resolve i.curAgent (i.rd a).toNat 64 .w = .ok ps' →
      (i.storePieces i.curAgent ps' (lineBytes (rotHeader q (v.p0.getD 0) v.live))).1 = .done →
      Completes (.rotSave a n u p) s fun t => t.curThread = i.curThread ∧ t.cur.pc = i.cur.pc + 4 ∧
        t.mem = (i.storePieces i.curAgent ps' (lineBytes (rotHeader q (v.p0.getD 0) v.live))).2.mem ∧
        (t.rot r n.toNat).map (·.saving) = some none)) ∧
  (∀ (s i : State) (a b : BitVec 5) (n u p : BitVec 3) (r : ResId) (q : Rotation) (l : Leaf) (bs : List Byte)
    (ns : List (Option Nat)) (ps : List Piece),
    let h := i.line (l.pa / 64)
    let m := i.havingRead (i.rd a) 64 (lineBytes h)
    let d := fldN h 40 9
    let len := 64 * (q.width + 1)
    let k := (m.recordRead m.curAgent ((i.rd a).toNat + 64) (d * len)).2
    let recs := (List.range d).map fun k => (bs.drop (k * len)).take len
    let metas := recs.map fun x => lineOf (x.take 64)
    let bytes : List Byte := ns.map fun x => match x with
      | none => 255
      | some ν => BitVec.ofNat 8 ν
    s.issue p = some i → i.cur.role = .control r → i.hasRes r = true → i.rot r n.toNat = some q → i.cur.sbuf = [] →
    i.cur.copied = none → i.plainAt i.curAgent (i.rd a).toNat 64 l → l.r = true → rotHeaderOk q h = true → i.rd b = 0 →
    (m.recordRead m.curAgent ((i.rd a).toNat + 64) (d * len)).1 = .ok (some bs) →
    k.resolve k.curAgent ((i.rd a).toNat + 64 + d * len) d .w = .ok ps → (k.storePieces k.curAgent ps bytes).1 = .done →
    metas.any slotRecBad = false → (metas.filter fun x => decide (fldN x 0 3 ≠ 0)).length ≤ q.depth →
    (∀ z ∈ q.slots, z.status = .empty) → newPhases metas q.depth none = some ns →
    Completes (.rotLoad a b n u p) s fun t => t.curThread = i.curThread ∧ t.cur.pc = i.cur.pc + 4 ∧
      t.mem = (k.storePieces k.curAgent ps bytes).2.mem ∧
      ∃ q', t.rot r n.toNat = some q' ∧ q'.slots.length = q.depth ∧
        ∀ k ν, k < d → ns.getD k none = some ν → ν < q.depth →
          (q'.slot ν).stream = fld (metas.getD k 0) 32 32 ∧ (q'.slot ν).status ≠ .empty)

/-- 15 R327-R329: SET, FILL and FAIL make a cell that is VALUE or of the thread's own ASID a spore, a value or a
failed cell; unless it is GROWING they write the 64 bytes of their source into it, with the thread's ASID where the
form puts one, and no other line's tag changes. SET of a GROWING cell traps SPORE_BUSY. PEEK returns the cell's word;
nothing else changes but what the caches hold. (`m` is the state after the source has been read.) 16 R344: KVT to a
length that keeps every page sets the header's NPOS and NENT and nothing else. -/
def Obligations.SporeAndLengthInstructions : Prop :=
  (∀ (s i : State) (a b : BitVec 5) (u p : BitVec 3) (c z : Leaf),
    let line := c.pa / 64
    let src := i.line (z.pa / 64)
    let m := i.havingRead (i.rd b) 64 (lineBytes src)
    let cell : Prop := (i.rd a).toNat % 64 = 0 ∧ (i.rd a).toNat < 0x80000000000000 ∧
      i.translate i.curThread.die i.cur.asid (i.rd a).toNat = .ok c ∧ c.t = true ∧ c.p = false ∧ i.portGone c.pa = false ∧
      i.foreign line = false
    let source : Prop := i.plainAt i.curAgent (i.rd b).toNat 64 z ∧ z.r = true ∧ i.cur.copied = none
    let goes (n : Instr) (l : Line) (tag : BitVec 2) (how : Prop) : Prop :=
      cell → source → c.w = true → how →
      Completes n s fun t => i.wentOn t 0 0 ∧ t.tag line = tag ∧
        (i.tag line ≠ 2 → t.mem = i.mem.writeBytes (line * 64) (lineBytes l) ∧ ∀ x, x ≠ line → t.tag x = i.tag x)
    let calm : Prop := m.calmLine m.curAgent line ∧ m.sent = [] ∧ m.unobserved
    s.issue p = some i → i.cur.sbuf = [] →
    goes (.sporeSet a b u p) (putFld src 144 16 i.cur.asid.toNat) 1 (calm ∧ i.tag line ≠ 2 ∧ sporeBad src = false) ∧
    goes (.sporeFill a b u p) src 0 (if i.tag line = 0 then m.plainAt m.curAgent (i.rd a).toNat 64 c else calm) ∧
    goes (.sporeFail a b u p) (putFld src 48 16 i.cur.asid.toNat) 3 calm ∧
    (cell → source → c.w = true → sporeBad src = false → i.tag line = 2 → i.canTrap →
      Completes (.sporeSet a b u p) s fun t =>
        i.trapped t .sporeBusy (i.rd a) ((growerOf (i.line line)).zeroExtend 64) 0 i.cur.pc) ∧
    (cell → c.r = true → i.calmLine i.curAgent line → i.unobserved →
      Completes (.sporePeek a b u p) s fun t => i.wentOn t b (i.peekWord line) ∧ ∃ k, i.cached k ∧ k.onlyThread t i.curThread)) ∧
  (∀ (s i : State) (a b : BitVec 5) (u p : BitVec 3) (l : Leaf),
    let h := i.line (l.pa / 64)
    let n := (i.rd b).toNat
    let ptok := fldN h 32 16
    let keep := (n + ptok - 1) / ptok
    s.issue p = some i → i.cur.sbuf = [] → i.cur.copied = none → i.cur.stage = 0 →
    i.plainAt i.curAgent (i.rd a).toNat 64 l → l.r = true → l.w = true → fldN h 48 16 = 0 → fldN h 128 384 = 0 → ptok ≠ 0 → fldN h 64 32 ≤ fldN h 96 32 → n ≤ fldN h 0 32 →
    fldN h 64 32 ≤ keep →
    Completes (.kvt a b u p) s fun t => i.wentOn t 0 0 ∧
      t.mem = i.mem.writeBytes l.pa (lineBytes (putFld (putFld h 0 32 n) 64 32 keep)))

/-! ### Element instructions -/

/-- 02 R36, 10 R215, Table 10-4: the integer operations compute element by element on patterns of the type's width and
deliver the result to every target. Where the table admits all variants, variant 0 wraps the exact value, 1 clamps it
to the type's range, and 2 gives it where every element is in range. An element of a comparison is all ones or zero;
SEL is admitted for floating-point types too. 02 R36, 10 R216: DOT4 adds four byte products to each lane of its
accumulator, exactly, and applies its variant once: 0 wraps the total, 1 clamps it, 2 gives it where every lane is in
range. -/
def Obligations.IntegerElementResults : Prop :=
  (∀ (s : State) (g : Firing) (T : BitVec 4) (q : BitVec 1) (u t : BitVec 9) (A B C : Line),
    let n := typeBits T.toNat
    let a (e : Nat) : BitVec n := BitVec.ofNat n (elem T.toNat A e)
    let b (e : Nat) : BitVec n := BitVec.ofNat n (elem T.toNat B e)
    let c (e : Nat) : BitVec n := BitVec.ofNat n (elem T.toNat C e)
    let sg := typeSigned T.toNat
    let num (x : BitVec n) : Int := if sg then x.toInt else x.toNat
    let lo : Int := if sg then -(2 ^ (n - 1)) else 0
    let hi : Int := if sg then 2 ^ (n - 1) - 1 else 2 ^ n - 1
    let gives (i : Instr) (r : Nat → BitVec n) : Prop :=
      Completes i s fun x => s.yields x [t, u] (elemLine T fun e => (r e).toNat)
    let varied (i : BitVec 2 → Instr) (r : Nat → Int) : Prop :=
      gives (i 0) (fun e => BitVec.ofInt n (r e)) ∧ gives (i 1) (fun e => BitVec.ofInt n (max lo (min hi (r e)))) ∧
      ((∀ e, e < typeElems T.toNat → lo ≤ r e ∧ r e ≤ hi) → gives (i 2) fun e => BitVec.ofInt n (r e))
    let mask (p : Bool) : BitVec n := if p then BitVec.allOnes n else 0
    s.firingAt g → g.runs q → g.operand .a = .value A →
    (T.toNat < 8 →
      varied (.abs T q · u t) (fun e => (num (a e)).natAbs) ∧
      gives (.popcE T q u t) (fun e => BitVec.ofNat n ((List.range n).countP fun j => (a e).getLsbD j)) ∧
      ∃ z : Nat → Nat, (∀ e, z e ≤ n ∧ (∀ j, n - z e ≤ j → j < n → (a e).getLsbD j = false) ∧
          (z e < n → (a e).getLsbD (n - 1 - z e) = true)) ∧ gives (.clzE T q u t) (fun e => BitVec.ofNat n (z e))) ∧
    (g.operand .b = .value B →
      (T.toNat < 8 →
        varied (.addE T q · u t) (fun e => num (a e) + num (b e)) ∧ varied (.subE T q · u t) (fun e => num (a e) - num (b e)) ∧
        varied (.mulE T q · u t) (fun e => num (a e) * num (b e)) ∧
        gives (.mulhE T q u t) (fun e => BitVec.ofInt n (num (a e) * num (b e) / 2 ^ n)) ∧
        gives (.andE T q u t) (fun e => a e &&& b e) ∧ gives (.orE T q u t) (fun e => a e ||| b e) ∧
        gives (.xorE T q u t) (fun e => a e ^^^ b e) ∧ gives (.andnE T q u t) (fun e => a e &&& ~~~(b e)) ∧
        varied (.shlE T q · u t) (fun e => num (a e) * 2 ^ ((b e).toNat % n)) ∧
        gives (.shrE T q u t) (fun e => a e >>> ((b e).toNat % n)) ∧
        gives (.shraE T q u t) (fun e => if sg then (a e).sshiftRight ((b e).toNat % n) else a e >>> ((b e).toNat % n)) ∧
        gives (.minE T q u t) (fun e => if num (a e) ≤ num (b e) then a e else b e) ∧
        gives (.maxE T q u t) (fun e => if num (a e) ≤ num (b e) then b e else a e) ∧
        gives (.cmpeq T q u t) (fun e => mask (a e == b e)) ∧ gives (.cmpne T q u t) (fun e => mask (a e != b e)) ∧
        gives (.cmplt T q u t) (fun e => mask (decide (num (a e) < num (b e)))) ∧
        gives (.cmple T q u t) (fun e => mask (decide (num (a e) ≤ num (b e))))) ∧
      (g.operand .c = .value C →
        (T.toNat < 8 → varied (.mad T q · u t) (fun e => num (a e) * num (b e) + num (c e))) ∧
        (T.toNat < 12 → gives (.sel T q u t) (fun e => if c e = 0 then b e else a e))))) ∧
  (∀ (s : State) (g : Firing) (T : BitVec 4) (q : BitVec 1) (u t : BitVec 9) (A B C : Line),
    let byte (x : Line) (e j : Nat) : BitVec 8 := BitVec.ofNat 8 (lane x e / 2 ^ (8 * j))
    let num (x : BitVec 8) : Int := if T = 4 then x.toInt else x.toNat
    let lo : Int := if T = 4 then -(2 ^ 31) else 0
    let hi : Int := if T = 4 then 2 ^ 31 - 1 else 2 ^ 32 - 1
    let total (e : Nat) : Int := (if T = 4 then (BitVec.ofNat 32 (lane C e)).toInt else (lane C e : Int)) +
      num (byte A e 0) * num (byte B e 0) + num (byte A e 1) * num (byte B e 1) +
      num (byte A e 2) * num (byte B e 2) + num (byte A e 3) * num (byte B e 3)
    let gives (v : BitVec 2) (r : Nat → Int) : Prop :=
      Completes (.dot4 T q v u t) s fun x => s.yields x [t, u] (elemLine T fun e => (r e % 2 ^ 32).toNat)
    s.firingAt g → g.runs q → (T = 4 ∨ T = 5) →
    g.operand .a = .value A → g.operand .b = .value B → g.operand .c = .value C →
    gives 0 total ∧ gives 1 (fun e => max lo (min hi (total e))) ∧
    ((∀ e, e < 16 → lo ≤ total e ∧ total e ≤ hi) → gives 2 total))

/-- 02 R36, 10 R206, R215, R216: `.sat` clamps to the type's range. `.ovt` gives the exact value where it is in range;
where it is not, outside a loop, the slot faults ARITH_OVF: nothing is delivered, the pitch freezes and the record, of
code 0x30, waits for the control thread. -/
def Obligations.VariantsSaturateOrTrap : Prop :=
  ∀ (s : State) (g : Firing) (T : BitVec 4) (q : BitVec 1) (u t : BitVec 9) (A B C : Line) (r : ResId) (h : ThreadId),
    let lo : Int := if typeSigned T.toNat then -(2 ^ (typeBits T.toNat - 1)) else 0
    let hi : Int := if typeSigned T.toNat then 2 ^ (typeBits T.toNat - 1) - 1 else 2 ^ typeBits T.toNat - 1
    let num (x : Line) (e : Nat) : Int := patInt T.toNat (elem T.toNat x e)
    let sum (e : Nat) : Int := num A e + num B e
    let dif (e : Nat) : Int := num A e - num B e
    let pro (e : Nat) : Int := num A e * num B e
    let mad (e : Nat) : Int := pro e + num C e
    let shl (e : Nat) : Int := num A e * 2 ^ (elem T.toNat B e % typeBits T.toNat)
    let abs (e : Nat) : Int := (num A e).natAbs
    let byte (x : Line) (e j : Nat) : Int := byteInt (typeSigned T.toNat) x e j
    let dot (e : Nat) : Int := num C e + byte A e 0 * byte B e 0 + byte A e 1 * byte B e 1 + byte A e 2 * byte B e 2 +
      byte A e 3 * byte B e 3
    let gives (i : Instr) (v : Nat → Int) : Prop :=
      Completes i s fun x => s.yields x [t, u] (elemLine T fun e => (v e % 2 ^ typeBits T.toNat).toNat)
    let within (v : Nat → Int) : Prop := ∀ e, e < typeElems T.toNat → lo ≤ v e ∧ v e ≤ hi
    let traps (i : Instr) : Prop := Completes i s fun x => s.overflows x g r h
    s.firingAt g → g.runs q → T.toNat < 8 → g.operand .a = .value A →
    (s.faultsReach g r h → ¬within abs → traps (.abs T q 2 u t)) ∧
    (g.operand .b = .value B →
    gives (.addE T q 1 u t) (fun e => max lo (min hi (sum e))) ∧
    gives (.subE T q 1 u t) (fun e => max lo (min hi (dif e))) ∧
    gives (.mulE T q 1 u t) (fun e => max lo (min hi (pro e))) ∧
    (within sum → gives (.addE T q 2 u t) sum) ∧ (within dif → gives (.subE T q 2 u t) dif) ∧
    (within pro → gives (.mulE T q 2 u t) pro) ∧
    (s.faultsReach g r h →
      (¬within sum → traps (.addE T q 2 u t)) ∧ (¬within dif → traps (.subE T q 2 u t)) ∧
      (¬within pro → traps (.mulE T q 2 u t)) ∧ (¬within shl → traps (.shlE T q 2 u t)) ∧
      (g.operand .c = .value C → (¬within mad → traps (.mad T q 2 u t)) ∧
        ((T = 4 ∨ T = 5) → ¬within dot → traps (.dot4 T q 2 u t)))))

/-- 02 R37-R42, 10 R217, R218, Table 10-5: the floating-point operations compute the exact value of their operands'
values and round once, in the mode their variant names, 0 being the plane's default; sign operations and FCLASS read
patterns. -/
def Obligations.FloatElementResults : Prop :=
  ∀ (s : State) (g : Firing) (T : BitVec 4) (q : BitVec 1) (v : BitVec 2) (u t : BitVec 9) (A B C : Line),
    let f := fmtOf T.toNat
    let m := if v = 0 then (s.plane s.curFe g.plane).rounding else v.toNat
    let a (e : Nat) : Val := f.val (elem T.toNat A e)
    let b (e : Nat) : Val := f.val (elem T.toNat B e)
    let c (e : Nat) : Val := f.val (elem T.toNat C e)
    let gives (i : Instr) (r : Nat → Nat) : Prop := Completes i s fun x => s.yields x [t, u] (elemLine T r)
    let mask (p : Bool) : Nat := if p then 2 ^ typeBits T.toNat - 1 else 0
    let signBit := 2 ^ (typeBits T.toNat - 1)
    s.firingAt g → g.runs q → 8 ≤ T.toNat → T.toNat ≤ 11 → g.operand .a = .value A →
    gives (.fabs T q u t) (fun e => elem T.toNat A e % signBit) ∧
    gives (.fneg T q u t) (fun e => if elem T.toNat A e < signBit then elem T.toNat A e + signBit
      else elem T.toNat A e - signBit) ∧
    gives (.frcp T q v u t) (fun e => f.rcp m (a e)) ∧ gives (.frsq T q v u t) (fun e => f.rsq m (a e)) ∧
    gives (.fexp2 T q v u t) (fun e => f.exp2 m (elem T.toNat A e) (a e)) ∧
    gives (.flog2 T q v u t) (fun e => f.log2 m (elem T.toNat A e) (a e)) ∧
    gives (.fclass T q u t) (fun e => floatClass f (elem T.toNat A e)) ∧
    (g.operand .b = .value B →
      gives (.fadd T q v u t) (fun e => f.roundVal m (sumVals m [a e, b e])) ∧
      gives (.fsub T q v u t) (fun e => f.roundVal m (sumVals m [a e, (b e).flip])) ∧
      gives (.fmul T q v u t) (fun e => f.roundVal m (mulVal (a e) (b e))) ∧
      gives (.fmin T q u t) (fun e => floatPick f false (elem T.toNat A e) (elem T.toNat B e)) ∧
      gives (.fmax T q u t) (fun e => floatPick f true (elem T.toNat A e) (elem T.toNat B e)) ∧
      gives (.fcmpeq T q u t) (fun e => mask ((a e).eq (b e))) ∧
      gives (.fcmplt T q u t) (fun e => mask ((a e).lt (b e))) ∧
      gives (.fcmple T q u t) (fun e => mask ((a e).le (b e))) ∧
      (g.operand .c = .value C →
        gives (.fma T q v u t) (fun e => f.roundVal m (sumVals m [mulVal (a e) (b e), c e]))))

/-- 10 R219-R222, 02 R43-R50: CVT converts each element its destination has room for and leaves zeros above. To an
integer it rounds by the plane's mode; variant 0 wraps, with 0 for an infinity or NaN, 1 clamps, an infinity to its
bound and NaN to 0, 2 gives values that are all in range and else faults ARITH_OVF. CVTSR draws one output of the
plane's generator for each inexact element and advances its counter by the draws; QBFP and DQBFP convert to and from
block floating point. -/
def Obligations.ConversionResults : Prop :=
  ∀ (s : State) (g : Firing) (q : BitVec 1) (S D m : BitVec 4) (v : BitVec 2) (t : BitVec 9) (A : Line) (r : ResId)
      (h : ThreadId),
    let p := s.plane s.curFe g.plane
    let rm := if v = 0 then p.rounding else v.toNat
    let lo : Int := if typeSigned D.toNat then -(2 ^ (typeBits D.toNat - 1)) else 0
    let hi : Int := if typeSigned D.toNat then 2 ^ (typeBits D.toNat - 1) - 1 else 2 ^ typeBits D.toNat - 1
    let val (e : Nat) : Val := (fmtOf S.toNat).val (elem S.toNat A e)
    let num (e : Nat) : Option Int :=
      if S.toNat < 8 then some (patInt S.toNat (elem S.toNat A e)) else (val e).toIntMode p.rounding
    let clamp (e : Nat) : Int :=
      if 8 ≤ S.toNat ∧ val e = .inf true then lo else if 8 ≤ S.toNat ∧ val e = .inf false then hi
      else max lo (min hi ((num e).getD 0))
    let gives (w : BitVec 2) (k : Nat → Int) : Prop := Completes (.cvt q S D w t) s fun x => s.yields x [t]
      (elemLine D fun e => if e < typeElems S.toNat then (k e % 2 ^ typeBits D.toNat).toNat else 0)
    let within : Prop := ∀ e, e < typeElems S.toNat → e < typeElems D.toNat → ∃ y, num e = some y ∧ lo ≤ y ∧ y ≤ hi
    let drawn := drawEach p.genKey p.genCtr (fmtOf D.toNat).draws (fun x u => (fmtOf D.toNat).roundStoch u x)
      ((List.range (min (typeElems S.toNat) (typeElems D.toNat))).map fun e => (fmtOf S.toNat).val (elem S.toNat A e))
    s.firingAt g → g.runs q → g.operand .a = .value A →
    (8 ≤ D.toNat → D.toNat ≤ 11 → S.toNat ≤ 11 → Completes (.cvt q S D v t) s fun x => s.yields x [t] (elemLine D fun e =>
      if e < typeElems S.toNat then
        (fmtOf D.toNat).roundVal rm (if 8 ≤ S.toNat then val e else Val.ofInt (patInt S.toNat (elem S.toNat A e)))
      else 0)) ∧
    (S.toNat ≤ 11 → D.toNat < 8 → gives 0 (fun e => (num e).getD 0) ∧ gives 1 clamp ∧
      (within → gives 2 fun e => (num e).getD 0) ∧
      (¬within → s.faultsReach g r h → Completes (.cvt q S D 2 t) s fun x => s.overflows x g r h)) ∧
    (Completes (.cvtsr q S D t) s fun x =>
      (s.modPlane s.curFe g.plane fun p => { p with genCtr := p.genCtr + BitVec.ofNat 32 drawn.2 }).yields x [t]
        (ofElems D.toNat drawn.1)) ∧
    (Completes (.qbfp q m S v t) s fun x =>
      let r := bfpConvert m.toNat
        (bfpInputs S.toNat (fldN (s.routeOf s.curFe g.plane) (440 + 3 * g.block) 3) (elemsOf S.toNat A)) (rndMode rm)
      s.yields x [t] (bfpToken m.toNat r.1 r.2)) ∧
    (Completes (.dqbfp q m D v t) s fun x =>
      s.yields x [t] (ofElems D.toNat ((bfpOfToken m.toNat A).2.map fun y =>
        (fmtOf D.toNat).roundVal rm (bfpVal m.toNat (bfpOfToken m.toNat A).1 y))))

/-- 10 R223, Table 10-7, 02 R51: RED puts the sum of all elements into every element and SCAN the sums of the elements
up to each. On integers variant 0 wraps, 1 clamps, 2 gives sums that are all in range and else faults ARITH_OVF; on
floats the sums are those of the tree of R51 in the mode the variant names. SHUF takes element b mod E of a, BCST one
element everywhere, ROTL turns the elements. -/
def Obligations.CrossLaneResults : Prop :=
  ∀ (s : State) (g : Firing) (T k : BitVec 4) (q : BitVec 1) (v : BitVec 2) (u t : BitVec 9) (A B : Line) (r : ResId)
      (h : ThreadId),
    let E := typeElems T.toNat
    let n := typeBits T.toNat
    let x (e : Nat) : Nat := elem T.toNat A e
    let sum (k : Nat) : Int := ((List.range k).map fun e => patInt T.toNat (x e)).sum
    let lo : Int := if typeSigned T.toNat then -(2 ^ (n - 1)) else 0
    let hi : Int := if typeSigned T.toNat then 2 ^ (n - 1) - 1 else 2 ^ n - 1
    let clamp (y : Int) : Int := max lo (min hi y)
    let gives (i : Instr) (k : Nat → Int) : Prop :=
      Completes i s fun y => s.yields y [t, u] (elemLine T fun e => (k e % 2 ^ n).toNat)
    let traps (i : Instr) : Prop := s.faultsReach g r h → Completes i s fun y => s.overflows y g r h
    let fits (y : Int) : Prop := lo ≤ y ∧ y ≤ hi
    let f := fmtOf T.toNat
    let m := if v = 0 then (s.plane s.curFe g.plane).rounding else v.toNat
    let levels := if E = 16 then 4 else 3
    let canon (p : Nat) : Nat := if (f.val p).isNan then f.nanBits else p
    let add (a b : Nat) : Nat := f.roundVal m (sumVals m [f.val a, f.val b])
    let up (d : Nat) (w : Nat → Nat) (e : Nat) : Nat := if d ≤ e then add (w e) (w (e - d)) else w e
    let pairs (w : Nat → Nat) (e : Nat) : Nat := add (w (2 * e)) (w (2 * e + 1))
    s.firingAt g → g.operand .a = .value A →
    (g.runs q → T.toNat < 8 →
      gives (.red T q 0 u t) (fun _ => sum E) ∧ gives (.red T q 1 u t) (fun _ => clamp (sum E)) ∧
      (fits (sum E) → gives (.red T q 2 u t) fun _ => sum E) ∧ (¬fits (sum E) → traps (.red T q 2 u t)) ∧
      gives (.scan T q 0 u t) (fun e => sum (e + 1)) ∧ gives (.scan T q 1 u t) (fun e => clamp (sum (e + 1))) ∧
      ((∀ e, e < E → fits (sum (e + 1))) → gives (.scan T q 2 u t) fun e => sum (e + 1)) ∧
      ((∃ e, e < E ∧ ¬fits (sum (e + 1))) → traps (.scan T q 2 u t))) ∧
    (g.runs q → 8 ≤ T.toNat → T.toNat ≤ 11 →
      (Completes (.red T q v u t) s fun z => s.yields z [t, u]
        (elemLine T fun _ => (List.range levels).foldl (fun w _ => pairs w) x 0)) ∧
      (Completes (.scan T q v u t) s fun z => s.yields z [t, u]
        (elemLine T fun e => (List.range levels).foldl (fun w j => up (2 ^ j) w) (fun e => canon (x e)) e))) ∧
    (g.runs q → g.operand .b = .value B → Completes (.shuf T q u t) s fun y => s.yields y [t, u] (elemLine T fun e => x (elem T.toNat B e % E))) ∧
    (Completes (.bcst k T t) s fun y => s.yields y [t] (elemLine T fun _ => x k.toNat)) ∧
    (Completes (.rotl k T t) s fun y => s.yields y [t] (elemLine T fun e => x ((e + k.toNat) % E)))

/-- 10 R208, 11 R228, R229: a PIN reads the resident token of its port, or the token at the head of its FIFO, and
leaves the port as its sticky field says: 0 keeps the token until END, 1 takes it, n more keeps it for n - 1 further
readings. A token of another kind than 0 is never kept; an EOS, and the MARK in a cut, stay at the head. A loop token
gives the firing its TAG and adds its SF and SH. 10 R205, R211-R213: POUT emits a token of its kind with a's data and
the port's next ordinal, marked when an EOS has left the port before it; KEEP and RELEASE are noted for the firing's
end when lane 0 of a is not zero; PKIND delivers the kind that this firing's PIN of the port has read, or that of the
token it would read: 0 for a resident. -/
def Obligations.PortInstructions : Prop :=
  (∀ (s : State) (g : Firing) (p : BitVec 3) (k : BitVec 4) (u t : BitVec 9) (tok : Token) (n : Nat),
    let f := s.curFe
    let port := vget (s.plane f g.plane).inp p.toNat
    let loop := s.loopPort f g.plane p.toNat
    let reads (kind : BitVec 3) (fresh : Option Token) (left : InPort) : Prop :=
      Completes (.pin p k u t) s fun x =>
        ((s.modPlane f g.plane fun y => { y with inp := vset y.inp p.toNat left }).withFiring fun h =>
          let h : Firing := { h with pins := h.pins ++ [⟨p.toNat, kind, fresh⟩] }
          if loop then { h with tag := some tok.tag, sf := h.sf || tok.sf, sh := h.sh || tok.sh } else h).yields
            x [t, u] tok.data
    let stays := tok.kind = 5 ∨ (g.kind = .cut ∧ tok.kind = 6)
    s.firingAt g →
    loop = false ∨ ((s.loopOf f g.plane).isSome = true ∧ (g.tag = none ∨ g.tag = some tok.tag) ∧ g.emitted = []) →
    (port.resident = some (tok, 0) → reads 0 none port) ∧
    (port.resident = some (tok, 1) → reads 0 none { port with resident := none }) ∧
    (port.resident = some (tok, n + 2) → reads 0 none { port with resident := some (tok, n + 1) }) ∧
    (port.resident = none → port.fifo.head? = some tok → stays → reads tok.kind none port) ∧
    (port.resident = none → port.fifo.head? = some tok → ¬stays →
      (tok.kind ≠ 0 ∨ k = 1 → reads tok.kind (some tok) { port with fifo := port.fifo.tail, headSeen := false }) ∧
      (tok.kind = 0 → k = 0 → reads 0 (some tok)
        { port with fifo := port.fifo.tail, headSeen := false, resident := some (tok, 0) }) ∧
      (tok.kind = 0 → 2 ≤ k.toNat → reads 0 (some tok)
        { port with fifo := port.fifo.tail, headSeen := false, resident := some (tok, k.toNat - 1) }))) ∧
  (∀ (s : State) (g : Firing) (p k : BitVec 3) (u t : BitVec 9) (A : Line) (tok : Token) (n : Nat) (w : PinRead),
    let f := s.curFe
    let port := vget (s.plane f g.plane).inp p.toNat
    let noted (i : Instr) (h : Firing → Firing) : Prop := Completes i s fun x => (s.withFiring h).yields x [] 0
    let pkind (kind : BitVec 3) : Prop :=
      Completes (.pkind p u t) s fun x => s.yields x [t, u] (ofLanes (List.replicate 16 kind.toNat))
    let read := g.pins.find? fun r => decide (r.port = p.toNat)
    s.firingAt g →
    (g.operand .a = .value A →
      Completes (.pout p k) s fun x => ∃ m, s.putsOut m g p.toNat k A ∧ x = m.slotDone g) ∧
    (g.operand .a = .value A → lane A 0 ≠ 0 →
      noted (.pctlKeep p) (fun h => { h with keeps := h.keeps ++ [p.toNat] }) ∧
      noted (.pctlRelease p) (fun h => { h with releases := h.releases ++ [p.toNat] })) ∧
    (g.operand .a = .value A → lane A 0 = 0 → noted (.pctlKeep p) id ∧ noted (.pctlRelease p) id) ∧
    (read = some w → pkind w.kind) ∧
    (read = none → port.resident = some (tok, n) → pkind 0) ∧
    (read = none → port.resident = none → port.fifo.head? = some tok → pkind tok.kind))

/-- 10 R204, R212: MOV delivers its operand bit for bit, CONST its immediate in every element, CONSTW the literal in
the next slot, GETR an element register, LANEID each element's place. 05 R120, R121, 16 R339-R341, 07 R157: BITX
evaluates the bit island on its side, whose flip-flops take their new values; RNG gives sixteen outputs of a key and
counter, or swaps the plane's generator; RESID tells the guard its operand's residual and passes the operand on. -/
def Obligations.DataflowAndIslandResults : Prop :=
  (∀ (s : State) (g : Firing) (m : BitVec 10) (T : BitVec 4) (k : BitVec 5) (q : BitVec 1) (u t : BitVec 9) (A : Line),
    let gives (i : Instr) (ts : List (BitVec 9)) (v : Line) : Prop := Completes i s fun x => s.yields x ts v
    let lit := s.wordAt s.curFe g (g.slot + 1)
    s.firingAt g →
    (g.operand .a = .value A → g.runs q → gives (.mov q u t) [t, u] A) ∧
    (T.toNat < 8 → gives (.const m T t) [t] (elemLine T fun _ => (m.toInt % 2 ^ typeBits T.toNat).toNat)) ∧
    (8 ≤ T.toNat → T.toNat ≤ 11 → gives (.const m T t) [t] (elemLine T fun _ =>
      (fmtOf T.toNat).roundVal 0 (Val.ofInt m.toInt))) ∧
    (T ≠ 6 → T ≠ 11 → gives (.constw T u t) [t, u] (elemLine T fun _ => lit.toNat % 2 ^ typeBits T.toNat)) ∧
    (T = 6 → gives (.constw T u t) [t, u] (elemLine T fun _ => (lit.signExtend 64).toNat)) ∧
    (T = 11 → gives (.constw T u t) [t, u] (elemLine T fun _ => (fmtOf 11).roundVal 0 ((fmtOf 10).val lit.toNat))) ∧
    gives (.getr k t) [t] (vget (s.plane s.curFe g.plane).e k.toNat) ∧
    gives (.laneid T u t) [t, u] (elemLine T fun e => e)) ∧
  (∀ (s : State) (g : Firing) (T : BitVec 4) (q k : BitVec 1) (u t : BitVec 9) (A : Line),
    let f := s.curFe
    let site := (f.die, feRow f, if k = 1 then feCol f + 1 else feCol f - 1, g.plane)
    let r := (mapGet {} s.islands site).step A
    let p := s.plane f g.plane
    let out (e : Nat) : BitVec 32 := mix (BitVec.ofNat 32 (lane A 0)) (BitVec.ofNat 32 (lane A 1) + BitVec.ofNat 32 e)
    s.firingAt g → g.runs q → g.operand .a = .value A →
    (Completes (.bitx q k u t) s fun x =>
      ({ s with islands := mapSet s.islands site r.2 } : State).yields x [t, u] (BitVec.ofNat 512 r.1.toNat)) ∧
    (T = 5 → Completes (.rng T q u t) s fun x => s.yields x [t, u] (elemLine T fun e => (out e).toNat)) ∧
    (T = 7 → Completes (.rng T q u t) s fun x =>
      (s.modPlane f g.plane fun y =>
        { y with genKey := BitVec.ofNat 32 (lane A 0), genCtr := BitVec.ofNat 32 (lane A 1) }).yields x [t, u]
        (ofLanes [p.genKey.toNat, p.genCtr.toNat])) ∧
    (T = 10 → Completes (.rng T q u t) s fun x => s.yields x [t, u]
      (elemLine T fun e => (fmtOf 10).roundVal 0 (.fin false ((out e).toNat / 2 ^ 8) (-24)))) ∧
    (Completes (.resid q u t) s fun x => ∃ m, s.tellsGuard m g.plane A ∧ m.yields x [t, u] A))

/-- 10 R198-R201, R205, R206, R213, R214: EXIT and EXITC end a firing that waits for nothing and select the block of
the next one: the instruction's own, or for EXITC the pending selector. The plane has fired. A token a PIN took owes
its place to the sender, or goes back under KEEP; RELEASE empties a resident. A drain puts EOS on every port of the
union OUT that had none and drains the plane, a cut puts a MARK on every port of the union OUT and the FE has taken
the cut; both need room. A block that EXITC selects and that is absent is the fault BAD_BLOCK, which ends the firing
too. -/
def Obligations.FiringEnds : Prop :=
  ∀ (s : State) (g : Firing) (n : BitVec 3) (b : Block) (r : ResId) (h : ThreadId),
    let f := s.curFe
    let p := s.plane f g.plane
    let ended (x : State) : Prop :=
      (x.fe f).firing = none ∧ (x.plane f g.plane).fired = true ∧ (x.plane f g.plane).e = p.e ∧ s.sameMem x ∧
      (∀ e, e ≠ f → x.fe e = s.fe e) ∧
      (g.kind = .normal → (x.plane f g.plane).outp = p.outp ∧ ∀ k, k < 8 →
        let q := vget p.inp k
        let q' := vget (x.plane f g.plane).inp k
        q'.resident = (if k ∈ g.releases then none else q.resident) ∧
        (k ∉ g.keeps → q'.fifo = q.fifo ∧
          q'.owed = q.owed + g.pins.countP fun y => y.port = k ∧ y.fresh.any fun z => !z.made) ∧
        ∀ w tok, g.pins.filter (fun y => y.port = k ∧ y.fresh.isSome) = [⟨k, w, some tok⟩] → k ∈ g.keeps →
          q'.fifo = tok :: q.fifo ∧ q'.owed = q.owed) ∧
      (g.kind = .drain → (x.plane f g.plane).drained = true ∧ ∀ k ∈ p.eosLeft g, ∃ w : Token,
        (vget (x.plane f g.plane).outp k).reg = (vget p.outp k).reg ++ [w] ∧ w.kind = 5) ∧
      (g.kind = .cut → ∀ k m, p.unionIn.head? = some k → (vget p.inp k).fifo.head? = some m →
        (∀ y ∈ g.pins, y.fresh = none) → (x.fe f).cutTaken = some (markOf m) ∧ ∀ k ∈ p.unionOut, ∃ w : Token,
          (vget (x.plane f g.plane).outp k).reg = (vget p.outp k).reg ++ [w] ∧ w.kind = 6 ∧ w.data = m.data)
    let ends (i : Instr) (next : Nat) : Prop := Completes i s fun x => ended x ∧ (x.plane f g.plane).sel = next
    s.firingAt g → (s.fe f).firingQuiet g = true → (g.kind = .drain → p.room (p.eosLeft g) = true) →
    (g.kind = .cut → p.room p.unionOut = true) →
    ends (.exit n) n.toNat ∧
    (vget p.blocks (g.selp.getD n).toNat = some b → ends (.exitc n) (g.selp.getD n).toNat) ∧
    (vget p.blocks (g.selp.getD n).toNat = none → s.planeOwner f g.plane = some r → s.hasRes r = true →
      (s.res r).freed = false → (s.res r).thread = some h → Completes (.exitc n) s fun x =>
        ended x ∧ (x.plane f g.plane).sel = p.sel ∧ (x.res r).freeze = (s.res r).freeze + 1 ∧
        ∃ d : Delivery, (x.thr h).held = (s.thr h).held ++ [d] ∧ d.freezes = true ∧ vget d.words 0 = wordN (0x31 + 2 ^ 16))

/-- 10 R203-R205, R212-R223, 05 R121, 16 R340, 07 R157: an element instruction that runs, and whose operands are
there, completes: a value reaches every operand that its targets name, and its firing stands at the next slot. The
trapping variant of an integer operation, and what each delivers, the statements of its group say. -/
def Obligations.ElementInstructionsComplete : Prop :=
  ∀ (s : State) (g : Firing) (T S D m : BitVec 4) (q k : BitVec 1) (v : BitVec 2) (u t : BitVec 9) (A B C : Line),
    let done (i : Instr) (ts : List (BitVec 9)) : Prop :=
      i.wf = true → Completes i s fun x => ∃ y, s.handed x ts y
    s.firingAt g → g.runs q → g.operand .a = .value A →
    (∀ i ∈ [Instr.popcE T q u t, .clzE T q u t, .fabs T q u t, .fneg T q u t, .frcp T q v u t, .frsq T q v u t, .fexp2 T q v u t,
        .flog2 T q v u t, .fclass T q u t, .mov q u t, .bitx q k u t, .rng T q u t, .resid q u t], done i [t, u]) ∧
    (∀ i ∈ [Instr.cvtsr q S D t, .qbfp q m S v t, .dqbfp q m D v t, .bcst m T t, .rotl m T t], done i [t]) ∧
    (v ≠ 2 ∨ 8 ≤ T.toNat → ∀ i ∈ [Instr.abs T q v u t, .red T q v u t, .scan T q v u t], done i [t, u]) ∧
    (v ≠ 2 ∨ 8 ≤ D.toNat → done (.cvt q S D v t) [t]) ∧
    (g.operand .b = .value B →
      (∀ i ∈ [Instr.mulhE T q u t, .andE T q u t, .orE T q u t, .xorE T q u t, .andnE T q u t, .shrE T q u t, .shraE T q u t,
          .minE T q u t, .maxE T q u t, .cmpeq T q u t, .cmpne T q u t, .cmplt T q u t, .cmple T q u t, .shuf T q u t], done i [t, u]) ∧
      (∀ i ∈ [Instr.fadd T q v u t, .fsub T q v u t, .fmul T q v u t, .fmin T q u t, .fmax T q u t, .fcmpeq T q u t,
          .fcmplt T q u t, .fcmple T q u t], done i [t, u]) ∧
      (v ≠ 2 → ∀ i ∈ [Instr.addE T q v u t, .subE T q v u t, .mulE T q v u t, .shlE T q v u t], done i [t, u]) ∧
      (g.operand .c = .value C →
        done (.sel T q u t) [t, u] ∧ done (.fma T q v u t) [t, u] ∧
        (v ≠ 2 → ∀ i ∈ [Instr.mad T q v u t, .dot4 T q v u t], done i [t, u])))

/-- 10 R203: an instruction with an operand that never comes, or whose predicate is zero, is skipped: it delivers
nothing and the next slot follows; one with an operand still to come waits and changes nothing. A memory instruction
that is skipped stands in its chain as a null operation (13 R293). -/
def Obligations.SkippedOrWaiting : Prop :=
  ∀ (s : State) (g : Firing) (T S D m : BitVec 4) (P f : BitVec 3) (q k : BitVec 1) (v : BitVec 2) (u t : BitVec 9) (o p c : BitVec 4),
    let gone (os : List Opnd) : Prop := ∃ x ∈ os, g.operand x = .never
    let awaited (os : List Opnd) : Prop := (∀ x ∈ os, g.operand x ≠ .never) ∧ ∃ x ∈ os, g.operand x = .pending
    let off (os : List Opnd) : Prop := (∀ x ∈ os, ∃ y, g.operand x = .value y) ∧ ∃ y, g.operand .q = .value y ∧ lane y 0 = 0
    let rule (pred : Bool) (reads : List Opnd) (i : Instr) (skipped : State → Prop) : Prop :=
      let need := if pred then reads ++ [Opnd.q] else reads
      (gone need → Completes i s skipped) ∧ (awaited need → Completes i s fun x => x = s) ∧ (pred = true → off need → Completes i s skipped)
    let passes (x : State) : Prop := s.yields x [] 0
    let null (x : State) : Prop := ∃ g', s.onlyFe x s.curFe ∧ (x.fe s.curFe).firing = some g' ∧
      g' = { g with slot := g.slot + s.slotStep g } ∧ (x.fe s.curFe).port = (s.fe s.curFe).port ++
        [{ id := (s.fe s.curFe).nextOp, plane := g.plane, block := g.block, slot := g.slot, ordinal := g.ordinal, own := o.toNat
           pred := p.toNat, succ := c.toNat, kind := .null, addr := 0, tgt := 0 }]
    s.firingAt g →
    (∀ i ∈ [Instr.topkDrn q u t, .hold q], rule (q = 1) [] i passes) ∧
    (∀ i ∈ [Instr.popcE T q u t, .clzE T q u t, .fabs T q u t, .fneg T q u t, .frcp T q v u t, .frsq T q v u t, .fexp2 T q v u t,
        .flog2 T q v u t, .fclass T q u t], rule (q = 1) [.a] i passes) ∧
    (∀ i ∈ [Instr.mov q u t, .bitx q k u t, .rng T q u t, .resid q u t, .topkIns q u t, .abs T q v u t, .red T q v u t,
        .scan T q v u t, .cvt q S D v t, .cvtsr q S D t, .qbfp q m S v t, .dqbfp q m D v t], rule (q = 1) [.a] i passes) ∧
    (∀ i ∈ [Instr.bcst m T t, .rotl m T t, .pout P f, .pctlKeep P, .pctlRelease P], rule false [.a] i passes) ∧
    (∀ i ∈ [Instr.addE T q v u t, .subE T q v u t, .mulE T q v u t, .mulhE T q u t, .andE T q u t, .orE T q u t, .xorE T q u t,
        .andnE T q u t, .shlE T q v u t, .shrE T q u t, .shraE T q u t, .minE T q u t, .maxE T q u t], rule (q = 1) [.a, .b] i passes) ∧
    (∀ i ∈ [Instr.cmpeq T q u t, .cmpne T q u t, .cmplt T q u t, .cmple T q u t, .shuf T q u t, .cumt q u t, .spadd P q v u t],
      rule (q = 1) [.a, .b] i passes) ∧
    (∀ i ∈ [Instr.fadd T q v u t, .fsub T q v u t, .fmul T q v u t, .fmin T q u t, .fmax T q u t, .fcmpeq T q u t, .fcmplt T q u t,
        .fcmple T q u t], rule (q = 1) [.a, .b] i passes) ∧
    (∀ i ∈ [Instr.mad T q v u t, .sel T q u t, .dot4 T q v u t, .fma T q v u t], rule (q = 1) [.a, .b, .c] i passes) ∧
    (let pred := (s.blockOf s.curFe g).predicated g.slot
     rule pred [] (.fenceE f o p c) null ∧
     (∀ i ∈ [Instr.ldE P o p c t, .ldt o p c t, .stt o p c], rule pred [.a] i null) ∧
     (∀ i ∈ [Instr.stE P o p c, .amoAddE o p c t, .amoSwapE o p c t, .amoMinE o p c t, .amoMaxE o p c t, .amoAndE o p c t,
        .amoOrE o p c t, .amoXorE o p c t], rule pred [.a, .b] i null) ∧
     rule pred [.a, .b, .c] (.amoCasE o p c t) null)

/-- 13 R293, 14 R314: an element memory instruction that runs reaches its FE's port with its chain fields, its kind
and its address; what it will load is to come. A misaligned address freezes the pitch, and the instruction stands in
the chain as a null operation. A FENCE holds back what later slots emit until it is done (17 R353). 13 R293-R295,
R440, 17 R349: the next access of the chain issues; an issued load with nothing before it at its port reads its bytes
and delivers them element by element, a store writes its elements' bytes; the oldest store of a thread's buffer
performs. -/
def Obligations.ElementMemoryAccesses : Prop :=
  (∀ (s : State) (g : Firing) (z : BitVec 3) (o p k : BitVec 4) (t : BitVec 9) (A B C : Line),
    let f := s.curFe
    let ea := lane64 A
    let w := if z.toNat < 2 then 1 else if z.toNat < 4 then 2 else if z.toNat < 6 then 4 else 8
    let op (kind : MemKind) (addr : Word) (tgt : BitVec 9) : MemOp :=
      { id := (s.fe f).nextOp, plane := g.plane, block := g.block, slot := g.slot, ordinal := g.ordinal, own := o.toNat
        pred := p.toNat, succ := k.toNat, kind, addr, tgt }
    let reaches (i : Instr) (kind : MemKind) (addr : Word) (tgt : BitVec 9) : Prop := Completes i s fun x =>
      x.curFe = f ∧ s.onlyFe x f ∧ (x.fe f).port = (s.fe f).port ++ [op kind addr tgt] ∧
      (x.fe f).planes = (s.fe f).planes ∧
      ∃ g', (x.fe f).firing = some g' ∧ g' = { g with slot := g.slot + s.slotStep g, dels := g'.dels, late := g'.late } ∧
        (∀ j c, mapFind g'.dels (j, c) =
          if tgt ≠ 0 ∧ tgtOpnd tgt = some c ∧ tgtIdx tgt = j then some .pending else mapFind g.dels (j, c)) ∧
        g'.late = if tgt = 0 ∨ (tgtOpnd tgt).isSome then [] else [⟨g.slot, .tgt tgt, none⟩]
    let lane2 := BitVec.ofNat 32 (lane A 2)
    s.firingAt g →
    ((s.blockOf f g).predicated g.slot = true → ∃ P, g.operand .q = .value P ∧ lane P 0 ≠ 0) →
    (∀ c : BitVec 3, reaches (.fenceE c o p k) (.fence c) 0 fenceTarget) ∧
    (g.operand .a = .value A →
      (ea.toNat % w = 0 → reaches (.ldE z o p k t) (.load z) ea t ∧
        (g.operand .b = .value B → reaches (.stE z o p k) (.store z B) ea 0)) ∧
      (ea.toNat % 64 = 0 →
        (lane A 2 < 16 → reaches (.ldt o p k t) (.ldt lane2) ea t) ∧
        (lane A 2 < 32 → reaches (.stt o p k) (.stt lane2 (BitVec.ofNat 64 (fldN A 128 64))) ea 0) ∧
        (g.operand .b = .value B →
          reaches (.amoAddE o p k t) (.amo 0 B 0) ea t ∧ reaches (.amoSwapE o p k t) (.amo 1 B 0) ea t ∧
          reaches (.amoMinE o p k t) (.amo 3 B 0) ea t ∧
          reaches (.amoMaxE o p k t) (.amo 4 B 0) ea t ∧ reaches (.amoAndE o p k t) (.amo 5 B 0) ea t ∧
          reaches (.amoOrE o p k t) (.amo 6 B 0) ea t ∧ reaches (.amoXorE o p k t) (.amo 7 B 0) ea t ∧
          (g.operand .c = .value C → reaches (.amoCasE o p k t) (.amo 2 B C) ea t))) ∧
      ∀ (r : ResId) (h : ThreadId), s.faultsReach g r h →
        let fails (i : Instr) : Prop := Completes i s fun x =>
          (x.res r).freeze = (s.res r).freeze + 1 ∧ (x.fe f).port = (s.fe f).port ++ [op .null 0 0] ∧ s.sameMem x ∧
          ∃ d : Delivery, (x.thr h).held = (s.thr h).held ++ [d] ∧ d.freezes = true ∧ vget d.words 1 = ea
        (ea.toNat % w ≠ 0 → fails (.ldE z o p k t) ∧ (g.operand .b = .value B → fails (.stE z o p k))) ∧
        (ea.toNat % 64 ≠ 0 → fails (.ldt o p k t) ∧ fails (.stt o p k) ∧ (g.operand .b = .value B →
          fails (.amoAddE o p k t) ∧ fails (.amoSwapE o p k t) ∧ fails (.amoMinE o p k t) ∧ fails (.amoMaxE o p k t) ∧
          fails (.amoAndE o p k t) ∧ fails (.amoOrE o p k t) ∧ fails (.amoXorE o p k t) ∧
          (g.operand .c = .value C → fails (.amoCasE o p k t)))))) ∧
  (∀ (s : State),
    (∀ (f : FeId) (g : Firing) (own : Nat) (o : MemOp),
      (s.fe f).firing = some g → (∀ b, (s.fe f).firingBelow = some b → b.plane ≠ g.plane) → (s.fe f).chainHeld g.plane = false →
      (s.blockOf f g).chain[g.issued]? = some own →
      ((s.fe f).port.find? fun y => decide (y.plane = g.plane ∧ y.ordinal = g.ordinal ∧ y.own = own ∧ y.stage = .reached)) =
        some o →
      Completes (.memportIssue f) s fun t => s.onlyFe t f ∧
        (t.fe f).firing = some { g with issued := g.issued + 1 } ∧
        ∀ y, y ∈ (t.fe f).port ↔
          (o.kind ≠ .null ∧ y = { o with stage := .issued }) ∨ (y ∈ (s.fe f).port ∧ y.id ≠ o.id)) ∧
    (∀ (f : FeId) (g : Firing) (o : MemOp) (rest : List MemOp) (l : Leaf) (z : BitVec 3) (c : Opnd),
      let n := szBytes z.toNat * szElems z.toNat
      let bs := s.mem.readBytes l.pa n
      (s.fe f).firing = some g → g.plane = o.plane → (s.fe f).port = o :: rest →
      o.stage = .issued → o.kind = .load z → z.toNat < 7 → o.tgt ≠ 0 → tgtOpnd o.tgt = some c →
      (∀ y ∈ rest, y.id ≠ o.id) → s.plainAt (s.feAgent f o) o.addr.toNat n l → l.r = true →
      Completes (.accessPerform (.fePort f 0)) s fun t => (∃ m, s.cached m ∧ m.onlyFe t f) ∧ (t.fe f).port = rest ∧
        ∃ g' v, (t.fe f).firing = some g' ∧ mapFind g'.dels (tgtIdx o.tgt, c) = some (.value v) ∧
          ∀ e, e < szElems z.toNat → elem (szType z.toNat) v e =
            leNat ((bs.drop (e * szBytes z.toNat)).take (szBytes z.toNat))) ∧
    (∀ (f : FeId) (o : MemOp) (rest : List MemOp) (l : Leaf) (z : BitVec 3) (B : Line),
      let w := szBytes z.toNat
      let n := w * szElems z.toNat
      (s.fe f).port = o :: rest → o.stage = .issued → o.kind = .store z B → z.toNat < 7 → o.tgt = 0 →
      (∀ y ∈ rest, y.id ≠ o.id) → s.plainAt (s.feAgent f o) o.addr.toNat n l → l.w = true →
      Completes (.accessPerform (.fePort f 0)) s fun t => (t.fe f).port = rest ∧
        ∃ bs : List Byte, bs.length = n ∧ t.mem = s.mem.writeBytes l.pa bs ∧
          ∀ e, e < szElems z.toNat → leNat ((bs.drop (e * w)).take w) = elem (szType z.toNat) B e) ∧
    (∀ (h : ThreadId) (b : Buffered) (rest : List Buffered) (l : Leaf),
      (s.thr h).sbuf = b :: rest → b.target = .glob l.pa l b.va.toNat →
      s.plainAt { s.agent h with since := s.cyc } b.va.toNat b.len l →
      Completes (.accessPerform (.storeBuffer h)) s fun t =>
        t.mem = s.mem.writeBytes l.pa (leBytes b.len b.data.toNat) ∧ (t.thr h).sbuf = rest))

/-- 14 R298-R300, R312, R313, 02 R57: TFILL takes a packet from its port into an EMPTY slot: as many tokens as the
edge declares, or on a port that no edge enters as the header states; a header there that the slot's declaration
refuses, or that is not valid, gives a VOID tile and counts. An END or DRAIN token is taken and an EOS left, with
nothing written. TOUT emits a FULL slot's header and as many payload tokens as the edge declares, or the header
states, and releases the slot; TCLR empties a slot that no MTU operation is to read. No other slot changes. 16
R334-R338: TOPK.INS keeps the best sixteen in rank order and passes the others on; TOPK.DRN delivers the best eight;
CUMT collects candidates, up to an empty one, until it has as many as asked for or meets an empty one, and then
delivers its choice; SPADD adds the values of its list's entries that fall in the token, takes tokens of its port for
more entries, and passes the token unchanged when the list has ended. -/
def Obligations.TileAndSamplingInstructions : Prop :=
  (∀ (s : State) (g : Firing) (p : BitVec 3) (k : BitVec 4) (h : Token) (body more : List Token) (e : Edge) (n : Nat),
    let f := s.curFe
    let slot (x : State) (j : Nat) : TileSlot := vget (x.fe f).tiles j
    let port (x : State) : InPort := vget (x.plane f g.plane).inp p.toNat
    let others (x : State) : Prop := ∀ j, j ≠ k.toNat → slot x j = slot s j
    let filled (x : State) (t : Tile) : Prop :=
      s.handed x [] 0 ∧ others x ∧ slot x k.toNat = { tag := .full, filledBy := some p.toNat, tile := t }
    let declared := (vget (s.fe f).planes (s.fe f).active).slotDecl k.toNat
    s.firingAt g →
    (s.unobserved → s.heldHead f p.toNat = false → g.filling = none → (port s).fifo = h :: (body ++ more) →
      (h.kind = 5 → Completes (.tfill p k) s fun x => s.yields x [] 0) ∧
      (h.kind ∈ [1, 2, 3, 4, 7] → body = [] → Completes (.tfill p k) s fun x =>
        s.handed x [] 0 ∧ (port x).fifo = more ∧ ∀ j, slot x j = slot s j) ∧
      (h.kind = 0 → (∀ t ∈ body, t.kind = 0) → (∀ t ∈ h :: body, t.made = false) → (slot s k.toNat).tag = .empty →
        (s.edgeInto f g.plane p.toNat = some e → hdrClean h.data = true → hdrTile h.data = declTile e.cdecl →
          body.length = (declTile e.cdecl).tokens → Completes (.tfill p k) s fun x =>
            filled x { header := h.data, payload := body.map (·.data) } ∧ (port x).fifo = more ∧
            (port x).owed = (port s).owed + 1 + body.length) ∧
        (s.edgeInto f g.plane p.toNat = none → hdrRefused declared h.data = false →
          body.length = (hdrTile h.data).tokens → Completes (.tfill p k) s fun x =>
            filled x { header := h.data, payload := body.map (·.data) } ∧ (port x).fifo = more) ∧
        (s.edgeInto f g.plane p.toNat = none → hdrRefused declared h.data = true → body = [] →
          Completes (.tfill p k) s fun x => (∃ t : Tile, filled x t ∧ hdrVoid t.header = true ∧ t.payload = []) ∧
            (port x).fifo = more ∧ (x.fe f).voidPackets = (s.fe f).voidPackets + 1))) ∧
    (g.filling = none → (slot s k.toNat).tag = .full →
      ((s.edgesFrom f g.plane p.toNat = [] ∧ n = (hdrTile (slot s k.toNat).tile.header).tokens) ∨
        ((s.edgesFrom f g.plane p.toNat).head? = some e ∧ n = (declTile e.pdecl).tokens)) →
      n < (vget (s.plane f g.plane).outp p.toNat).free →
      Completes (.tout p k) s fun x => s.handed x [] 0 ∧ others x ∧ (slot x k.toNat).tag = .empty ∧
        (slot x k.toNat).hold = .none ∧
        ∃ ts : List Token, (vget (x.plane f g.plane).outp p.toNat).reg = (vget (s.plane f g.plane).outp p.toNat).reg ++ ts ∧
          ts.map (·.data) = (slot s k.toNat).tile.header ::
            (List.range n).map (fun j => (slot s k.toNat).tile.payload.getD j 0) ∧
          ∀ t ∈ ts, t.kind = 0) ∧
    ((∀ o, (s.fe f).mtu = some o → ∀ r ∈ o.reads, r.1 ≠ k.toNat) → (slot s k.toNat).tag ≠ .reserved →
      Completes (.tclr k) s fun x => s.handed x [] 0 ∧ s.onlyFe x f ∧ others x ∧
        slot x k.toNat = { tile := (slot s k.toNat).tile })) ∧
  (∀ (s : State) (g : Firing) (P : BitVec 3) (q : BitVec 1) (v : BitVec 2) (u t : BitVec 9) (A B : Line) (h : Token)
    (more : List Token),
    let f := s.curFe
    let samp := (s.fe f).samp
    let rank (cs : List Cand) : Prop := cs.Pairwise fun a b => b.above a = false
    let want := min (max (lane B 3) 1) 256
    let asked := (candsOf A).take (want - samp.buf.length)
    let new := (asked.takeWhile Option.isSome).filterMap id
    let complete := want ≤ samp.buf.length + new.length ∨ none ∈ asked
    let port := vget (s.plane f g.plane).inp P.toNat
    let m := if v = 0 then (s.plane f g.plane).rounding else v.toNat
    let b := lane B 0
    let passes (z : Sampling) : Prop :=
      Completes (.spadd P q v u t) s fun x => (x.fe f).samp = z ∧
        (vget (x.plane f g.plane).inp P.toNat).fifo = port.fifo ∧ s.handed x [t, u] A
    s.firingAt g → g.runs q →
    (Completes (.topkDrn q u t) s fun x =>
      (s.modSamp f fun y => { y with cells := samp.cells.drop 8 }).yields x [t, u] (candToken (samp.cells.take 8))) ∧
    (g.operand .a = .value A →
      (rank samp.cells → ∃ all : List Cand, all.Perm (samp.cells ++ (candsOf A).filterMap id) ∧ rank all ∧
        Completes (.topkIns q u t) s fun x =>
          (s.modSamp f fun y => { y with cells := all.take 16 }).yields x [t, u] (candToken (all.drop 16))) ∧
      (g.operand .b = .value B →
        (¬complete → Completes (.cumt q u t) s fun x =>
          (s.modSamp f fun y => { y with buf := samp.buf ++ new }).yields x [] 0) ∧
        (complete → Completes (.cumt q u t) s fun x =>
          (s.modSamp f fun y => { y with buf := [] }).yields x [t, u]
            (choose (samp.buf ++ new) (lane B 0) (lane B 1) (lane B 2))) ∧
        (g.spadding = 0 → samp.lastBase < b → samp.pr = none →
          (samp.lstate = .ended → passes { samp with lastBase := b }) ∧
          (port.fifo = h :: more → s.unobserved → s.heldHead f P.toNat = false →
            (h.kind = 5 → samp.lstate = .opened → passes { samp with lstate := .ended, lastBase := b }) ∧
            (h.kind = 5 → samp.lstate = .start → passes { samp with prj := 0, lstate := .ended, lastBase := b }) ∧
            (h.kind = 0 → samp.lstate = .opened → b ≤ lane h.data 0 → lane h.data 0 < b + 16 → b + 16 ≤ lane h.data 2 →
              lane h.data 2 ≠ 2 ^ 32 - 1 → lane h.data 0 ≠ 2 ^ 32 - 1 →
              Completes (.spadd P q v u t) s fun x =>
                (x.fe f).samp = { samp with pr := some h.data, prj := 1, lastBase := b } ∧
                (vget (x.plane f g.plane).inp P.toNat).fifo = more ∧
                s.handed x [t, u] (elemLine 10 fun e =>
                  if e = lane h.data 0 - b then
                    (fmtOf 10).roundVal m (sumVals m [(fmtOf 10).val (lane A e), (fmtOf 10).val (lane h.data 1)])
                  else lane A e)))))))

/-- 11 R228, R229, R232: HOLD marks the firing's tokens, those emitted already and those to come, with SH; PHASE
delivers the firing's TAG: the one a loop token it has read gave it, or will give it, and zero outside a loop. 11
R226, R227, R231, R233-R236, R240: a step of a rotation, made by its seam of itself or by the SEAM of its block,
returns the chunk in flight in the slot of the step's phase, keeping what came back, and enters the slot's next chunk
when its queue holds one; an empty slot lets the step pass. Tokens of port pK go to the queue of the slot their TAG
names; a notice waits at its slot; that one for a slot with no chunk in flight is dropped and only counted is log
entry 17 (DEDUCED). -/
def Obligations.RotationSteps : Prop :=
  (∀ (s : State) (g : Firing) (q : BitVec 1) (u t : BitVec 9),
    let f := s.curFe
    let reg (x : State) (p : Nat) : List Token := (vget (x.plane f g.plane).outp p).reg
    s.firingAt g →
    (g.runs q → g.emitted = [] → Completes (.hold q) s fun x =>
      (s.withFiring fun h => { h with sh := true }).yields x [] 0) ∧
    (g.runs q → Completes (.hold q) s fun x => s.handed x [] 0 ∧ s.onlyFe x f ∧
      (∃ g', (x.fe f).firing = some g' ∧ g'.sh = true) ∧
      ∀ p, p < 8 → ∀ i, (reg x p)[i]? = ((reg s p)[i]?).map fun w =>
        if (reg s p).length ≤ i + g.emitted.count p then { w with tag := g.tag.getD w.tag, sf := g.sf, sh := true } else w) ∧
    (∀ n : BitVec 8, g.tag = some n → Completes (.phase u t) s fun x => s.yields x [t, u] (BitVec.ofNat 512 n.toNat)) ∧
    (g.tag = none → s.loopOf f g.plane = none → Completes (.phase u t) s fun x => s.yields x [t, u] 0) ∧
    (Completes (.phase u t) s fun x => s.yields x [t, u] (BitVec.ofNat 512 ((s.firingTag f g).getD 0).toNat))) ∧
  (∀ (s : State) (r : ResId) (n : Nat) (q : Rotation) (K : BitVec 3),
    let f := q.seam
    let ph := q.phase
    let z := q.slot ph
    let slot (x : State) (j : Nat) : Option Slot := (x.rot r n).map fun q => q.slot j
    let out (x : State) (p : Nat) : List Token := (vget (x.plane f q.plane).outp p).reg
    let steps (P : State → Prop) : Prop := Completes (.rotStep r n) s P ∧
      (s.seamOf s.curFe = some (r, n) → (vget (s.plane f q.plane).inp K.toNat).fifo = [] →
        Completes (.seam (BitVec.ofNat 3 q.back) K (BitVec.ofNat 3 q.px) (BitVec.ofNat 3 q.fwd)) s P)
    let stepped (x : State) : Prop := (x.rot r n).map (·.p) = some (q.p + 1)
    s.rot r n = some q → s.unobserved → s.stoppedFe f = false → q.slots.length = q.depth → 0 < q.depth → q.plane < 6 →
    1 ≤ q.width → q.back + q.width ≤ 8 → q.fwd + q.width ≤ 8 → q.px < 8 → (q.px < q.fwd ∨ q.fwd + q.width ≤ q.px) →
    (s.seamRuns r q = true → q.saving = none → z.inflight = false → z.status ≠ .live → z.status ≠ .held →
      steps fun x => x.rot r n = some { q with p := q.p + 1 }) ∧
    (s.seamRuns r q = true → s.entryOpen r q = true → z.inflight = false → (z.status = .live ∨ z.status = .held) →
      z.queue.length < q.chunk → steps fun x => stepped x ∧ slot x ph = some { z with status := .held }) ∧
    (s.seamRuns r q = true → s.entryOpen r q = true → z.inflight = false → (z.status = .live ∨ z.status = .held) →
      q.chunk ≤ z.queue.length → (∀ j, j < q.width → 1 ≤ (vget (s.plane f q.plane).outp (q.fwd + j)).free) →
      q.chunk ≤ (vget (s.plane f q.plane).outp q.px).free →
      steps fun x => stepped x ∧
        (∃ y, slot x ph = some y ∧ y.status = .live ∧ y.inflight = true ∧ y.queue = z.queue.drop q.chunk ∧ y.park = z.park) ∧
        (∀ j, j < q.width → ∃ w : Token, out x (q.fwd + j) = out s (q.fwd + j) ++ [w] ∧ w.data = z.park.getD j 0 ∧
          w.tag = BitVec.ofNat 8 ph ∧ w.kind = 0) ∧
        ∃ ws : List Token, out x q.px = out s q.px ++ ws ∧ ws.map (·.data) = (z.queue.take q.chunk).map (·.1) ∧
          ∀ w ∈ ws, w.tag = BitVec.ofNat 8 ph ∧ w.kind = 0 ∧ w.sf = false ∧ w.sh = false) ∧
    (∀ ts : Nat → Token, s.seamRuns r q = true → s.entryOpen r q = true → z.inflight = true → z.status = .live →
      z.notice = none → q.k = false → z.queue.length < q.chunk →
      (∀ j, j < q.width → s.stoppedPort f (q.back + j) false = false ∧
        (vget (s.plane f q.plane).inp (q.back + j)).fifo.head? = some (ts j) ∧ (ts j).tag.toNat = ph ∧ (ts j).kind = 0 ∧
        (ts j).sf = false ∧ (ts j).sh = false) →
      steps fun x => stepped x ∧
        (∃ y, slot x ph = some y ∧ y.inflight = false ∧ y.status = .held ∧ y.chunks = z.chunks + 1 ∧
          y.park = (List.range q.width).map fun j => (ts j).data) ∧
        ∀ j, j < q.width → (vget (x.plane f q.plane).inp (q.back + j)).fifo =
          (vget (s.plane f q.plane).inp (q.back + j)).fifo.tail) ∧
    (∀ (w : Token) (rest : List Token), (vget (s.plane f q.plane).inp q.pk).fifo = w :: rest → q.pk < 8 →
      (s.fe f).active = q.plane → s.streamsMove r f = true → s.stoppedPort f q.pk false = false → w.kind = 0 →
      w.tag.toNat < q.depth → (q.slot w.tag.toNat).status ≠ .empty → (q.slot w.tag.toNat).queue.length < 2 * q.chunk →
      s.chunkStore f < 256 → Completes (.seamPkToken r n) s fun x =>
        slot x w.tag.toNat = some { q.slot w.tag.toNat with queue := (q.slot w.tag.toNat).queue ++ [(w.data, none)] } ∧
        (vget (x.plane f q.plane).inp q.pk).fifo = rest) ∧
    (∀ (m : Notice) (rest : List Notice), q.notices = m :: rest → s.front.dbg.frozen = false →
      ((q.slot m.phase).inflight = true → (q.slot m.phase).notice = none → m.phase < q.depth →
        Completes (.slotFaultNotice r n) s fun x => (x.rot r n).map (·.notices) = some rest ∧
          slot x m.phase = some { q.slot m.phase with notice := some m }) ∧
      ((q.slot m.phase).inflight = false → Completes (.slotFaultNotice r n) s fun x =>
        x.rot r n = some { q with notices := rest } ∧ ∃ g, (x.fe g).slotFaults = (s.fe g).slotFaults + 1)))

/-- 14 R303-R311: the MTU starts the next ready record with its operand tiles, reserves its destination, and is busy
for the cycles of Table 14-4; a TCVT takes its draws from the plane's generator as it starts (16 R340). At the release
point the headers are checked: one that is invalid or does not fit gives a VOID tile and counts, a VOID operand gives
a VOID tile; the result is formed, every slot read takes `Read`, and the counts of the FE and of its die rise; ten
cycles later the destination is FULL with the result. -/
def Obligations.MatrixTileOperations : Prop :=
  ∀ (s : State) (f : MtuFields) (r : ResId),
    let x := s.fe s.curFe
    let p := vget x.planes x.active
    let mode (p : Plane) (f : MtuFields) : Nat := if f.rm = 0 then p.rounding else f.rm.toNat
    let refused (x : Fe) (op : Nat) (f : MtuFields) : Prop :=
      (∃ y ∈ mtuReads op f, hdrRefused (some y.2.2) (vget x.tiles y.1).tile.header = true) ∨
      mtuShapeBad op f ((mtuReads op f).map fun y => (vget x.tiles y.1).tile.header) = true
    let void (x : Fe) (op : Nat) (f : MtuFields) : Prop := ∃ y ∈ mtuReads op f, hdrVoid (vget x.tiles y.1).tile.header = true
    let elems (op : Nat) : Nat :=
      let h := hdrTile (((mtuReads op f).head?.map fun y => (vget x.tiles y.1).tile.header).getD 0)
      h.rows * h.cols
    let starts (i : Instr) (op : Nat) : Prop := Completes i s fun t => s.onlyFe t s.curFe ∧
      (∃ o : MtuOp, (t.fe s.curFe).mtu = some o ∧ o.op = op ∧ o.fields = f ∧ o.plane = x.active ∧ o.entry = s.curMtu ∧
        o.dst = f.dst.toNat ∧ o.reads = (mtuReads op f).map (fun y => (y.1, y.2.1)) ∧ o.start = s.cyc ∧
        o.stages = (if op = 5 ∧ f.td = 12 then fldN (s.routeOf s.curFe x.active) (464 + 3 * s.curMtu) 3 else 0) ∧
        o.busy = mtuBusy op f o.stages (elems op) ∧ o.genKey = p.genKey ∧ o.genCtr = p.genCtr) ∧
      (vget (t.fe s.curFe).tiles f.dst.toNat).tag = .reserved ∧
      (∀ j, j ≠ f.dst.toNat → vget (t.fe s.curFe).tiles j = vget x.tiles j) ∧
      (∃ c, (t.fe s.curFe).planes = vset x.planes x.active { p with lastMtu := s.curMtu, genCtr := c } ∧
        (op ≠ 5 ∨ refused x op f ∨ void x op f → c = p.genCtr) ∧
        (op = 5 → ¬refused x op f → ¬void x op f → ∀ y, (mtuReads op f)[0]? = some y → c = p.genCtr + BitVec.ofNat 32
          (cvtTile (mode p f) (if f.td = 12 then fldN (s.routeOf s.curFe x.active) (464 + 3 * s.curMtu) 3 else 0) p.genKey p.genCtr f
            (vget x.tiles y.1).tile).2))
    (s.mayStart s.curFe false = some r → x.mtu = none → x.nextEntry = some s.curMtu → x.active < 6 →
      starts (.mma f) 1 ∧ starts (.mmas f) 2 ∧ starts (.tadd f) 3 ∧ starts (.tscl f) 4 ∧ starts (.tcvt f) 5 ∧
      starts (.ttrn f) 6) ∧
    (∀ (e : FeId) (o : MtuOp), e.die < 4 → o.plane < 6 → (s.fe e).mtu = some o → o.start + o.busy ≤ s.cyc →
      (o.reads.map (·.1)).Nodup →
      (∀ y ∈ o.reads, y.1 < 16 ∧ (vget (s.fe e).tiles y.1).hold = .none ∧ (vget (s.fe e).tiles y.1).pins = []) →
      let p := vget (s.fe e).planes o.plane
      let reads := mtuReads o.op o.fields
      let tile (k : Nat) : Tile := (reads[k]?.map fun y => (vget (s.fe e).tiles y.1).tile).getD default
      let headers : List Line := reads.map fun y => (vget (s.fe e).tiles y.1).tile.header
      let third (k : Nat) : Option Tile := if k < reads.length then some (tile k) else none
      let mode := mode p o.fields
      let bad := refused (s.fe e) o.op o.fields
      let sparse := mmasTile mode o.fields (tile 0) [tile 1, tile 2, tile 3] (third 4)
      let converted := cvtTile mode o.stages o.genKey o.genCtr o.fields (tile 0)
      Completes (.mtuReleasePoint e) s fun t => ∃ o' : MtuOp,
        (t.fe e).mtuOut = (s.fe e).mtuOut ++ [o'] ∧ o' = { o with
          result := o'.result, mismatch := o'.mismatch, malformed := o'.malformed } ∧
        (o'.mismatch = true ↔ bad) ∧
        (bad ∨ headers.any hdrVoid = true → o'.malformed = 0 ∧
          o'.result = voidTile (mtuVoidFmt o.op o.fields (headers.getD 0 0))) ∧
        (¬bad → headers.any hdrVoid = false →
          o'.malformed = (if o.op = 2 then sparse.2 else 0) ∧
          (o.op = 1 → o'.result = mmaTile mode o.fields (tile 0) (tile 1) (third 2)) ∧
          (o.op = 2 → o'.result = sparse.1) ∧ (o.op = 3 → o'.result = addTile mode o.fields (tile 0) (tile 1)) ∧
          (o.op = 4 → o'.result = sclTile mode o.fields (tile 0) (tile 1)) ∧ (o.op = 5 → o'.result = converted.1) ∧
          (o.op = 6 → o'.result = trnTile (tile 0))) ∧
        t = { s with fes := t.fes, dies := t.dies } ∧ (∀ g, g ≠ e → t.fe g = s.fe g) ∧ (t.fe e).planes = (s.fe e).planes ∧
        (∀ d, t.die d = { s.die d with counters := (t.die d).counters } ∧ ∀ j, j < 32 → vget (t.die d).counters j =
          vget (s.die d).counters j + if d ≠ e.die then 0 else if j = 5 then (if o'.mismatch then 1 else 0)
            else if j = 6 then BitVec.ofNat 64 o'.malformed else 0) ∧
        (t.fe e).voidPackets = (s.fe e).voidPackets + (if o'.mismatch then 1 else 0) ∧
        (t.fe e).malformed = (s.fe e).malformed + BitVec.ofNat 32 o'.malformed ∧ (t.fe e).mtu = none ∧
        (∀ j, j ∉ o.reads.map (·.1) → vget (t.fe e).tiles j = vget (s.fe e).tiles j) ∧
        ∀ y ∈ o.reads,
          let z := vget (s.fe e).tiles y.1
          vget (t.fe e).tiles y.1 =
            if y.2 = 1 then { z with tag := .empty, hold := .none, hport := none, pins := [] }
            else if y.2 = 0 then { z with hold := .untilEnd, hport := z.filledBy }
            else { z with hold := .count (y.2 - 1) }) ∧
    (∀ (e : FeId) (o : MtuOp) (os : List MtuOp), (s.fe e).mtuOut = o :: os → o.start + o.busy + 10 ≤ s.cyc → o.dst < 16 →
      Completes (.mtuResult e) s fun t => s.onlyFe t e ∧ (t.fe e).mtuOut = os ∧
        vget (t.fe e).tiles o.dst = { tag := .full, tile := o.result } ∧
        ∀ j, j ≠ o.dst → vget (t.fe e).tiles j = vget (s.fe e).tiles j)

/-! ### Fabric, streams and residencies -/

/-- 10 R199-R201, Table 10-1: an FE whose input ports show neither the end nor a MARK fires its selected block when
what it consumes is there and what it produces has room; with EOS at every head it drains, with a MARK at every head
it takes the cut, through its drain or cut block where the plane has one. (`i` is the state in which the ports' heads
have acted.) -/
def Obligations.FiringsStart : Prop :=
  ∀ (s i : State) (f : FeId) (n : Nat) (b : Block),
    let k := (i.fe f).active
    let p := i.plane f k
    let head (j : Nat) : Option Token := (vget p.inp j).fifo.head?
    let starts (e : Instr) (block : Nat) (kind : FireKind) : Prop := Completes e s fun t =>
      (t.fe f).firing = some { plane := k, block, kind, ordinal := (i.fe f).ordinal } ∧
      (t.fe f).ordinal = (i.fe f).ordinal + 1 ∧ (t.fe f).planes = (i.fe f).planes ∧ i.onlyFe t f
    let room (j : Nat) : Prop := 0 < (vget p.outp j).free
    let others (t : State) : Prop := i.sameMem t ∧ ∀ g, g ≠ f → t.fe g = i.fe g
    s.decides f = some i → (i.fe f).firing = none → i.unobserved → k < 6 → p.isSeam = false → p.drained = false →
    p.unionIn ≠ [] →
    (vget p.blocks p.sel = some b → (∃ j ∈ p.unionIn, (head j).map (·.kind) ≠ some 5) →
      (∀ j ∈ p.unionIn, (head j).map (·.kind) ≠ some 6) → i.consumes f k b = true → i.produces f k b = true →
      starts (.firingStart f) p.sel .normal) ∧
    ((∀ j ∈ p.unionIn, (head j).map (·.kind) = some 5) →
      (p.blockOfKind 2 = some (n, b) → i.produces f k b = true → starts (.planeDrain f) n .drain) ∧
      (p.blockOfKind 2 = none → (∀ j ∈ p.unionOut, room j) → Completes (.planeDrain f) s fun t =>
        (t.plane f k).drained = true ∧ (t.fe f).firing = none ∧ others t ∧
        (∀ j ∈ p.unionOut, ∃ w : Token, (vget (t.plane f k).outp j).reg = (vget p.outp j).reg ++ [w] ∧ w.kind = 5) ∧
        ∀ j ∈ p.unionIn, (vget (t.plane f k).inp j).fifo = (vget p.inp j).fifo.tail ∧
          (vget (t.plane f k).inp j).owed = (vget p.inp j).owed + ((head j).map Token.places).getD 0)) ∧
    ∀ m : Token, m.kind = 6 → (∀ j ∈ p.unionIn, head j = some m) → (∀ o ∈ (i.fe f).port, o.plane ≠ k) →
      (p.debugMark = false → p.blockOfKind 3 = some (n, b) → i.produces f k b = true → starts (.cutTake f) n .cut) ∧
      (p.blockOfKind 3 = none → (∀ j ∈ p.unionOut, room j) → Completes (.cutTake f) s fun t =>
        (t.fe f).cutTaken = some (BitVec.ofNat 32 (lane m.data 0), decide (lane m.data 1 = 1)) ∧ others t ∧
        (∀ j ∈ p.unionOut, ∃ w : Token, (vget (t.plane f k).outp j).reg = (vget p.outp j).reg ++ [w] ∧ w.kind = 6 ∧
          w.data = m.data) ∧
        ∀ j ∈ p.unionIn, (vget (t.plane f k).inp j).fifo = (vget p.inp j).fifo.tail)

/-- 02 R57, R58, 05 R113, 08 R165, 10 R209, 11 R229: a port that holds its resident UNTIL_END drops an END0 at its
head and gives its resident up at any other END; a token moves from the page network, a track or an output register
into all its destinations at once, losing its loop bits where it leaves a loop, checked and framed where a tile edge
enters; 10 R213: a token emitted after an EOS on its port is discarded where it arrives and counted, its place freed;
a freed place goes back to the producer as a credit. -/
def Obligations.TokensMove : Prop :=
  ∀ (s : State),
    let fifo (x : State) (f : FeId) (k p : Nat) : List Token := (vget (x.plane f k).inp p).fifo
    let framed (f : FeId) (k p : Nat) (w : Token) : InPort × Nat :=
      let q := vget (s.plane f k).inp p
      let w := if s.loopPort f k p then w else { w with sf := false, sh := false }
      match (s.edgeInto f k p).filter fun e => bitOf e.cdecl 0 with
      | none => ({ q with fifo := q.fifo ++ [w] }, 0)
      | some e => q.frameTok (declTile e.cdecl) w
    let comes (t : State) (f : FeId) (k p : Nat) (w : Token) : Prop :=
      if w.late = true then fifo t f k p = fifo s f k p ∧
        (vget (t.plane f k).inp p).owed = (vget (s.plane f k).inp p).owed + w.places
      else fifo t f k p = (framed f k p w).1.fifo ∧ (vget (t.plane f k).inp p).owed = (vget (s.plane f k).inp p).owed
    let counts (t : State) (f : FeId) (k : Nat) (ps : List Nat) (w : Token) : Prop :=
      (t.fe f).voidPackets = (s.fe f).voidPackets +
        BitVec.ofNat 32 ((ps.map fun p => if w.late then 1 else (framed f k p w).2).sum)
    s.front.dbg.frozen = false →
    (∀ (f : FeId) (p : Nat) (w h : Token), let k := (s.fe f).active
      k < 6 → p < 8 → (s.fe f).firing = none → s.unobserved → (s.fe f).holdsFor p = false →
      (vget (s.plane f k).inp p).resident = some (w, 0) → fifo s f k p = [h] →
      (h.kind = 1 → Completes (.portHeadToken f p) s fun t => fifo t f k p = [] ∧
        (vget (t.plane f k).inp p).resident = some (w, 0) ∧
        (vget (t.plane f k).inp p).owed = (vget (s.plane f k).inp p).owed + h.places) ∧
      (h.kind ∉ [0, 1, 6] → Completes (.portHeadToken f p) s fun t => fifo t f k p = [h] ∧
        (vget (t.plane f k).inp p).resident = none)) ∧
    (∀ (r : ResId) (n : Nat) (e : Edge) (w : Token) (rest : List Token), let k := s.portPlane r e.dst
      k < 6 → e.dstp < 8 →
      ((s.res r).edges.find? fun y => decide (y.key = n)) = some e → e.netq = w :: rest → s.portRoom e.dst k e.dstp w = true →
      s.planeOwner e.dst k = some r → s.spliceWaits r e.dst = false →
      ((s.res r).urgent = true ∨ (s.fe e.dst).beneath = none) → Completes (.tokenHop (.net r n)) s fun t =>
        (((t.res r).edges.find? fun y => decide (y.key = n)).map (·.netq)) = some rest ∧
        comes t e.dst k e.dstp w ∧ counts t e.dst k [e.dstp] w) ∧
    (∀ (y : LatchKey) (w : Token) (r : ResId) (x : Residency) (row col : Nat) (g : FeId),
      let k := s.boxPlane y.die row col y.p5 x
      let d := trackDests (mapGet 0 s.routes (y.die, row, col, k)) true ((sideNum y.side + 2) % 4) y.track
      let key (z : Nat × Nat) : LatchKey := ⟨y.die, row, col, sideOf z.1, z.2, y.p5⟩
      mapFind s.latches y = some w → s.boxOwner y.die y.row y.col y.p5 = some (r, x) →
      (y.p5 = false → s.boxOwner y.die y.row y.col true = none) →
      boxAway y.row y.col (sideNum y.side) (trackLength y.track) = some (row, col) → x.covers row col = true →
      feAt y.die row col = some g → k < 6 → (d.tracks ≠ [] ∨ d.ports ≠ []) →
      (∀ z ∈ d.tracks, mapFind s.latches (key z) = none ∧
        ∃ c, boxAway row col z.1 (trackLength z.2) = some c ∧ x.covers c.1 c.2 = true) →
      (∀ p ∈ d.ports, s.portRoom g k p w = true) → Completes (.tokenHop (.latch y)) s fun t =>
        (∀ p ∈ d.ports, comes t g k p w) ∧ counts t g k d.ports w ∧
        (∀ z ∈ d.tracks, mapFind t.latches (key z) = some w) ∧ mapFind t.latches y = none) ∧
    (∀ (f : FeId) (p : Nat) (r o : ResId) (x : Residency) (w : Token) (rest : List Token), let k := (s.fe f).active
      let es := s.edgesFrom f k p
      let d := portDests (mapGet 0 s.routes (f.die, feRow f, feCol f, k)) p
      let key (z : Nat × Nat) : LatchKey := ⟨f.die, feRow f, feCol f, sideOf z.1, z.2, false⟩
      k < 5 → p < 8 → (s.fe f).beneath = none → (s.fe f).switched = false →
      s.boxOwner f.die (feRow f) (feCol f) false = some (r, x) →
      (vget (s.plane f k).outp p).reg = w :: rest → (d.tracks ≠ [] ∨ (es ≠ [] ∧ ∀ e ∈ es, e.net = true)) →
      (∀ e ∈ es, e.net = true → e.netq.length < 15) →
      (∀ z ∈ d.tracks, mapFind s.latches (key z) = none ∧
        ∃ c, boxAway (feRow f) (feCol f) z.1 (trackLength z.2) = some c ∧ x.covers c.1 c.2 = true) →
      s.loopOf f k = none → s.stoppedFe f = false → s.stoppedPort f p true = false → s.planeOwner f k = some o → s.hasRes o = true →
      Completes (.tokenHop (.outReg f p)) s fun t => (vget (t.plane f k).outp p).reg = rest ∧
        (∀ e ∈ es, e.net = true → { e with netq := e.netq ++ [w] } ∈ (t.res o).edges) ∧
        ∀ z ∈ d.tracks, mapFind t.latches (key z) = some w) ∧
    (∀ (f : FeId) (p : Nat) (r : ResId) (e : Edge), let k := (s.fe f).active
      k < 6 → p < 8 → e.srcp < 8 → (vget (s.plane f k).inp p).owed ≠ 0 → s.planeOwner f k = some r →
      s.edgeInto f k p = some e →
      ((s.res r).edges.filter fun y => decide (y.plane = e.plane ∧ y.src = e.src ∧ y.srcp = e.srcp)) = [e] →
      Completes (.creditReturn f p) s fun t =>
        (vget (t.plane f k).inp p).owed = (vget (s.plane f k).inp p).owed - 1 ∧
        (vget (t.plane e.src e.plane).outp e.srcp).free = (vget (s.plane e.src e.plane).outp e.srcp).free + 1)

/-- 06 R137, 13 R272, R277-R280, R283: a binding starts when its end and a context are free; it reads its next token,
and delivers what it has read, then EOS; an output binding takes its port's tokens and gives their places back; SPAT
loads a pattern; a complete command makes its push; every 1,024 cycles the counts of tokens admitted at a pitch's
ports begin anew, those of a residency spliced onto it too, which is one pitch with it (06 R138). That SPAT's store
and load precede each other as R273 says is in the premise that no store is buffered. -/
def Obligations.StreamsRun : Prop :=
  ∀ (s : State) (r : ResId) (n : Nat) (b : Binding),
    let bind (x : State) : Option Binding := mapFind (x.res r).binds n
    (∀ (h : ThreadId) (c : EngineCmd) (rest : List EngineCmd) (d : BindEnd),
      (s.thr h).se.waiting = c :: rest → (c.op = .strmIn ∨ c.op = .strmOut) → s.queueReady h .se = true →
      (s.thr h).sbuf = [] → c.res = some r → s.hasRes r = true → s.selector r c.va (decide (c.op = .strmIn)) = some d →
      s.endBusy r (decide (c.op = .strmIn)) d = false → s.contextFree h = true →
      Completes (.streamBindingStart h) s fun t =>
        (t.thr h).se = { waiting := rest, running := (s.thr h).se.running ++ [c] } ∧
        (t.res r).nextBind = (s.res r).nextBind + 1 ∧
        ∃ y : Binding, (t.res r).binds = (s.res r).binds ++ [((s.res r).nextBind, y)] ∧
          y.kind = (if c.op = .strmIn then BindKind.input else .output) ∧ y.dest = d ∧ y.owner = h ∧ y.cmd = c ∧
          y.pat = vget (s.thr h).pat c.pat.toNat ∧ y.exhausted = patEmpty y.pat ∧ (∀ j, 0 < j → j < 4 → vget y.ctr j = 0) ∧
          vget y.ctr 0 = if patEmpty y.pat = true then patCnt y.pat 0 else 0) ∧
    (∀ (f : FeId) (p : Nat), let k := s.portPlane r f
      bind s = some b → b.kind = .input → b.dest = .port f p → b.owner.tid ≠ 8 → s.engineLive b.owner = true → s.streamsMove r f = true →
      k < 6 → p < 8 → s.inUsed f k p < 8 → (vget (s.plane f k).inp p).admitted < s.rateOf (s.res r) → (s.res r).preempt = none →
      b.markDue = none → s.edgeInto f k p = none →
      (∀ (w : ReadTok) (rest : List ReadTok), b.buf = w :: rest → w.void = false →
        Completes (.streamDeliver r n .deliver) s fun t =>
          (vget (t.plane f k).inp p).fifo = (vget (s.plane f k).inp p).fifo ++ [w.tok] ∧
          (vget (t.plane f k).inp p).admitted = (vget (s.plane f k).inp p).admitted + 1 ∧
          (bind t).map (·.buf) = some rest) ∧
      (b.buf = [] → b.exhausted = true → b.stopping = false → b.spill = [] → b.endDue = none →
        Completes (.streamDeliver r n .deliver) s fun t => bind t = none ∧
          ∃ w : Token, (vget (t.plane f k).inp p).fifo = (vget (s.plane f k).inp p).fifo ++ [w] ∧ w.kind = 5)) ∧
    (∀ l : Leaf, bind s = some b → b.kind = .input → b.owner.tid ≠ 8 → s.engineLive b.owner = true → b.spill = [] →
      b.early = [] → b.exhausted = false → b.stopping = false → b.endDue = none →
      (b.buf.filter fun w => decide (w.tok.kind = 0)).length < patPfw b.pat → patFmt b.pat ≠ 12 → patEsz b.pat = 4 →
      vget b.ctr 0 < patCnt b.pat 0 → s.plainAt (bindAgent r n b b.ctr s.cyc) (patAddr b.pat b.ctr) 64 l → l.r = true →
      Completes (.streamDeliver r n .read) s fun t =>
        ∃ (w : ReadTok) (ends : List ReadTok), (bind t).map (·.buf) = some (b.buf ++ w :: ends) ∧
          w.tok.data = s.line (l.pa / 64) ∧ w.tok.kind = 0 ∧ (∀ e ∈ ends, e.tok.kind ≠ 0) ∧
          (bind t).map (·.ctr) = some (nextToken b.pat b.ctr).1) ∧
    (∀ (f : FeId) (p : Nat) (w : Token) (rest : List Token), let k := s.portPlane r f
      let o := vget (s.plane f k).outp p
      bind s = some b → b.kind = .output → b.dest = .port f p → b.list = [] → b.owner.tid ≠ 8 → k < 6 → p < 8 →
      s.engineLive b.owner = true → s.streamsMove r f = true → s.stoppedFe f = false → s.stoppedPort f p true = false →
      o.reg = w :: rest → b.discarding = false →
      b.stopping = false → b.eosDone = false → b.paused = false →
      (∀ l, w.kind = 0 → b.exhausted = false →
        s.takeStores (bindAgent r n b b.ctr s.cyc) b.pat (takenBytes b.pat b.ctr w.data) = .ok l →
        Completes (.streamTake r n) s fun t => vget (t.plane f k).outp p = { o with reg := rest, free := o.free + 1 } ∧
          bind t = some { b with stores := b.stores ++ l, ctr := (nextToken b.pat b.ctr).1
                                 exhausted := (nextToken b.pat b.ctr).2.2 }) ∧
      (w.kind = 5 → Completes (.streamTake r n) s fun t =>
        vget (t.plane f k).outp p = { o with reg := rest, free := o.free + 1 } ∧ bind t = some { b with eosDone := true })) ∧
    (∀ (h : ThreadId) (c : EngineCmd) (rest : List EngineCmd) (l : Leaf),
      (s.thr h).se = { waiting := c :: rest, running := [] } → c.op = .spat → c.done = false → c.push = 0 →
      s.queueReady h .se = true → (s.thr h).sbuf = [] → (∀ y ∈ rest, y.seq ≠ c.seq) →
      s.plainAt (s.engAgent h .se c) c.va.toNat 64 l → l.r = true → patBad (s.line (l.pa / 64)) = false →
      Completes (.engineComplete h .se 0) s fun t => (t.thr h).se = { waiting := rest, running := [] } ∧
        vget (t.thr h).pat c.pat.toNat = s.line (l.pa / 64) ∧
        ∀ j, j ≠ c.pat.toNat → vget (t.thr h).pat j = vget (s.thr h).pat j) ∧
    (∀ (h : ThreadId) (u : Unit3) (c : EngineCmd), let q := unitQueue u (s.thr h)
      let i := fifoIdx (unitNum u) (c.push.toNat - 1)
      q = { waiting := [], running := [c] } → c.done = true → c.push ≠ 0 → i < 12 → s.engineLive h = true →
      vget (s.thr h).fifo i < 16 → vget (s.thr h).returned i = 0 →
      Completes (.engineComplete h u 0) s fun t => unitQueue u (t.thr h) = { waiting := [], running := [] } ∧
        vget (t.thr h).fifo i = vget (s.thr h).fifo i + 1) ∧
    (s.front.dbg.frozen = false → (s.res r).windowFrom + 1024 ≤ s.cyc → (∀ q ∈ s.pitchResidencies r, s.hasRes q = true) →
      Completes (.rateWindow r) s fun t => t = { s with fes := t.fes, dies := t.dies } ∧
        (∀ q ∈ s.pitchResidencies r, t.res q = { s.res q with windowFrom := s.cyc }) ∧
        ∀ (f : FeId) (k p : Nat), k < 6 → p < 8 → vget (t.plane f k).inp p =
          if (s.pitchResidencies r).any (fun q => (pitchFes q (s.res q)).contains f && (s.res q).usesPlane k) then
            { vget (s.plane f k).inp p with admitted := 0 }
          else vget (s.plane f k).inp p)

/-- 06 R138, R141, 17 R352: once the stores of the pitch have performed and its work rests the four cycles of a plane
switch begin; then the target plane is active at every FE, with the FIFOs and output registers of the ports and with
residents and element registers of its own, and the next phase begins. A DRAIN counted at LAST of the ring's entry
starts the switch to the next entry. An FE that is done passes to the spliced successor's plane, as at an arm: its
ordinals and counts are zero, its sampling unit empty and its tile slots EMPTY; what the rate limiter has let in at
its ports in this window stays counted (06 R137). Which port state goes with the ports and which stays with its plane,
and that a switch also waits at the end of its four cycles for stores buffered meanwhile, are log entry 20 (DEDUCED).
-/
def Obligations.SwitchesAreMade : Prop :=
  ∀ (s : State) (r : ResId) (w : Switch) (f : FeId),
    let x := s.res r
    let moved (t : State) (old target : Nat) : Prop :=
      (t.fe f).active = target ∧ (t.plane f target).e = (s.plane f target).e ∧ ∀ p, p < 8 →
        (vget (t.plane f target).inp p).fifo = (vget (s.plane f old).inp p).fifo ∧
        (vget (t.plane f target).inp p).resident = (vget (s.plane f target).inp p).resident ∧
        (vget (t.plane f target).outp p).reg = (vget (s.plane f old).outp p).reg
    s.front.dbg.frozen = false → s.hasRes r = true → (∀ h ∈ s.threadsOf r, (s.thr h).sbuf = []) →
    (x.switch = some w → w.ready = none → s.switchReady r = false ∨ s.pitchStored r = false →
      exec (.planeSwitch r) s = .next s) ∧
    (x.switch = some w → w.ready = none → s.switchReady r = true → s.pitchStored r = true → Completes (.planeSwitch r) s fun t =>
      t.res r = { x with switch := some { w with ready := some s.cyc } } ∧ t.fes = s.fes ∧
      ∀ h, w.asker = some h → (t.thr h).stage = 2) ∧
    (∀ c, x.switch = some w → w.ready = some c → s.cyc < c + 4 ∨ s.pitchStored r = false → exec (.planeSwitch r) s = .next s) ∧
    (∀ c, x.switch = some w → w.ready = some c → c + 4 ≤ s.cyc → s.pitchStored r = true → s.unobserved → Completes (.planeSwitch r) s fun t =>
        (t.res r).plane = w.target ∧ (t.res r).switch = none ∧ (t.res r).phase.seq = x.phase.seq + 1 ∧
        (f ∈ pitchFes r x → (pitchFes r x).Nodup → x.predecessor = none → x.successor = none → (s.fe f).beneath = none →
          (s.fe f).active < 6 → w.target < 6 →
          moved t (s.fe f).active w.target)) ∧
    (let last := (x.ring.getD x.ringAt (0, 0)).2
     let k := (x.ringAt + 1) % x.ring.length
     x.ringRun = true → x.switch = none → x.freed = false → last ∈ x.drains → Completes (.seqSwitch r) s fun t =>
      s.onlyRes t r ∧ t.res r = { x with
        drains := x.drains.erase last
        switch := some { target := (x.ring.getD k (0, 0)).1, ring := some k, since := s.cyc } }) ∧
    (∀ (k n : Nat) (y : Residency), let q : ResId := ⟨f.die, n⟩
      ((s.die f.die).res.find? fun p => p.2.pages.contains f.page && p.2.successor.isSome) = some (k, y) →
      y.successor = some n → (s.fe f).switched = false → (s.res q).state = .armed → y.freeze = 0 →
      s.spliceReady ⟨f.die, k⟩ f = true → Completes (.spliceFeSwitch f) s fun t =>
        (t.fe f).switched = true ∧ (t.fe f).tiles = .replicate 16 {} ∧ (t.fe f).samp = {} ∧ (t.fe f).voidPackets = 0 ∧
        (t.fe f).malformed = 0 ∧ (∀ z, z ≠ (s.res q).plane → t.plane f z = s.plane f z) ∧
        (let old := (s.fe f).beneath.getD (s.fe f).active
         let z := (s.res q).plane
         z < 6 → t.plane f z = { s.plane f z with inp := (t.plane f z).inp } ∧ ∀ p, p < 8 → vget (t.plane f z).inp p =
          { vget (s.plane f z).inp p with admitted := (vget (s.plane f old).inp p).admitted }) ∧
        ((s.fe f).beneath = none → (t.fe f).active = (s.res q).plane ∧ (t.fe f).ordinal = 0))

/-- 06 R128-R130, R134, R135, 08 R160, R161, 19 R391: a host LAUNCH queues its record on its die, and waits while the
queue is full, its die chosen once; the CP, capture packets at the heads of its queues having acted and its
reservation standing, takes the record it chooses out of its queue and loads it at the place chosen; a record that has
aged is marked and takes the die's reservation; the controller grants the waiting request of lowest priority number
that fits the pool. -/
def Obligations.RecordsArePlaced : Prop :=
  ∀ (s : State) (a : Nat) (e : Line) (die k p idx : Nat) (o : Nat × Nat),
    (let n := cmdWord e 1
     let l := lineOf (s.physRead n 64)
     s.cmdAt 1 a e → s.front.hcqHeld = none → physOk n 64 = true → hostRecBad l = false → targetDie l s.freestDie = die → die < 4 →
     (s.die die).live = true → (s.die die).everFits (recH l) (recW l) = true →
      ((s.queued die (recQueue l)).length < 64 → Completes .hostLaunch s fun t => s.answered t a e 0 ∧
        t.queued die (recQueue l) = s.queued die (recQueue l) ++ [(l, recAsid l, n, .none)]) ∧
      (64 ≤ (s.queued die (recQueue l)).length →
        exec .hostLaunch s = .next { s with front := { s.front with hcqHeld := some (die, l) } })) ∧
    (let i0 := (s.captureHeads die).modDie die Die.reserve
     let x := i0.die die
     let q := x.recAt (k, p)
     let s1 := i0.modDie die fun d => d.dropRec k p
     let s2 := s1.modDie die fun d => { d with lastPlace := some s.cyc, lastQueue := vset d.lastQueue (k / 4) (k % 4) }
     let r : ResId := ⟨die, idx⟩
     s.front.dbg.frozen = false → die < 4 → (s.die die).live = true → (s.die die).cpLost = false → x.failedRec = none →
     (∀ c, x.lastPlace = some c → c + 64 ≤ s.cyc) → x.savedFits = none → x.choose s.cyc = some ((k, p), o) → k < 16 →
     x.freeIdx = some idx →
      (i0.headerCheck die q.record q.asid ≠ 0 → q.guard = .none → Completes (.place die) s fun t =>
        t.queued die k = (i0.queued die k).eraseIdx p ∧ t.hasRes r = false) ∧
      (∀ i ps, i0.headerCheck die q.record q.asid = 0 → s2.cpLoad die q.record q.asid (recH q.record) (recW q.record) = .ok (i, ps) →
        Completes (.place die) s fun t => t.queued die k = (i0.queued die k).eraseIdx p ∧ t.hasRes r = true ∧
          (t.res r).state = .loaded ∧ (t.res r).record = q.record ∧ (t.res r).asid = q.asid ∧
          ((t.res r).band0, (t.res r).group0) = o ∧ (t.die die).lastPlace = some s.cyc ∧
          (i.urgent = false → ∀ n ∈ rectPages o.1 o.2 i.h i.w, n < 48 →
            (vget (t.die die).pages n).state = .held ∧ (vget (t.die die).pages n).res = BitVec.ofNat 8 idx))) ∧
    (let x := s.die die
     let q := x.recAt (k, p)
     s.front.dbg.frozen = false → die < 4 → 4 ≤ k → k < 16 → q.eligible = true → q.old s.cyc = true →
      Completes (.recordAged die k p) s fun t => ((vget (t.die die).queues k)[p]?).map (·.aged) = some true ∧
        (x.reservation = none → x.agedRecs = [] → firstOrigin (recH q.record) (recW q.record) x.pageLive = some o →
          (∃ n, (t.die die).reservation = some (k, p, o.1, o.2, n)) ∧
          ∀ n ∈ rectPages o.1 o.2 (recH q.record) (recW q.record), n < 48 → (vget (t.die die).pages n).rsv = true)) ∧
    (∀ q, s.front.dbg.frozen = false → s.leaveNext = some q → Completes .leaveGrant s fun t => s.onlyFront t ∧
      q.units ≤ s.front.poolFree ∧ t.front.poolFree = s.front.poolFree - q.units ∧
      (∀ y ∈ s.front.leaveReqs, y.granted = false → y.units ≤ s.front.poolFree → q.prio ≤ y.prio) ∧
      t.front.leaveReqs = s.front.leaveReqs.map fun y => if y.who = q.who then { y with granted := true } else y)

/-- 05 R127, 06 R134, R136, R139, R140, 08 R169, 15 R322, 18 R375: with its leave granted and its banks free a loaded
residency arms at its START plane and its control thread is due; an urgent one arms at once on plane 5 and starts
thread 0. A due control thread or a task takes the lowest free thread with its pc, its ASID and its registers. A gang
slice starts at its time, with its control thread due or, an urgent one, with thread 0 started; or it is released and
its record queued again, to be placed from the next quantum on, unless it has been ended or aborted meanwhile. That it
waits while its queue holds 64 records is log entry 85 (DESIGN CHOICE). -/
def Obligations.ResidenciesStart : Prop :=
  ∀ (s : State) (r : ResId) (h : ThreadId) (f : FeId),
    let x := s.res r
    let fresh : Prop := mapFind (s.die r.die).context r.idx = none ∧ x.predecessor = none ∧ f ∈ pitchFes r x ∧
      (pitchFes r x).Nodup
    s.front.dbg.frozen = false → s.hasRes r = true →
    (∀ q, x.state = .loaded → x.freed = false → (s.die r.die).cpLost = false → x.urgent = false →
      s.bankBusy x.image.banks = false → (s.front.leaveReqs.find? fun y => y.who = LeaveFor.arm r) = some q →
      q.granted = true → Completes (.arm r) s fun t => (t.res r).state = .armed ∧ (t.res r).classLeave = x.units ∧
        (∀ y ∈ t.front.leaveReqs, y.who ≠ LeaveFor.arm r) ∧
        (fresh → (t.res r).threadDue = decide (x.gang = .none) ∧
          ((s.fe f).beneath = none → (t.fe f).active = x.start ∧ (t.fe f).ordinal = 0))) ∧
    (let z : ThreadId := ⟨r.die, x.core, 0⟩
     let runs (t : State) : Prop := (t.res r).thread = some z ∧ (t.res r).threadDue = false ∧ (t.thr z).status = .ready ∧
       (t.thr z).role = .urgent r ∧ (t.thr z).pc = wordN (x.ctlBase + x.entry) ∧ (t.thr z).asid = x.asid ∧
       vget (t.thr z).g 1 = recArg x.record ∧ ∀ v, v ≠ z → (t.thr v).status = (s.thr v).status
     (x.state = .loaded → x.freed = false → (s.die r.die).cpLost = false → x.urgent = true → fresh →
      Completes (.arm r) s fun t => (t.res r).state = .armed ∧ (t.fe f).active = 5 ∧
        (t.fe f).beneath = some (s.fe f).active ∧ (x.gang = .none → runs t) ∧
        (x.gang = .placing → (t.res r).gang = .ready ∧ (t.res r).thread = x.thread ∧ (t.thr z).role = (s.thr z).role)) ∧
     (x.gang = .waiting → x.gangT ≤ s.gclk → x.urgent = true → Completes (.gangStart r) s fun t =>
      (t.res r).gang = .running ∧ runs t)) ∧
    (x.threadDue = true → x.state = .armed → (∀ w ∈ s.threadWaiters r.die x.core, x.armSeq ≤ w.1) →
      s.freeThread r.die x.core = some h → mapFind (s.die r.die).context r.idx = none →
      Completes (.threadStart r) s fun t => (t.thr h).status = .ready ∧ (t.thr h).role = .control r ∧
        (t.thr h).pc = wordN (x.ctlBase + x.entry) ∧ (t.thr h).asid = x.asid ∧ (t.thr h).held = x.early ∧
        vget (t.thr h).g 0 = 0 ∧ vget (t.thr h).g 1 = recArg x.record ∧ (∀ k, 3 ≤ k → k < 32 → vget (t.thr h).g k = 0) ∧
        (t.res r).thread = some h ∧ (t.res r).threadDue = false ∧ ∀ v, v ≠ h → t.thr v = s.thr v) ∧
    (∀ (die page : Nat) (p : Packet) (rest : List Packet), mapGet [] (s.die die).taskq page = p :: rest →
      s.threadWaiters die page = [] → s.freeThread die page = some h → Completes (.taskStart die page) s fun t =>
        (t.thr h).status = .ready ∧ (t.thr h).pc = p.entry ∧ (t.thr h).asid = p.asid ∧
        (t.thr h).role = (match p.cell with
          | some c => Role.evaluator c p.done
          | none => .task p.owner p.done) ∧
        vget (t.thr h).g 1 = p.named ∧ (∀ k, k < 6 → vget (t.thr h).g (k + 2) = vget p.args k) ∧
        mapGet [] (t.die die).taskq page = rest ++ (mapGet [] (s.die die).taskWait page).take 1 ∧ ∀ v, v ≠ h → t.thr v = s.thr v) ∧
    (x.gang = .ready → Completes (.gangAllReady r) s fun t => s.onlyRes t r ∧ (t.res r).gang = .waiting ∧
      (t.res r).gangT = (s.gclk + 20000 + s.front.quantum * 1000 - 1) / (s.front.quantum * 1000) * (s.front.quantum * 1000)) ∧
    (x.gang = .waiting → x.gangT ≤ s.gclk → x.urgent = false → Completes (.gangStart r) s fun t => s.onlyRes t r ∧
      (t.res r).gang = .running ∧ (t.res r).threadDue = true ∧ (t.res r).phase = { x.phase with enabled := s.cyc }) ∧
    (x.gangLost = false → x.freed = false → x.scrubbing = false → (s.queued r.die (recQueue x.record)).length < 64 →
      (x.gang = .placing ∨ x.gang = .ready ∨ (x.gang = .waiting ∧ x.gangT + recSlack x.record * 1000 ≤ s.gclk)) →
      Completes (.gangAbandon r) s fun t => t.hasRes r = false ∧
        t.queued r.die (recQueue x.record) = s.queued r.die (recQueue x.record) ++ [(x.record, x.asid, x.addr, .none)] ∧
        (((vget (t.die r.die).queues (recQueue x.record)).getLast?).map fun q => (q.since, q.notBefore)) =
          some (some s.nextQuantum, s.nextQuantum) ∧
        vget (t.die r.die).counters 15 = vget (s.die r.die).counters 15 + 1 ∧
        (x.urgent = false → ∀ p ∈ x.pages, p < 48 → (vget (s.die r.die).pages p).state ≠ .excluded →
          (vget (t.die r.die).pages p).state = .free))

/-! ### Memory, guards, endings, faults, debugging -/

/-- 12 R260, R261, R265, R267, R270, R271, 15 R325, R326, 21 R405: a page walk leaves the translation in its tile; a
fill brings a line into its slice, and a copy of a VALUE line homed elsewhere into the die's cache, or is held while
no way is eligible, and asks peers to drop the line whose way it is to take; of a peer's line it asks the peer, and
the answer becomes the copy; a lost port poisons its dirty lines and is out at the next reset; a host access performs
at its home through a mapping with T = 0, a read answering the bytes there; a chase that closes a cycle and a park
past its limit stop the thread that waits; a refused access is made again. What a host's read of a poisoned line
answers is log entry 51 (UNVERIFIED), that an access beyond the pool is not made log entry 83 (DESIGN CHOICE), and
what a peer's answer holds log entry 9 (DESIGN CHOICE). -/
def Obligations.MemoryEvents : Prop :=
  ∀ (s : State) (h : ThreadId) (va : Nat),
    (∀ (die asid : Nat) (w : Walk), s.walk (BitVec.ofNat 16 asid) va = .ok w →
      (s.walked (fillUnit die) (BitVec.ofNat 16 asid) w.made).1 = true →
      Completes (.pageWalk die asid va) s fun t => t.translate die (BitVec.ofNat 16 asid) va = .ok w.leaf ∧
        t.mem = s.mem ∧ t.dies = s.dies ∧ t.threads = s.threads) ∧
    (∀ (die asid : Nat) (l : Leaf),
      let a := BitVec.ofNat 16 asid
      let line := l.pa / 64
      let fill : Instr := .l2Fill die (asid, va)
      windowOf va = some .glob → s.translate die a va = .ok l → s.gone l va = none →
      (l.p = false → s.recalling line = false → s.rdcFind die line none = none → (s.l2For line a).isSome = true →
       Completes fill s fun t =>
        (t.l2Find line).isSome = true ∧ t.mem = s.mem ∧
        ((s.homeSlice l.pa).1 ≠ die → l.nc = false → s.tag line = 0 → (∀ y ∈ s.tent, y.line ≠ line) →
          (s.rdcBank die line).isSome = true →
          ∃ c ∈ t.rdc, c.die = die ∧ c.line = line ∧ c.peer = none ∧ c.data = s.line line)) ∧
      (l.p = false → s.recalling line = false → s.rdcFind die line none = none → s.l2For line a = none →
        Completes fill s fun t => t.mem = s.mem ∧
          (s.victim line = none → t.l2 = s.l2 ∧ (∃ h ∈ t.heldReqs, h.line = line ∧ h.cause = .way) ∧
            (s.heldReqs = [] → (s.homeSlice (line * 64)).1 < 4 → vget (t.die (s.homeSlice (line * 64)).1).counters 3 =
              vget (s.die (s.homeSlice (line * 64)).1).counters 3 + 1)) ∧
          ∀ v p, s.victim line = some v → v.peerBit = true → p < 64 → s.peerUp p = true →
            ∃ x ∈ t.sent, x.peer = p ∧ x.line = v.line ∧ x.kind = .inv ∧ x.answered = false) ∧
      (l.p = true → (∀ y ∈ s.tent, y.line ≠ l.line l.pa) → s.rdcFind die line (some l.peer) = none → s.sent = [] →
        Completes fill s fun t => t.mem = s.mem ∧ t.rdc = s.rdc ∧
          ∃ x, t.sent = [x] ∧ x.peer = l.peer ∧ x.line = line ∧ x.kind = .read ∧ x.answered = false) ∧
      (∀ x, l.p = true → l.nc = false → (∀ y ∈ s.tent, y.line ≠ l.line l.pa) → s.rdcFind die line (some l.peer) = none →
        s.askedFor (fillUnit die) l.peer line .read = some x → x.answered = true → x.stale = false →
        (s.rdcBank die line).isSome = true → Completes fill s fun t => t.mem = s.mem ∧ ∃ c ∈ t.rdc, c.die = die ∧ c.line = line ∧
          c.peer = some (l.peer, (vget s.front.peers l.peer).incarnation.toNat) ∧ c.data = x.data)) ∧
    (∀ port, port < 24 → vget s.front.cxl port = true → port ∉ s.front.lostPorts →
      Completes (.cxlPortLost port) s fun t => t.front.lostPorts = s.front.lostPorts ++ [port] ∧
        t.front.excludePorts = s.front.excludePorts ++ [port] ∧ t.mem = s.mem ∧
        ∀ k (ls : List L2Line) (x : L2Line), (k, ls) ∈ s.l2 → x ∈ ls → x.dirty = true → s.portOf (x.line * 64) = some port →
          t.poisoned x.line = true) ∧
    (∀ (v : Via) (off len : Nat) (d : BitVec 512), let a := s.front.hwin.toNat + off
      s.booted = true → 0 < len → off + len ≤ 2 ^ 36 → a % 64 + len ≤ 64 → a + len ≤ 2 ^ 55 → s.portGone a = false →
      s.offPool (a + len - 1) = false →
        (s.hostReaches v = true → (s.l2Bring (a / 64)).isSome = true → Completes (.bar2Access (v, off) len (some d)) s fun t =>
          t.mem = s.mem.writeBytes a ((lineBytes d).take len) ∧ t.tag (a / 64) = 0) ∧
        (s.hostReaches v = true → (s.l2Bring (a / 64)).isSome = true → s.recalling (a / 64) = false →
          Completes (.bar2Access (v, off) len none) s fun t =>
            t.mem = s.mem ∧ t.tags = s.tags ∧ t.front = { s.front with bar2 := s.mem.readBytes a len }) ∧
        (s.hostReaches v = false ∨ s.l2Bring (a / 64) = none → ∀ w, exec (.bar2Access (v, off) len w) s = .next s)) ∧
    (∀ (a b : Nat) (rest : List (Requester × Nat)),
      (s.thr h).chases = (.thread h, b) :: rest → s.stoppedThread h = false → (s.thr h).paused = none →
      s.growsCell (.thread h) = some a → s.parkedOn (.thread h) = some b →
        (∀ x, s.chase a 3 b = some x → (s.thr h).tvec ≠ 0 → (s.thr h).intrap = false →
          Completes (.waitsForChase h) s fun t => s.trapsAt t h .sporeCycle) ∧
        (s.chase a 3 b = none → Completes (.waitsForChase h) s fun t => s.onlyThread t h ∧
          t.thr h = { s.thr h with chases := rest })) ∧
    (∀ (die slice pos : Nat) (w : Waiter), (s.waitersAt (die, slice))[pos]? = some w → w.who = .thread h →
      s.stoppedThread h = false → (s.thr h).paused = none → (s.thr h).status ≠ .saved →
        (w.since + (s.die die).parkLimit ≤ s.cyc → (s.thr h).tvec ≠ 0 → (s.thr h).intrap = false →
          Completes (.sporeTimeout die slice pos) s fun t => s.trapsAt t h .sporeTimeout) ∧
        (s.cyc < w.since + (s.die die).parkLimit → exec (.sporeTimeout die slice pos) s = .next s)) ∧
    (Completes (.backOffRetry (.thread h)) s fun t => t = { s with agenda := .thread h :: s.agenda }) ∧
    (∀ f id pos, ((s.fe f).port.findIdx? fun o => decide (o.id = id)) = some pos →
      exec (.backOffRetry (.fePort f id)) s = exec (.accessPerform (.fePort f pos)) s)

/-- 07 R145, R151, R152, R155, 17 R357, 18 R368, 19 R388: a free guard entry takes the oldest spore guard that waits;
a failed tile is discarded and its exact record is due; a QUEUED tile within the width runs with its record queued. A
cut that everything has taken, and whose stores have performed, becomes the last complete cut, the stores a SNAP
residency holds for it become memory; a debug cut freezes the device instead, its origin the cycle. What peers home of
a SNAP residency's stores is sent to them first, and the cut completes once it has performed there (17 R357). (That
the oldest guard that waits is taken is log entry 25 (DEDUCED), which stores a copy holds for the next cut is log
entry 67 (DEDUCED), and what a commit does to a cell is the model's choice: log entry 69.) -/
def Obligations.GuardsAndCuts : Prop :=
  ∀ (s : State) (die n i : Nat) (g : GuardEntry) (r : ResId) (c : Cut),
    let entry (x : State) : Option GuardEntry := vget (x.die die).guards n
    let ts := List.range g.count
    let failed : Option Nat := ts.find? fun j => (g.tile j).state = .failed || (g.tile j).state = .fallback
    s.front.dbg.frozen = false →
    (∀ (l : Line) (asid : BitVec 16) (cell : Nat) (rest : List (Line × BitVec 16 × Nat)), die < 4 → n < 16 →
      entry s = none → (s.die die).guardWait = (l, asid, cell) :: rest → Completes (.guardTileIssue die n) s fun t =>
        entry t = some { record := l, asid, tol := fld l 480 32, pair := 0, cell := some cell } ∧
        (t.die die).guardWait = rest) ∧
    (entry s = some g → (∀ j ∈ ts, (g.tile j).state ≠ .deciding) → failed = some i → Completes (.guardTileIssue die n) s fun t =>
      (∀ y ∈ t.tent, y.owner ≠ .tile die n i) ∧
      ∃ g', entry t = some g' ∧ (g'.tile i).state = .exact ∧ g'.exactOrder = g.exactOrder ++ [i]) ∧
    (let s1 := s.modTile die n i fun x => { x with state := .running, due := 1 }
     let img := fldN g.record 0 64
     ∀ bs, let m : Image := { addr := img, header := lineOf bs }
      entry s = some g → (∀ j ∈ ts, (g.tile j).state ≠ .deciding) → failed = none → g.exactOrder = [] → g.paired = false →
      (ts.find? fun j => (g.tile j).state = .queued) = some i →
      (ts.filter fun j => (g.tile j).state = .running || (g.tile j).state = .deciding).length ≤ fldN g.record 464 6 →
      s.guardRoom die g 2 = true → s1.unitRead die g.asid img 64 .r = .ok bs → m.headerOk = true →
      (s.die die).everFits m.h m.w = true → Completes (.guardTileIssue die n) s fun t =>
        (∃ g', entry t = some g' ∧ (g'.tile i).state = .running ∧ (g'.tile i).due = 1) ∧
        t.queued die (recQueue (guardRec g die m)) = s.queued die (recQueue (guardRec g die m)) ++
          [(guardRec g die m, g.asid, 1, .surrogate n i)]) ∧
    (s.hasRes r = true → (s.res r).cut = some c →
      (s.cutIsDone r c = false → exec (.cutComplete r) s = .next s) ∧
      (s.cutIsDone r c = true → c.debug = false → (s.res r).snap = true → s.commitOwed (.snap r) = true →
        Completes (.cutComplete r) s fun t => (t.res r).cut = some c ∧ t.mem = s.mem ∧
          ∀ y ∈ s.tent, y.owner = .snap r → ∃ z ∈ t.tent, z.owner = .snap r ∧ z.line = y.line ∧ z.data = y.data) ∧
      (s.cutIsDone r c = true → c.debug = false → ((s.res r).snap = true → s.commitOwed (.snap r) = false) →
       s.front.dbg.cut = none → Completes (.cutComplete r) s fun t =>
        (t.res r).cut = none ∧ (t.res r).cutCommitted = some c.num ∧ (t.res r).cutBinds = c.made ∧
        (∀ f : FeId, f.die = r.die → f.page ∈ (s.res r).pages → (t.fe f).cutTaken = none) ∧
        ((s.res r).snap = true →
          (∀ y ∈ t.tent, y.owner = .snap r → y.late = 0 ∧ y.held = none) ∧
          ((∀ y ∈ s.tent, y.owner = .snap r → y.held = none) → ∀ y ∈ t.tent, y.owner ≠ .snap r) ∧
          ∀ y, s.tent = [y] → y.owner = .snap r → y.held = none → y.mask ≠ 0 → y.line < 2 ^ 49 → s.mem.wf = true →
            s.tag y.line = 0 → t.line y.line = mergeLine (s.line y.line) y.data y.mask)) ∧
      (s.cutIsDone r c = true → c.debug = true → s.front.dbg.freezeAt = none → Completes (.cutComplete r) s fun t =>
        (t.res r).cut = none ∧ (t.res r).cutCommitted = (s.res r).cutCommitted ∧ t.front.dbg.cut = none ∧
        t.front.dbg.freezeAt = some s.cyc))

/-- 01 R29, 06 R133, 18 R371, R372, 20 R396, R397: a pre-emption passes from phase 1 to phase 2 as every input binding
has stopped, and saves the residency once its pitch rests, a frozen one as it stands; past its limit, at once where
MAXOUTER is 0, it escalates: a SNAP residency is rolled back and saved as soon as it may be, any other ended with
status 0x133 and a report. A residency that is done retires, completing its launch with its status; its scrub clears
its planes and its local memory, frees its pages and returns its leave, and is audited. What a SNAP residency has
stored to lines that peers home is sent to them before it retires (17 R357). That a save waits for an instruction
boundary is log entry 39 (DEDUCED), that it waits for a splice too (DESIGN CHOICE), and the key of at least 48 that
names a saved residency log entry 40 (DEDUCED). -/
def Obligations.ResidenciesEnd : Prop :=
  ∀ (s : State) (r : ResId),
    let x := s.res r
    s.front.dbg.frozen = false → s.hasRes r = true →
    (∀ c ph, x.freed = false → x.state = .armed → x.preempt = some (c, ph) →
      let n := x.preemptCount.2 + (s.cyc - x.preemptCount.1)
      let within : Prop := x.maxouter ≠ 0 ∧ (x.freeze ≠ 0 ∨ n ≤ x.maxouter)
      let quiet : Prop := ∀ h, x.thread = some h → (s.thr h).sbuf = []
      let saved (t : State) : Prop := (t.res r).state = .retiring ∧ (t.res r).scrubbing = true ∧
        (t.res r).thread = none ∧ (∀ h, x.thread = some h → (t.thr h).status = .free) ∧
        ∃ v : Saved, (t.die r.die).saved = (s.die r.die).saved ++ [v] ∧ v.res.record = x.record ∧ v.res.asid = x.asid ∧
          v.thread.isSome = x.thread.isSome ∧ v.fes.map (·.1) = pitchFes r x ∧ 48 ≤ v.key
      (x.freeze = 0 → within → ph = 1 → x.stopped = true → s.pitchPaused r = false → Completes (.preemptSave r) s fun t =>
        s.onlyRes t r ∧ t.res r = { x with preempt := some (c, 2), preemptCount := (s.cyc, 0) }) ∧
      (within ∨ ph = 3 → (x.freeze ≠ 0 ∨ ph = 3 ∨ ph = 2 ∧ s.pitchRests r = true ∧ s.drainedOut r = true) → s.saveable r = true → quiet →
        Completes (.preemptSave r) s saved) ∧
      (within → exec (.preemptEscalate r) s = .next s) ∧
      ((x.maxouter = 0 ∨ x.freeze = 0 ∧ x.maxouter < n) → ph ≤ 2 → s.pitchPaused r = false →
        (x.snap = true → x.cut = none → s.saveable r = true → quiet → Completes (.preemptEscalate r) s saved) ∧
        (x.snap = true → x.cut = none → x.spliced = false → quiet → Completes (.preemptEscalate r) s fun t =>
          (t.res r).preempt = some (c, 3) ∨ saved t) ∧
        (x.snap = false → Completes (.preemptEscalate r) s fun t =>
          (t.res r).status = 0x133 ∧ (t.res r).freed = true ∧ (t.res r).halted = true ∧
          ∃ y ∈ (t.die r.die).frq.due, fldN (vget y.1 0) 0 16 = 0x33 ∧ y.2.1 = 0))) ∧
    (let o := TentOwner.snap r
     let m : State := { s with tent := s.tent.map fun y => if y.owner = o then y.whole else y }
     x.state = .armed → x.snap = true → recGsl x.record = false → s.mayRetire r = true → m.commitOwed o = true →
      Completes (.retire r) s fun t => t.res r = x ∧ t.mem = s.mem) ∧
    (s.mayRetire r = true → (∀ y ∈ s.tent, y.owner = .snap r → y.line < 2 ^ 49) → Completes (.retire r) s fun t =>
      (t.res r).state = .retiring ∧ (t.res r).scrubbing = true ∧ (t.res r).completed = true ∧ (t.res r).cut = none) ∧
    (∀ l : Leaf, s.mayRetire r = true → x.state = .loaded → x.guard = .none → s.pairLands r.die x.asid (recDone x.record) l →
      Completes (.retire r) s fun t =>
        t.mem = s.mem.writeBytes l.pa (pairBytes (leNat (s.mem.readBytes l.pa 8)) x.status)) ∧
    (x.scrubbing = true → s.reportDue r = false → x.successor = none → x.predecessor = none →
      Completes (.scrubComplete r) s fun t => t.hasRes r = false ∧
        (t.front.audit.getLast?.map fun e => (e.event, e.asid)) = some (0x0003, x.asid) ∧
        ((∀ y ∈ s.front.leaveReqs, y.who ≠ LeaveFor.arm r) → t.front.poolFree =
          s.front.poolFree + if x.classLeave = 0 then 0 else x.classLeave + x.explicitLeave) ∧
        (x.urgent = false →
          (∀ p ∈ x.pages, p < 48 → (vget (s.die r.die).pages p).state ≠ .excluded →
            (vget (t.die r.die).pages p).state = .free) ∧
          ∀ f ∈ pitchFes r x, (∀ k, k < 5 → t.plane f k = {}) ∧ ∀ o, o < 131072 → t.lmem.read (feBase f + o) = 0))

/-- 18 R364-R367, Table 18-4: the oldest record due that has room is written at PROD and awaits its answer if it is
replayable; a fatal one that has none sets OVF and counts in LOST; a replay issues the held access again, an abort
delivers the fault; an uncorrected error posts a fatal record and ends every residency that uses the unit; an error in
data poisons its line and counts in UE, a corrected one counts in CE (20 R401; log entry 56). An interrupt is
signalled where a function has MSI-X enabled (21 R406), and an answer reaches its register where the host's access
does (21 R407, R415). The record that an abort delivers, with ASYNC set, word 6 zero and class 00 where R366 says the
same words, is log entry 42 (DEDUCED). -/
def Obligations.FaultQueueRuns : Prop :=
  ∀ (s : State) (die : Nat),
    let q := (s.die die).frq
    let raised (n : Nat) : List (Nat × Nat) := s.front.irqs ++ (s.front.msixLink.map fun k => (k, n)).toList
    die < 4 →
    (∀ (n i c : Nat) (w : Rec8) (src : Option Requester),
      s.front.dbg.frozen = false → q.free = some n →
      (q.due.zipIdx.find? fun x => decide (x.1.2.1 = 2 ∨ 4 < n)) = some ((w, c, src), i) →
      (0 < n → s.mem.wf = true → Completes (.frqPost die) s fun t =>
        let w' := if c = 1 then vset w 6 (wordN q.prod.toNat) else w
        (t.die die).frq.prod = q.prod + 1 ∧ (t.die die).frq.due = q.due.eraseIdx i ∧
        t.front.irqs = raised (1 + die) ∧
        t.mem.readBytes (q.base.toNat + 64 * (q.prod.toNat % 256)) 64 = lineBytes (recLine w') ∧
        (t.die die).frq.waiting = q.waiting ++ (match src with
          | none => []
          | some y => if c = 1 then [{ post := q.prod.toNat, words := w', src := y }] else [])) ∧
      (n = 0 → Completes (.frqPost die) s fun t =>
        (t.die die).frq.ovf = true ∧ (t.die die).frq.lost = min (q.lost + 1) 65535 ∧ (t.die die).frq.prod = q.prod ∧
        (t.die die).frq.first = (if q.ovf then q.first else fld (vget w 0) 0 16) ∧ t.front.irqs = raised (5 + die))) ∧
    (∀ (v : Via) (post : Nat) (w : Waiting), s.hostReaches v = true → s.frqNamed die post = some w →
      let answered (t : State) : Prop := ∀ y ∈ (t.die die).frq.waiting, y.post ≠ post
      (∀ f id o, w.src = .fePort f id → (s.fe f).heldOp id = some o →
        Completes (.frqReplay (v, die) post) s fun t => answered t ∧ s.sameMem t ∧
          (t.fe f).port = (s.fe f).port.map fun y => if y.id = o.id then { y with stage := .issued } else y) ∧
      (∀ r k e b, w.src = .binding r k e → s.binding r k = some b →
        (Completes (.frqReplay (v, die) post) s fun t => answered t ∧ s.sameMem t ∧ t.binding r k =
          some { b with spill := b.spill.map fun p => { p with retry := p.isPage } }) ∧
        ∀ h, (s.res r).freed = false → (s.res r).thread = some h → Completes (.frqAbort (v, die) post) s fun t =>
          answered t ∧ t.binding r k = none ∧ (t.res r).freeze = (s.res r).freeze + 1 ∧
          (t.thr h).held = (s.thr h).held ++ [{ words := abortRec w.words, freezes := true, at_ := s.cyc }])) ∧
    (∀ (u : Via) (w : BitVec 64), s.hostReaches u = true → Completes (.frqfatalClear (u, die) w) s fun t => s.onlyDie t die ∧
      (t.die die).frq = if bitOf w 0 then { q with ovf := false, lost := 0 } else q) ∧
    (∀ (u : Via) (v : BitVec 32), s.hostReaches u = true → Completes (.frqconsWrite (u, die) v) s fun t => s.onlyDie t die ∧ (t.die die).frq = { q with cons := v } ∧
      vget (t.die die).counters 17 = vget (s.die die).counters 17 + if 256 < (q.prod - v).toNat then 1 else 0) ∧
    (∀ u : Via, s.hostReaches u = false → (∀ post, exec (.frqReplay (u, die) post) s = .next s ∧
      exec (.frqAbort (u, die) post) s = .next s) ∧ (∀ w, exec (.frqfatalClear (u, die) w) s = .next s) ∧
      ∀ v, exec (.frqconsWrite (u, die) v) s = .next s) ∧
    (∀ line : Nat, s.booted = true → line < 2 ^ 49 → Completes (.uncorrectedError die 0 line) s fun t =>
      t = { s with poison := t.poison, dies := t.dies } ∧ (∀ n, t.poison.contains n = (s.poison.contains n || n == line)) ∧
      vget (t.die die).counters 1 = vget (s.die die).counters 1 + 1) ∧
    (∀ kind index : Nat, s.booted = true → 5 < kind → Completes (.uncorrectedError die kind index) s fun t => s.onlyDie t die ∧
      vget (t.die die).counters 0 = vget (s.die die).counters 0 + 1) ∧
    (∀ kind index : Nat, s.booted = false → exec (.uncorrectedError die kind index) s = .next s) ∧
    (∀ kind index : Nat, s.booted = true → 0 < kind → kind ≤ 5 → Completes (.uncorrectedError die kind index) s fun t =>
      (∃ y ∈ (t.die die).frq.due, y.2.1 = 2 ∧ fldN (vget y.1 0) 0 16 = 0x40 ∧ vget y.1 1 = wordN (kind + index * 2 ^ 16)) ∧
      (t.front.audit.getLast?.map (·.event)) = some 0x0006 ∧ (kind = 2 → (t.die die).cpLost = true) ∧
      ∀ k x, mapFind (s.die die).res k = some x → (x.state = .armed ∨ x.state = .loaded) →
        s.usesUnit ⟨die, k⟩ x kind index = true →
        (t.res ⟨die, k⟩).status = 0x140 ∧ (t.res ⟨die, k⟩).freed = true ∧ (t.res ⟨die, k⟩).halted = true)

/-- 19 R380, R383, R384, R387-R389, R391, R395, 21 R405: a freeze takes hold 96 cycles after its origin and a resume
gives it back with no frozen cycle counted; a step that stalls and a debug cut past its limit end; triggers take
effect 96 cycles after their origin; a capture packet acts at the head of its queue; the host's registers keep the
bits they have, and a read-only one ignores a write. An interrupt is signalled where a function has MSI-X enabled (21
R406); a write reaches a register where the host's access does (21 R407, R415), a recovery register in recovery too.
The move of every stamp past the frozen cycles is log entry 21 (DEDUCED), the capture log with the latest trigger
first log entry 45 (DEDUCED), the recovery registers log entry 84 (DESIGN CHOICE). -/
def Obligations.DebuggerAndRegisters : Prop :=
  ∀ (s : State),
    let d := s.front.dbg
    let raised (n : Nat) : List (Nat × Nat) := s.front.irqs ++ (s.front.msixLink.map fun k => (k, n)).toList
    (∀ c, d.freezeAt = some c → d.frozen = false →
      (c + 96 ≤ s.cyc → Completes .deviceFreeze s fun t => s.onlyFront t ∧ t.front = { s.front with
        dbg := { d with frozen := true, frozenFrom := c + 96, freezeAt := none }, irqs := raised 10 }) ∧
      (s.cyc < c + 96 → exec .deviceFreeze s = .next s)) ∧
    (∀ c, d.resumeAt = some c → d.frozen = true →
      (c + 96 ≤ s.cyc → (∀ p ∈ s.allRes, p.2.gangLost = false) → Completes .deviceResume s fun t =>
        t.front.dbg.frozen = false ∧ t.front.dbg.resumeAt = none ∧ t.front.dbg.stopped = [] ∧ t.front.dbg.hits = 0 ∧
        t.front.dbg.step = none ∧ s.sameMem t ∧ ∀ h, t.thr h = (s.thr h).shift (movedOn d.frozenFrom s.cyc)) ∧
      (s.cyc < c + 96 → exec .deviceResume s = .next s)) ∧
    (∀ h c b, d.step = some (h, c, b) → c + 4096 ≤ s.cyc → (s.thr h).status = .stalled →
      Completes .stepTimeout s fun t => s.onlyFront t ∧
        t.front = { s.front with dbg := { d with step := none, stepwait := true }, irqs := raised 10 }) ∧
    (∀ r limit since, d.cut = some (r, limit, since) → d.frozen = false → since + limit ≤ s.cyc →
      Completes .debugCutWithdraw s fun t => t.front = { s.front with dbg := { d with cut := none, cutwd := true } } ∧
        s.sameMem t ∧ (∀ q c, (t.res q).cut = some c → c.debug = false) ∧ ∀ f n, (t.fe f).cutTaken ≠ some (n, true)) ∧
    (∀ q : Trigger, s.front.triggers = [q] → q.action < 4 →
      (s.cyc < q.origin + 96 → exec .triggerApply s = .next s) ∧
      (q.origin + 96 ≤ s.cyc → Completes .triggerApply s fun t => t.front.triggers = [] ∧
        (q.action < 2 → t.front.dbg = d ∧ ∀ k, k < 4 →
          (t.die k).trace.log = (decide (q.action = 0), q.filter) :: (s.die k).trace.log) ∧
        (q.action = 2 → d.frozen = false → t.front.dbg.freezeAt =
          some (match d.freezeAt with
            | none => q.origin
            | some c => min c q.origin)) ∧
        (q.action = 3 → d.frozen = true → t.front.dbg = { d with resumeAt := some q.origin }))) ∧
    (∀ (die k : Nat) (q : QRec) (on : Bool), (vget (s.die die).queues k).head? = some q → q.capture = some on →
      d.frozen = false → Completes (.capturePacketHead die k) s fun t =>
        vget (t.die die).queues k = (vget (s.die die).queues k).tail ∧ (k ∈ (t.die die).trace.queues ↔ on = true) ∧
        ∀ j, j ≠ k → (j ∈ (t.die die).trace.queues ↔ j ∈ (s.die die).trace.queues)) ∧
    (∀ (u : Via) (w : BitVec 64), s.hostReaches u = true → Completes (.dbgstatClear (u, w)) s fun t => s.onlyFront t ∧ t.front = { s.front with dbg := { d with
      stepwait := d.stepwait && !bitOf w 1, cutwd := d.cutwd && !bitOf w 3, badbp := d.badbp &&& ~~~(fld w 32 16) } }) ∧
    (∀ (u : Via) (n : Nat) (e : BitVec 256), n < 16 → s.hostReaches u = true → Completes (.breakpointWrite (u, n) e) s fun t => s.onlyFront t ∧
      (let z := t.front.dbg
       t.front = { s.front with dbg := { d with bps := z.bps, badbp := z.badbp, watchPa := z.watchPa, ignored := z.ignored } }) ∧
      (let kept := vget t.front.dbg.bps n
       fld kept 0 38 = fld e 0 38 ∧ fld kept 38 26 = 0 ∧ fld kept 64 32 = fld e 64 32 ∧ fld kept 96 32 = 0 ∧
        fld kept 128 70 = fld e 128 70 ∧ fld kept 198 58 = 0) ∧
      (∀ k, k ≠ n → vget t.front.dbg.bps k = vget d.bps k) ∧
      (bitOf e 2 = true → bpBreach e = true → t.front.dbg.badbp = d.badbp ||| BitVec.ofNat 16 (2 ^ n)) ∧
      ((bitOf e 2 = false ∨ bpBreach e = false) → t.front.dbg.badbp = d.badbp)) ∧
    (∀ u : Via, s.hostReaches u = false → (∀ w, exec (.dbgstatClear (u, w)) s = .next s) ∧
      (∀ n e, exec (.breakpointWrite (u, n) e) s = .next s) ∧
      ∀ (reg : BarReg) (v : BitVec 64), answersInRecovery reg = false ∨ s.carries u = false →
        exec (.registerWrite (u, reg) v) s = .next s) ∧
    (∀ (u : Via) (k : Nat) (v : BitVec 64), s.carries u = true → Completes (.registerWrite (u, .recovery k) v) s fun t =>
      t = { s with front := { s.front with recoveryRegs := t.front.recoveryRegs } } ∧
        mapFind t.front.recoveryRegs k = some v ∧ ∀ j, j ≠ k → mapFind t.front.recoveryRegs j = mapFind s.front.recoveryRegs j) ∧
    ∀ (u : Via) (v : BitVec 64), s.hostReaches u = true →
      let writes (reg : BarReg) (x : Front) : Prop := Completes (.registerWrite (u, reg) v) s fun t => t = { s with front := x }
      writes .hcqBase { s.front with hcqBase := v &&& 0x7FFFFFFFFFF000 } ∧ writes .hcqSize { s.front with hcqSize := v &&& 0xF } ∧
      writes .hcqProd { s.front with hcqProd := fld v 0 32 } ∧ writes .hwin { s.front with hwin := v &&& 0xFFFFFFF000000000 } ∧
      (∀ fn, fn < 2 → writes (.msixEnable fn) { s.front with msixOn := vset s.front.msixOn fn (bitOf v 0) }) ∧
      (∀ (k : Nat) (high : Bool), k < 16 → Completes (.registerWrite (u, .msixEntry k high) v) s fun t => s.onlyFront t ∧
        fld (vget t.front.msixTable k) (if high then 64 else 0) 64 = v ∧
        fld (vget t.front.msixTable k) (if high then 0 else 64) 64 = fld (vget s.front.msixTable k) (if high then 0 else 64) 64 ∧
        ∀ j, j ≠ k → vget t.front.msixTable j = vget s.front.msixTable j) ∧
      (exec (.registerWrite (u, .hcqCons) v) s = .next s ∧ exec (.registerWrite (u, .pwrstat) v) s = .next s ∧
        exec (.registerWrite (u, .auditHead) v) s = .next s ∧ ∀ die, exec (.registerWrite (u, .frqProd die) v) s = .next s) ∧
      ∀ die, die < 4 → Completes (.registerWrite (u, .frqBase die) v) s fun t => s.onlyDie t die ∧
        (t.die die).frq = { (s.die die).frq with base := v &&& 0x7FFFFFFFFFC000 }

/-! ### Host, links, boot -/

/-- 21 R420, R421, 15 R326, 12 R263, 18 R370: WITHDRAW takes a record that is not placed out of its queue; KILL ends a
residency at once with status 0x134 and a report; PREEMPT asks for a pre-emption, or reports OVERRUN where the context
area is too small; ASIDROOT, CTXAREA, PARKLIM set what they name; each answers its status, 3 where what it names is
not there and 2 where an address or a value is out of range; an unknown operation answers 1. That ASIDROOT drops its
ASID's translations is log entry 47 (DEDUCED). 19 R379, R387-R391, 21 R421: TRACERING registers a die's ring; TRIGGER
sends its action, with its filter, at the cycle of its command; TRACEPKT queues a capture packet and waits while the
queue is full; DEBUG attaches at most 16 ASIDs and detaches them, audited, steps a thread of an attached ASID while
the device is frozen, and asks for a debug cut. DEBUG's status 2 for an action above 3, and 3 for an ASID attached
already and for a seventeenth, are log entry 44 (DEDUCED). -/
def Obligations.WorkAndDebugCommands : Prop :=
  (∀ (s : State) (a : Nat) (e : Line),
    let w (k : Nat) : Nat := cmdWord e k
    let asid : BitVec 16 := BitVec.ofNat 16 (w 1)
    let r := cmdRes (w 1)
    let x := s.res r
    let due (t : State) (code : Nat) : Prop := ∃ y ∈ (t.die r.die).frq.due, fldN (vget y.1 0) 0 16 = code ∧ y.2.1 = 0
    let refuses (i : Instr) (status : Nat) : Prop := Completes i s fun t => s.answered t a e status ∧
      t.roots = s.roots ∧ t.ctxAreas = s.ctxAreas ∧ t.threads = s.threads ∧ t.fes = s.fes ∧ ∀ d, (t.die d).res = (s.die d).res
    (s.cmdAt 2 a e → physOk (w 1) 64 = false → refuses .withdraw 2) ∧
    (s.cmdAt 2 a e → physOk (w 1) 64 = true →
      (s.recordAt (w 1) = none → refuses .withdraw 3) ∧
      ∀ d k p, s.recordAt (w 1) = some (d, k, p) → ((s.die d).recAt (k, p)).guard = .none →
        Completes .withdraw s fun t => s.answered t a e 0 ∧ t.queued d k = (s.queued d k).eraseIdx p) ∧
    (s.cmdAt 3 a e →
      ((s.hasRes r = false ∨ x.state = .retiring) → refuses .kill 3) ∧
      (s.hasRes r = true → x.state ≠ .retiring → Completes .kill s fun t => s.answered t a e 0 ∧ due t 0x34 ∧
        (t.res r).status = 0x134 ∧ (t.res r).freed = true ∧ (t.res r).halted = true ∧ (t.res r).thread = none ∧
        ∀ h ∈ s.threadsOf r, (t.thr h).status = .free)) ∧
    (let can := s.hasRes r = true ∧ x.exempt = false ∧ x.preempt = none ∧ x.state = .armed ∧ x.freed = false
     let room := ((mapFind s.ctxAreas x.asid).map (·.2)).getD 0
     s.cmdAt 4 a e →
      (¬can → refuses .preempt 3) ∧
      (can → s.saveLen r ≤ room → Completes .preempt s fun t => s.answered t a e 0 ∧
        (t.res r).preempt = some (s.cyc, 1)) ∧
      (can → room < s.saveLen r → Completes .preempt s fun t => s.answered t a e 0 ∧ (t.res r).preempt = none ∧
        due t 0x33)) ∧
    (s.cmdAt 5 a e →
      (physOk (w 2) (2 ^ 16) = false → refuses .asidroot 2) ∧
      (physOk (w 2) (2 ^ 16) = true → Completes .asidroot s fun t => s.answered t a e 0 ∧
        mapFind t.roots asid = (if w 2 = 0 then none else some (w 2)) ∧ (∀ b, b ≠ asid → mapFind t.roots b = mapFind s.roots b) ∧
        (∀ y ∈ t.tlb, y.asid ≠ asid) ∧ ∃ y, t.front.audit.getLast? = some y ∧ y.event = 0x0002 ∧ y.asid = asid ∧
          y.arg = BitVec.ofNat 448 (w 2))) ∧
    (s.cmdAt 6 a e →
      (physOk (w 2) 64 = false → refuses .ctxarea 2) ∧
      (physOk (w 2) 64 = true → Completes .ctxarea s fun t => s.answered t a e 0 ∧
        mapFind t.ctxAreas asid = some (w 2, w 3) ∧ ∀ b, b ≠ asid → mapFind t.ctxAreas b = mapFind s.ctxAreas b)) ∧
    (s.cmdAt 7 a e →
      ((w 2 = 0 ∨ 2 ^ 48 ≤ w 2) → refuses .parklim 2) ∧
      (0 < w 2 → w 2 < 2 ^ 48 → Completes .parklim s fun t => s.answered t a e 0 ∧ ∀ d, d < 4 →
        (t.die d).parkLimit = if w 1 / 2 ^ d % 2 = 1 then w 2 else (s.die d).parkLimit)) ∧
    ∀ op, s.cmdAt op a e → (op = 0 ∨ 19 < op) → refuses .hcqUnknownOp 1) ∧
  (∀ (s : State) (a : Nat) (e : Line),
    let w (k : Nat) : Nat := cmdWord e k
    let d := s.front.dbg
    let asid : BitVec 16 := BitVec.ofNat 16 (w 2)
    let sends (i : Instr) (act : Nat) : Prop := s.cmdAt 9 a e → w 1 % 4 = act → Completes i s fun t => s.answered t a e 0 ∧
      t.front.dbg = d ∧ ∃ y : Trigger, t.front.triggers = s.front.triggers ++ [y] ∧ y.action = act ∧ y.origin = s.cyc ∧
        y.filter.asid = asid ∧ y.filter.classes = BitVec.ofNat 6 (w 2 / 2 ^ 32) ∧
        y.filter.res = (if w 2 / 2 ^ 24 % 2 = 1 then some (w 2 / 2 ^ 16 % 256) else none)
    let debug (i : Instr) (act : Nat) (P : State → Prop) : Prop := s.cmdAt 11 a e → w 1 = act → Completes i s P
    let audited (t : State) (event : BitVec 16) : Prop :=
      (t.front.audit.getLast?.map fun y => (y.event, y.asid)) = some (event, asid)
    (s.cmdAt 8 a e →
      ((physOk (w 2) 4096 = false ∨ w 3 % 32 < 10 ∨ 24 < w 3 % 32) → Completes .tracering s fun t => s.answered t a e 2 ∧
        ∀ n, (t.die n).trace = (s.die n).trace) ∧
      (physOk (w 2) 4096 = true → 10 ≤ w 3 % 32 → w 3 % 32 ≤ 24 → Completes .tracering s fun t => s.answered t a e 0 ∧
        (t.die (w 1 % 4)).trace = { (s.die (w 1 % 4)).trace with
          ring := true, base := w 2, k := w 3 % 32, mode := w 3 / 256 % 2, written := 0, stopped := false })) ∧
    sends .triggerStart 0 ∧ sends .triggerStop 1 ∧ sends .triggerFreeze 2 ∧ sends .triggerResume 3 ∧
    (let die := w 1 % 4
     let k := w 1 / 4 % 16
     s.cmdAt 10 a e →
      (64 ≤ (s.queued die k).length → exec .tracepkt s = .next s) ∧
      ((s.queued die k).length < 64 → Completes .tracepkt s fun t => s.answered t a e 0 ∧
        (vget (t.die die).queues k).map (·.capture) =
          (vget (s.die die).queues k).map (·.capture) ++ [some (decide (w 2 % 2 = 0))])) ∧
    (3 < w 1 → s.cmdAt 11 a e → Completes .debugAttach s fun t => s.answered t a e 2 ∧ t.front.dbg = d) ∧
    ((asid ∈ d.attached ∨ 16 ≤ d.attached.length) → debug .debugAttach 0 fun t => s.answered t a e 3 ∧ t.front.dbg = d) ∧
    (asid ∉ d.attached → d.attached.length < 16 → debug .debugAttach 0 fun t => s.answered t a e 0 ∧
      t.front.dbg = { d with attached := d.attached ++ [asid] } ∧ audited t 0x0004) ∧
    (asid ∉ d.attached → debug .debugDetach 1 fun t => s.answered t a e 3 ∧ t.front.dbg = d) ∧
    (asid ∈ d.attached → debug .debugDetach 1 fun t => s.answered t a e 0 ∧
      t.front.dbg = { d with attached := d.attached.filter fun b => b ≠ asid } ∧ audited t 0x0005) ∧
    (let h : ThreadId := ⟨w 3 % 4, w 3 / 4 % 64, w 3 / 2 ^ 8 % 8⟩
     (48 ≤ h.page → debug .debugStep 2 fun t => s.answered t a e 2 ∧ t.front.dbg = d) ∧
     (h.page < 48 → (d.frozen = false ∨ d.step.isSome = true ∨ (s.thr h).status = .free ∨ (s.thr h).asid ≠ asid ∨ asid ∉ d.attached) →
      debug .debugStep 2 fun t => s.answered t a e 3 ∧ t.front.dbg = d) ∧
     (h.page < 48 → d.frozen = true → d.step = none → (s.thr h).status ≠ .free → (s.thr h).asid = asid → asid ∈ d.attached →
      debug .debugStep 2 fun t => s.answered t a e 0 ∧ t.front.dbg = { d with step := some (h, s.cyc, false) })) ∧
    (let r := cmdRes (w 3)
     let x := s.res r
     (s.hasRes r = false ∨ x.state ≠ .armed ∨ x.freed = true ∨ x.asid ≠ asid ∨ asid ∉ d.attached ∨ d.cut.isSome = true ∨
        d.frozen = true →
      debug .debugCut 3 fun t => s.answered t a e 3 ∧ t.front.dbg = d) ∧
     (s.hasRes r = true → x.state = .armed → x.freed = false → x.asid = asid → asid ∈ d.attached → d.cut = none →
      d.frozen = false → (x.binds.any fun b => b.2.marks) = true → debug .debugCut 3 fun t => s.answered t a e 0 ∧
        t.front.dbg = { d with cut := some (r, w 4, s.cyc) } ∧
        (x.cut = none → ∃ c, (t.res r).cut = some c ∧ c.debug = true ∧ c.limit = w 4 ∧
          c.inPending = (x.binds.filter fun b => b.2.marks).map (·.1)))))

/-- 15 R323, 20 R400, R403, 21 R412-R416, R421: AUDITMIR names the mirror ring; AUDITSIGN signs SEQ, the head and the
nonce; SUMMARY writes its record, or the length it needs; LINKCFG sets LTO and the quantum; ENROL enrols a peer and
removes one; MREXT extends MR6 alone; SFILL and SFAIL fill and fail a cell that a host grows. The places of
AUDITSIGN's parts (SEQ at 0, the head at 8, the nonce at 56, zeros from 184) are log entry 46 (DEDUCED): R400 gives
none. -/
def Obligations.HealthAndLinkCommands : Prop :=
  ∀ (s : State) (a : Nat) (e : Line),
    let w (k : Nat) : Nat := cmdWord e k
    let apart (lo n : Nat) : Prop := lo + n ≤ a ∨ a + 64 ≤ lo
    (s.cmdAt 12 a e →
      (physOk (w 1) 4096 = false → Completes .auditmir s fun t => s.answered t a e 2 ∧
        t.front.auditMirror = s.front.auditMirror) ∧
      (∀ k, k ≤ 16 → physOk (w 1) 4096 = true → w 2 = 2 ^ (k + 4) → Completes .auditmir s fun t => s.answered t a e 0 ∧
        t.front.auditMirror = (w 1, w 2))) ∧
    (s.cmdAt 13 a e → (2 ^ 55 ≤ w 1 ∨ 2 ^ 55 ≤ w 2) → Completes .auditsign s fun t => s.answered t a e 2 ∧
      t.front.audit = s.front.audit) ∧
    (let y := s.auditNext 0x0008 0 0 0
     s.cmdAt 13 a e → w 1 < 2 ^ 55 → w 2 < 2 ^ 55 → apart (w 2) 256 → Completes .auditsign s fun t => s.answered t a e 0 ∧
      t.front.audit.getLast? = some y ∧ t.mem.readBytes (w 2) 8 = leBytes 8 y.seq ∧
      t.mem.readBytes (w 2 + 8) 48 = leBytes 48 (sha384 y.bytes).toNat ∧
      t.mem.readBytes (w 2 + 56) 32 = s.mem.readBytes (w 1) 32 ∧ t.mem.readBytes (w 2 + 184) 72 = List.replicate 72 0) ∧
    (s.cmdAt 14 a e → physOk (w 1) 64 = false → Completes .summary s fun t => s.answered t a e 2) ∧
    (s.cmdAt 14 a e → physOk (w 1) 64 = true →
      (w 2 < s.summary.length → Completes .summary s fun t => s.answered t a e 2 ∧
        t.mem.readBytes (a + 48) 8 = leBytes 8 s.summary.length) ∧
      (s.summary.length ≤ w 2 → apart (w 1) s.summary.length → Completes .summary s fun t => s.answered t a e 0 ∧
        t.mem.readBytes (w 1) s.summary.length = s.summary)) ∧
    (s.cmdAt 15 a e →
      ((w 1 < 100 ∨ 1000000 < w 1 ∨ w 2 < 100 ∨ 100000 < w 2) → Completes .linkcfg s fun t => s.answered t a e 2 ∧
        t.front.lto = s.front.lto ∧ t.front.quantum = s.front.quantum) ∧
      (100 ≤ w 1 → w 1 ≤ 1000000 → 100 ≤ w 2 → w 2 ≤ 100000 → Completes .linkcfg s fun t => s.answered t a e 0 ∧
        t.front.lto = w 1 ∧ t.front.quantum = w 2)) ∧
    (let p := w 1 % 64
     let z := vget s.front.peers p
     s.cmdAt 16 a e →
      (w 1 / 256 % 2 = 1 → Completes .enrol s fun t => s.answered t a e 0 ∧ (vget t.front.peers p).enrolled = true ∧
        (s.portTo p = false → (vget t.front.peers p).up = z.up) ∧
        ∀ n, n ≠ p → vget t.front.peers n = vget s.front.peers n) ∧
      (w 1 / 256 % 2 = 0 → Completes .enrolRemove s fun t => s.answered t a e 0 ∧
        vget t.front.peers p = { up := false, enrolled := false, incarnation := if z.up then z.incarnation + 1 else z.incarnation } ∧
        ∀ n, n ≠ p → vget t.front.peers n = vget s.front.peers n)) ∧
    (s.cmdAt 17 a e → 2 ^ 55 ≤ w 1 → Completes .mrext s fun t => s.answered t a e 2 ∧ t.front.mr = s.front.mr) ∧
    (s.cmdAt 17 a e → w 1 < 2 ^ 55 → Completes .mrext s fun t => s.answered t a e 0 ∧
      vget t.front.mr 6 = sha384 (leBytes 48 (vget s.front.mr 6).toNat ++ s.mem.readBytes (w 1) 48) ∧
      ∀ n, n ≠ 6 → vget t.front.mr n = vget s.front.mr n) ∧
    (let line := w 1 / 64
     let v := s.line (w 2 / 64)
     let cell (op : Nat) (i : Instr) (P : State → Prop) : Prop := s.cmdAt op a e →
      ((physOk (w 1) 64 = false ∨ physOk (w 2) 64 = false) → Completes i s fun t => s.answered t a e 2 ∧ t.tags = s.tags) ∧
      (physOk (w 1) 64 = true → physOk (w 2) 64 = true → line ≠ a / 64 →
      ((s.tag line ≠ 2 ∨ fldN (s.line line) 30 2 ≠ 3) → Completes i s fun t => s.answered t a e 3 ∧ t.tag line = s.tag line ∧
        t.line line = s.line line) ∧
      (s.tag line = 2 → fldN (s.line line) 30 2 = 3 → Completes i s fun t => s.answered t a e 0 ∧ P t))
     cell 18 .sfill (fun t => t.tag line = 0 ∧ ((∀ y ∈ s.waitersAt (s.slot line), y.cell ≠ line) → t.line line = v)) ∧
     cell 19 .sfail (fun t => t.tag line = 3 ∧ t.line line = putFld v 48 16 (fldN (s.line line) 48 16)))

/-- 12 R270, 19 R385, 21 R407, R410-R413: a peer that falls is DOWN and enrolled no more, its incarnation rises,
vector 11 says so, its ports are down, its lines leave the caches and what was asked of it ends, but for the notice to
the requester that it is lost; a port that hears nothing for LTO, or at which a message waits LTO for an allowance,
goes down; a request of an UP peer performs at its home and is answered, a read with the bytes there, an AMO with
those before it; a response answers the oldest of what was asked that it fits; a frozen device takes no new request
and gives no allowance; a port that comes up makes the enrolled peer it reaches UP once that peer's host has enrolled
this device, which a free value stands for; an IDE stream whose check fails loses its keys. That free value, that a
response names nothing of what it answers, and that the answer to a read says nothing of poison are log entry 9
(DESIGN CHOICE; of what the host's own reads answer log entry 51 says the same). -/
def Obligations.LinksAndPeers : Prop :=
  ∀ (s : State) (port p : Nat),
    let z := s.zport port
    let peer (x : State) (n : Nat) : Peer := vget x.front.peers n
    let raised (n : Nat) : List (Nat × Nat) := s.front.irqs ++ (s.front.msixLink.map fun k => (k, n)).toList
    (s.peerUp p = true → p < 64 → (∀ x ∈ s.allRes, x.2.gang = .none) → Completes (.peerDown p) s fun t =>
      peer t p = { peer s p with up := false, enrolled := false, incarnation := (peer s p).incarnation + 1 } ∧
      (∀ x ∈ t.sent, x.peer = p → x.asks = true ∧ (x.lost = true ∨ x.answered = true ∧ x.kind ≠ .read ∧ x.kind ≠ .amo)) ∧
      (∀ n, (t.zport n).peer = p → (t.zport n).up = false) ∧ (∀ n, (s.zport n).peer ≠ p → t.zport n = s.zport n) ∧
      (∀ n, n ≠ p → peer t n = peer s n) ∧ t.front.irqs = raised 11 ∧ s.sameMem t ∧
      ∀ c ∈ t.rdc, ∀ n l, c.peer = some (n, l) → n ≠ p) ∧
    (let silent := z.heardAt + s.ltoCycles ≤ s.cyc
     let stuck := ∃ m ∈ z.outq, (msgChan m.2).isSome = true ∧ m.1 + s.ltoCycles ≤ s.cyc
     z.up = true → ((silent ∨ stuck) → Completes (.linkTimeout port) s fun t => (t.zport port).up = false) ∧
      (¬silent → ¬stuck → exec (.linkTimeout port) s = .next s)) ∧
    (z.up = true → Completes (.idleFlit port) s fun t => s.onlyFront t ∧ (t.zport port).sentAt = s.cyc ∧
      (z.outq = [] → (t.zport port).waitingSince = none) ∧ ∀ n, n ≠ port → t.zport n = s.zport n) ∧
    (port < 12 → Completes (.flitRetry port) s fun t => s.onlyFront t ∧ t.zport port = { z with resent := z.resent + 1 } ∧
      ∀ n, n ≠ port → t.zport n = s.zport n) ∧
    (∀ link stream : Nat, ∀ key : BitVec 256,
      (Completes (.ideIntegrityFail link stream) s fun t => s.onlyFront t ∧ mapFind t.front.ide (link, stream) = none ∧
        ∀ k, k ≠ (link, stream) → mapFind t.front.ide k = mapFind s.front.ide k) ∧
      (link < 2 → stream < 5 → s.spdmAt link = .session → Completes (.ideKm link stream key) s fun t => s.onlyFront t ∧
        mapFind t.front.ide (link, stream) = some key) ∧
      (s.spdmAt link ≠ .session → exec (.ideKm link stream key) s = .next s)) ∧
    (∀ (pa len : Nat) (data : BitVec 512), z.up = true → z.peer = p → s.peerUp p = true →
      let send (m : LinkMsg) (P : State → Prop) : Prop := Completes (.zilostLinkMessage port m) s P
      let told (t : State) (bs : List Byte) : Prop := t.zport port =
        { z with heardAt := s.cyc, outq := z.outq ++ [(s.cyc, .rsp p bs.length (lineOf bs)), (s.cyc, .allowance .req 1)] }
      (s.front.dbg.frozen = false → 0 < len → pa % 64 + len ≤ 64 → pa + len ≤ 2 ^ 55 → s.offPool (pa + len - 1) = false →
        s.portGone pa = false → s.recalling (pa / 64) = false → (s.l2Bring (pa / 64)).isSome = true →
        send (.read p pa len) (fun t => t.mem = s.mem ∧ (∃ x, t.l2Find (pa / 64) = some x ∧ x.peerBit = true) ∧
          told t (s.mem.readBytes pa len)) ∧
        ((∀ x, s.l2Find (pa / 64) = some x → x.peerBit = false) →
          (send (.write p pa len data) fun t => t.mem = s.mem.writeBytes pa ((lineBytes data).take len) ∧ t.tag (pa / 64) = 0 ∧
            told t []) ∧
          (∀ status, len = 16 → s.poisoned (pa / 64) = false → send (.pair p pa status) fun t =>
            t.mem = s.mem.writeBytes pa (pairBytes (leNat (s.mem.readBytes pa 8)) status) ∧ told t []) ∧
          ∀ op w n signed b c, len = w * n →
            let ws := amoWrites (.amo op w n (pa % 64) signed b c) (s.line (pa / 64))
            send (.amo p pa op w n signed b c) fun t => told t (s.mem.readBytes pa len) ∧
              t.mem = if s.poisoned (pa / 64) = true then s.mem
                else ws.foldl (fun m x => m.writeBytes (pa / 64 * 64 + x.1) x.2) s.mem)) ∧
      (s.front.dbg.frozen = true → ∀ m, msgChan m = some .req → send m fun t => s.onlyFront t ∧
        t.zport port = { z with heardAt := s.cyc }) ∧
      (∀ x rest, s.sent = x :: rest → x.peer = p → x.answered = false →
        ((len = 0 ∧ (x.kind = .write ∨ x.kind = .inv)) ∨ (len ≠ 0 ∧ (x.kind = .read ∨ x.kind = .amo))) →
        send (.rsp p len data) fun t => s.sameMem t ∧ t.sent =
          if x.asks then { x with answered := true, data := lineWith 0 x.off ((lineBytes data).take len) } :: rest else rest) ∧
      (∀ line, send (.inv p line) fun t => s.sameMem t ∧ ∀ c ∈ t.rdc, c.line = line → ∀ n l, c.peer = some (n, l) → n ≠ p) ∧
      (∀ c n, z.outq = [] → send (.allowance c n) fun t => s.onlyFront t ∧ t.zport port =
        { z with heardAt := s.cyc, sentAt := s.cyc, waitingSince := none, allow := vmod z.allow (chanNum c) (· + n) })) ∧
    ∀ lanes, port < 12 → p < 64 → s.booted = true → 2 ≤ z.lanes → 2 ≤ lanes →
      Completes (.zilostPortUp port p lanes) s fun t => (t.zport port).up = true ∧ (t.zport port).peer = p ∧
        (t.zport port).lanes = min (lanesUsed lanes) z.lanes ∧ (t.zport port).outq = [] ∧ s.sameMem t ∧
        ((peer s p).enrolled = false → (peer t p).up = (peer s p).up) ∧
        ((peer s p).enrolled = true → p ≠ Config.ownIndex →
          (peer t p).up = ((peer s p).up || Config.choice s.tick))

/-- 20 R399-R401, 21 R408, R409, R415-R419: boot excludes what it finds bad, counts the pool, extends MR0 to MR5 by
the firmware's digests and audits MR7; firmware that fails, or is older than the fused minimum, leaves the device in
recovery. Requests of an SPDM session are answered in their order and refused out of it. The power controller reports,
changes its level, and powers the module down as a device reset. That a request out of the order listed is refused and
changes nothing is log entry 8 (DESIGN CHOICE: R417 gives no order), that a power-down leaves the state before BOOT
log entry 50 (DEDUCED), and that it keeps the audit log and what is to be excluded log entry 60 (DEDUCED). -/
def Obligations.BootAttestationPower : Prop :=
  ∀ (s : State) (b : BootReport) (link : Nat),
    let reply (x : State) : Option (Nat × List Byte) := (vget x.front.spdm link).reply
    let answers (i : Instr) (stage : SpdmStage) (kind : Nat) (P : List Byte → Prop) : Prop :=
      Completes i s fun t => s.onlyFront t ∧ t.spdmAt link = stage ∧ ∃ bs, reply t = some (kind, bs) ∧ P bs
    let refuses (i : Instr) : Prop := answers i (s.spdmAt link) 255 fun bs => bs = []
    let ready := s.spdmReady link = true
    let anything (_ : List Byte) : Prop := True
    ((b.verified = false ∨ ∃ v ∈ b.versions, v.1 < v.2) → Completes (.boot b) s fun t => t.recovery = true ∧ t.booted = false ∧
      t.front.bootCount = s.front.bootCount + 1) ∧
    (b.verified = true → (∀ v ∈ b.versions, v.2 ≤ v.1) → Completes (.boot b) s fun t => t.booted = true ∧ t.recovery = false ∧
      t.front.bootCount = s.front.bootCount + 1 ∧ t.front.poolFree = b.poolUnits ∧ t.threads = [] ∧ t.fes = [] ∧
      (∀ d k, d < 4 → k < 48 → ((d, k) ∈ b.badPages ∨ k ∈ (s.die d).excludeNext) →
        (vget (t.die d).pages k).state = .excluded) ∧
      (∀ d k, d < 4 → k < 48 → d ∉ b.badDies → (d, k) ∉ b.badPages → k ∉ (s.die d).excludeNext →
        (vget (t.die d).pages k).state = .free ∧ (t.die d).live = true) ∧
      (∀ k, k < 24 → (k ∈ b.badPorts ∨ k ∈ s.front.excludePorts) → vget t.front.cxl k = false) ∧
      (let live := (List.range 24).filter fun k => !b.badPorts.contains k && !s.front.excludePorts.contains k
       ∀ c, live ≠ [] → (∀ k ∈ live, b.capacity[k]? = some c) → c ≤ 512000000000 → c % 4096 = 0 →
        t.front.poolEnd = live.length * c) ∧
      (∀ d, d < 4 → (t.die d).rdcBanks = (List.range 16).filter fun k => !b.badBanks.contains (d, k)) ∧
      (∀ k g, k < 6 → b.digests[k]? = some g →
        vget t.front.mr k = sha384 (List.replicate 48 0 ++ leBytes 48 g.toNat)) ∧
      ∃ y, t.front.audit.getLast? = some y ∧ y.event = 0x0001 ∧ y.arg = BitVec.ofNat 448 (vget t.front.mr 7).toNat) ∧
    (∀ event asid detail arg,
      (s.booted = true → 0x100 ≤ event.toNat → event.toNat ≤ 0x7FFF → Completes (.auditAppend event asid detail arg) s fun t =>
        t.front.audit.getLast? = some (s.auditNext event asid detail arg)) ∧
      ((s.booted = false ∨ event.toNat < 0x100 ∨ 0x7FFF < event.toNat) → exec (.auditAppend event asid detail arg) s = .next s)) ∧
    (link < 2 →
      answers (.getVersion link) .version 0 anything ∧
      (s.spdmAt link = .version → answers (.getCapabilities link) .capabilities 1 anything) ∧
      (s.spdmAt link ≠ .version → refuses (.getCapabilities link)) ∧
      (∀ o : SpdmOffer,
        (s.spdmAt link = .capabilities → o.p384 = true → o.sha384 = true → o.aes256 = true →
          answers (.negotiateAlgorithms link o) .negotiated 2 anything) ∧
        ((s.spdmAt link ≠ .capabilities ∨ o.p384 = false ∨ o.sha384 = false ∨ o.aes256 = false) →
          refuses (.negotiateAlgorithms link o))) ∧
      (ready → answers (.getDigests link) (s.spdmAt link) 3 anything) ∧
      (ready → answers (.getCertificate link 0) (s.spdmAt link) 4 anything) ∧
      (∀ slot, slot ≠ 0 → refuses (.getCertificate link slot)) ∧
      (∀ nonce, ready → answers (.challenge link 0 nonce) (s.spdmAt link) 5 fun bs => bs.length = 96) ∧
      (∀ k, ready → 1 ≤ k → k ≤ 8 → answers (.getMeasurements link k) (s.spdmAt link) 6 fun bs =>
        bs = leBytes 48 (vget s.front.mr (k - 1)).toNat) ∧
      (∀ k, (k = 0 ∨ 8 < k) → refuses (.getMeasurements link k)) ∧
      (∀ x, ready → answers (.keyExchange link 0 x) .exchanged 7 fun bs => bs.length = 96) ∧
      (∀ mac, s.spdmAt link = .exchanged → Completes (.finish link mac) s fun t => s.onlyFront t ∧
        t.spdmAt link = (if s.macGood mac then SpdmStage.session else .exchanged) ∧
        ∃ bs, reply t = some (if s.macGood mac then 8 else 255, bs) ∧ (s.macGood mac = false → bs = [])) ∧
      (∀ mac, s.spdmAt link ≠ .exchanged → refuses (.finish link mac)) ∧
      (s.spdmReady link = false → refuses (.getDigests link) ∧ refuses (.getCertificate link 0))) ∧
    (∀ pwr tout : BitVec 16,
      (s.front.lastPwrstat + 1000 * Config.cyclesPerMicrosecond ≤ s.cyc → Completes (.pwrstatUpdate pwr tout) s fun t =>
        s.onlyFront t ∧ t.front = { s.front with
          pwr, tout := tout.setWidth 8, shownHeld := s.leaveHeld, shownLevel := s.front.level, lastPwrstat := s.cyc }) ∧
      (s.cyc < s.front.lastPwrstat + 1000 * Config.cyclesPerMicrosecond → exec (.pwrstatUpdate pwr tout) s = .next s)) ∧
    (∀ level, level ≤ 2 → level ≠ s.front.level → Completes (.powerLevelChange level) s fun t => s.onlyFront t ∧
      t.front.level = level ∧ t.front.levelSince = s.cyc ∧ t.front.irqs = s.front.irqs ++ (s.front.msixLink.map fun k => (k, 12)).toList ∧
      (level = 0 → t.front.rateCut = 0) ∧ (level = 2 → t.front.rateCut = 2880)) ∧
    ((s.front.level = 2 ∧ s.front.levelSince + 1000000 * Config.cyclesPerMicrosecond ≤ s.cyc ∨
        Config.tripTemperature ≤ s.front.tout.toNat) → Completes .thermalPowerdown s fun t =>
      t.booted = false ∧ (∀ d, d < 4 → t.die d = { (State.reset.die d) with excludeNext := (s.die d).excludeNext }) ∧ t.threads = [] ∧ t.fes = [] ∧ t.front.audit = s.front.audit)

/-! ### The machine as a whole -/

/-- 09 Table 9-2, 08 Table 8-1, 15 R326, 18 Table 18-4, 19 Table 19-1, 20 R402, 21 R412, R416, Tables 21-4 and 21-5:
what reset leaves, where the manual gives a value. That memory lists nothing is log entry 4 (DESIGN CHOICE), and that
there are no spore cells, table roots, translations and residencies log entry 2 (DESIGN CHOICE): the manual gives no
value for them. -/
def Obligations.ResetState : Prop :=
  let s := State.reset
  s.Inv ∧ s.cyc = 0 ∧ s.booted = false ∧ s.mem = [] ∧ s.tags = [] ∧ s.roots = [] ∧ s.tlb = [] ∧
  (∀ h, (s.thr h).status = .free ∧ (s.thr h).tvec = 0 ∧ (s.thr h).tpc = 0 ∧ (s.thr h).intrap = false ∧
    ∀ k, k < 8 → vget (s.thr h).trec k = 0) ∧
  (∀ d, d < 4 → (s.die d).res = [] ∧ (s.die d).parkLimit = 2 ^ 24 ∧ (∀ k, k < 32 → vget (s.die d).counters k = 0) ∧
    (∀ p, p < 48 → vget (s.die d).pages p = { state := .free, rsv := false, biv := false, res := 0 }) ∧
    (s.die d).frq.base = 0 ∧ (s.die d).frq.prod = 0 ∧ (s.die d).frq.cons = 0 ∧ (s.die d).frq.ovf = false ∧
    (s.die d).frq.lost = 0 ∧ (s.die d).frq.first = 0) ∧
  s.front.hcqBase = 0 ∧ s.front.hcqSize = 0 ∧ s.front.hcqProd = 0 ∧ s.front.hcqCons = 0 ∧ s.dbgstat = 0 ∧
  (∀ k, k < 16 → vget s.front.dbg.bps k = 0) ∧ (∀ k, k < 8 → vget s.front.mr k = 0) ∧ s.front.level = 0 ∧
  s.front.pwr = 0 ∧ s.front.lto = 10000

/-- 04 R79-R102: decoding the encoding of a well-formed instruction gives it back, with every operand at every value
that the encoding admits; and a word or a record that is decoded is the encoding of a well-formed instruction, so no
bit of it is dropped. -/
def Obligations.DecodeEncodeAgree : Prop :=
  (∀ (i : Instr) (w : BitVec 32), i.wf = true → encodeWord i = some w →
    decodeControl w = .ok i ∨ decodeElement w = .ok i) ∧
  (∀ (i : Instr) (w : BitVec 64), i.wf = true → encodeRecord i = some w → decodeMtu w = .ok i) ∧
  (∀ (i : Instr) (w : BitVec 32), decodeControl w = .ok i ∨ decodeElement w = .ok i →
    i.wf = true ∧ encodeWord i = some w) ∧
  ∀ (i : Instr) (w : BitVec 64), decodeMtu w = .ok i → i.wf = true ∧ encodeRecord i = some w

/-- The words that 06, 07, 08, 09, 10, 13, 14 and 16 give as examples of their instructions decode to those
instructions, and the all-zero word, a word with a reserved bit set and an unassigned opcode decode to nothing (03
R69, 04 R91). -/
def Obligations.ExampleWordsDecode : Prop :=
  decodeControl 0x04611000 = .ok (.add 3 1 2) ∧ decodeControl 0x0861FFFB = .ok (.addi 3 1 0xFFFB) ∧
  decodeControl 0x1D22BEEF = .ok (.insi 9 2 0xBEEF) ∧ decodeControl 0x5C1F0000 = .ok (.jr 0 31) ∧
  decodeControl 0x30A4A008 = .ok (.ld 5 4 5 8) ∧ decodeControl 0x68000002 = .ok (.tokw 0 2) ∧
  decodeControl 0x90042980 = .ok (.copy 4 5 6 0 0) ∧ decodeControl 0xA8060000 = .ok (.launch 6 0 0) ∧
  decodeControl 0xC0A00004 = .ok (.mfs 5 4) ∧ decodeControl 0xC8000021 = .ok (.trap 0x21) ∧
  decodeElement 0x20440141 = .ok (.addE 2 0 1 0 0x141) ∧ decodeElement 0x04D40000 = .ok (.pout 3 5) ∧
  decodeElement 0x67400141 = .ok (.fma 10 0 0 0 0x141) ∧ decodeElement 0xB4940000 = .ok (.tfill 2 5) ∧
  decodeElement 0xC8000142 = .ok (.topkIns 0 0 0x142) ∧
  (decodeControl 0).toOption = none ∧ (decodeControl 0x5C1F0001).toOption = none ∧
  (decodeControl 0xFC000000).toOption = none ∧ (decodeElement 0).toOption = none

/-- 01 R20, 09 R177, R178, R182, 10 R202, 11 R231, 14 R303: a step of a ready thread, which its core issues from,
fetches the word at its pc and runs the instruction that the word decodes to, or traps ILLEGAL when it decodes to
none; a fetch that faults traps; one that waits waits; a stalled thread runs its instruction again, in its core's turn
where its pop or its room had kept it from issuing; a step of a firing runs its slot, one of an FE with a SEAM its
SEAM, a step of an MTU its entry, a step of an event the event. Time has passed, and what the fetch notes is noted. -/
def Obligations.StepRunsDecoded : Prop :=
  ∀ (s : State) (rest : List Turn),
    let c := { s.begin with agenda := rest }
    let free (h : ThreadId) : Prop := s.agenda = .thread h :: rest ∧ (c.thr h).paused = none ∧ (c.thr h).held = [] ∧
      (c.thr h).pushOwed = none ∧ (c.thr h).ending = none ∧ c.stoppedThread h = false ∧ c.front.dbg.step = none
    c.dueEvent = none →
    (∀ h : ThreadId, let x := c.thr h
      let m := { c with curThread := h }
      let d := c.front.dbg
      let b := { m with front := { c.front with dbg := { d with passed := d.passed.filter fun p => decide (p ≠ (h, x.pc)) } } }
      free h → x.status = .ready → c.unobserved →
      (m.coreNext h.die h.page = some h →
        (∀ (w : BitVec 32) (n : State), b.fetch h x.pc.toNat = (.ok (some w), n) →
          let y := n.modThr h fun z => { z with word := w, fetched := mapSet z.fetched x.pc.toNat w }
          (∀ i, decodeControl w = .ok i → step s = exec i (if x.canIssue i then y.noteIssue h else y)) ∧
          ∀ e, decodeControl w = .error e → step s = exec (.illegal w) (y.noteIssue h)) ∧
        ∀ (k : Code) (n : State), b.fetch h x.pc.toNat = (.error k, n) →
          step s = exec (.fetchFault k x.pc) (n.modThr h fun z => { z with word := 0 })) ∧
      (∀ n : State, m.fetchMem h x.pc.toNat = (.ok none, n) → step s = .next n) ∧
      (m.coreNext h.die h.page ≠ some h → m.fetchWaits h = false → step s = .next m)) ∧
    (∀ (h : ThreadId) (i : Instr), let x := c.thr h
      let m := { c with curThread := h }
      free h → x.status = .stalled → decodeControl x.word = .ok i →
      (x.unissued i = false → step s = exec i m) ∧
      (x.unissued i = true → m.coreNext h.die h.page = some h → step s = exec i (m.noteIssue h)) ∧
      (x.unissued i = true → m.coreNext h.die h.page ≠ some h → step s = .next m)) ∧
    (∀ (f : FeId) (b : Block) (i : Instr), let p := c.plane f (c.fe f).active
      s.agenda = .element f :: rest → (c.fe f).firing = none → vget p.blocks p.sel = some b → p.isSeam = true →
      decodeElement (b.words.headD 0) = .ok i → step s = exec i { c with curFe := f }) ∧
    (∀ (f : FeId) (g : Firing) (w : BitVec 32) (i : Instr), s.agenda = .element f :: rest → (c.fe f).firing = some g →
      (c.fe f).slotWord g = some w → decodeElement w = .ok i → step s = exec i { c with curFe := f }) ∧
    (∀ (f : FeId) (e : Nat) (i : Instr), s.agenda = .mtu f e :: rest →
      decodeMtu (vget (c.plane f (c.fe f).active).recs e) = .ok i → step s = exec i { c with curFe := f, curMtu := e }) ∧
    ∀ i : Instr, s.agenda = .event i :: rest → Instr.isEvent i = true → step s = exec i c

/-- No instruction of the table is refused, and none stops the machine: every one answers a next state, in every
state. -/
def Obligations.EveryInstructionAnswers : Prop := ∀ (i : Instr) (s : State), Completes i s fun _ => True

/-- Every step keeps pool memory and local memory in canonical form, whatever it runs: a list of bytes strictly rising
by address, none of which is what an unlisted byte reads as. The form is the model's own (DESIGN CHOICE, log entry 4).
-/
def Obligations.StepKeepsMemoryCanonical : Prop :=  ∀ s t : State, s.Inv → step s = .next t → t.Inv

/-- 12 R263, 18 R370, 21 R421: only ASIDROOT changes a table root and only CTXAREA a context area, but for a device
reset, which BOOT and the power-down are. -/
def Obligations.OnlyCommandsSetTables : Prop :=
  ∀ (i : Instr) (s t : State), exec i s = .next t → (∀ b, i ≠ .boot b) → i ≠ .thermalPowerdown →
    (i ≠ .asidroot → t.roots = s.roots) ∧ (i ≠ .ctxarea → t.ctxAreas = s.ctxAreas)
end

