-- ==== Sys2Proof/Laws/Maps.lean ====
section
/-! SUPPORT. Finite maps, vectors and byte memory: a read after a write, what a write leaves alone, and that every memory
operation keeps the canonical form. -/

namespace Sys2Proof.Machine

/-! ### Finite maps -/

section
variable {κ ν : Type} [DecidableEq κ]

theorem mapFind_mapSet (m : FMap κ ν) (k k' : κ) (v : ν) :
    mapFind (mapSet m k v) k' = if k = k' then some v else mapFind m k' := by
  induction m with
  | nil => simp [mapSet, mapFind]
  | cons p m ih =>
    obtain ⟨a, b⟩ := p
    by_cases h : a = k
    · by_cases h' : k = k' <;> simp_all [mapSet, mapFind]
    · by_cases h' : a = k'
      · subst h'
        simp [mapSet, mapFind, h, Ne.symm h]
      · simp [mapSet, mapFind, h, h', ih]

@[simp] theorem mapGet_mapSet_same (d : ν) (m : FMap κ ν) (k : κ) (v : ν) : mapGet d (mapSet m k v) k = v := by
  simp [mapGet, mapFind_mapSet]

theorem mapGet_mapSet_other (d : ν) (m : FMap κ ν) {k k' : κ} (v : ν) (h : k ≠ k') :
    mapGet d (mapSet m k v) k' = mapGet d m k' := by
  simp [mapGet, mapFind_mapSet, h]

@[simp] theorem mapFind_mapErase_same (m : FMap κ ν) (k : κ) : mapFind (mapErase m k) k = none := by
  induction m with
  | nil => rfl
  | cons p m ih =>
    obtain ⟨a, b⟩ := p
    by_cases h : a = k
    · simpa [mapErase, h] using ih
    · simpa [mapErase, h, mapFind] using ih

theorem mapFind_mapErase_other (m : FMap κ ν) {k k' : κ} (h : k ≠ k') :
    mapFind (mapErase m k) k' = mapFind m k' := by
  induction m with
  | nil => rfl
  | cons p m ih =>
    obtain ⟨a, b⟩ := p
    by_cases ha : a = k
    · have : ¬a = k' := fun e => h (ha.symm.trans e)
      simpa [mapErase, ha, mapFind, this, h] using ih
    · by_cases hb : a = k'
      · simp [mapErase, mapFind, hb, Ne.symm h]
      · simpa [mapErase, ha, mapFind, hb] using ih

end

/-! ### Vectors -/

section
variable {α : Type} {n : Nat}

@[simp] theorem vget_vset_same [Inhabited α] (v : Vector α n) {i : Nat} (x : α) (h : i < n) :
    vget (vset v i x) i = x := by
  simp [vget, vset, List.getD_eq_getElem?_getD, h]

theorem vget_vset_other [Inhabited α] (v : Vector α n) {i j : Nat} (x : α) (h : i ≠ j) :
    vget (vset v i x) j = vget v j := by
  simp [vget, vset, List.getD_eq_getElem?_getD, h]

@[simp] theorem vget_vmod_same [Inhabited α] (v : Vector α n) {i : Nat} (f : α → α) (h : i < n) :
    vget (vmod v i f) i = f (vget v i) := vget_vset_same v _ h

theorem vget_vmod_other [Inhabited α] (v : Vector α n) {i j : Nat} (f : α → α) (h : i ≠ j) :
    vget (vmod v i f) j = vget v j := vget_vset_other v _ h

end

/-! ### Byte memory -/

/-- Memory whose first address is above `lo`. -/
theorem Memory.wfFrom_weaken {m : Memory} {lo lo' : Option Nat}
    (h : Memory.wfFrom lo m = true) (hl : ∀ l', lo' = some l' → ∃ l, lo = some l ∧ l' ≤ l) :
    Memory.wfFrom lo' m = true := by
  cases m with
  | nil => rfl
  | cons c m =>
    simp only [Memory.wfFrom, Bool.and_eq_true] at h ⊢
    refine ⟨⟨?_, h.1.2⟩, h.2⟩
    cases lo' with
    | none => rfl
    | some l' =>
      obtain ⟨l, rfl, hle⟩ := hl l' rfl
      have := h.1.1
      simp only [decide_eq_true_eq] at this ⊢
      omega

theorem Memory.read_below {m : Memory} {k a : Nat} (h : Memory.wfFrom (some k) m = true) (ha : a ≤ k) :
    Memory.read m a = unlistedByte := by
  induction m generalizing k with
  | nil => rfl
  | cons c m ih =>
    obtain ⟨x, v⟩ := c
    simp only [Memory.wfFrom, Bool.and_eq_true, decide_eq_true_eq] at h
    have hx : ¬x = a := by omega
    simp only [Memory.read, hx, if_false]
    exact ih h.2 (by omega)

theorem Memory.read_write_from (m : Memory) (lo : Option Nat) (a : Nat) (b : Byte) (h : Memory.wfFrom lo m = true) :
    (m.write a b).read a = b := by
  induction m generalizing lo with
  | nil => by_cases hb : b = unlistedByte <;> simp [Memory.write, Memory.read, hb]
  | cons c m ih =>
    obtain ⟨k, v⟩ := c
    simp only [Memory.wfFrom, Bool.and_eq_true, decide_eq_true_eq] at h
    by_cases h1 : k < a
    · have : ¬k = a := by omega
      simpa [Memory.write, Memory.read, h1, this] using ih _ h.2
    · by_cases h2 : k = a
      · subst h2
        by_cases hb : b = unlistedByte
        · simpa [Memory.write, hb] using Memory.read_below h.2 (Nat.le_refl k)
        · simp [Memory.write, Memory.read, hb]
      · by_cases hb : b = unlistedByte
        · simpa [Memory.write, h1, h2, hb, Memory.read] using Memory.read_below h.2 (by omega)
        · simp [Memory.write, h1, h2, hb, Memory.read]

/-- A read after a write to the same address gives the value written. -/
theorem Memory.read_write_same (m : Memory) (a : Nat) (b : Byte) (h : m.wf = true) : (m.write a b).read a = b :=
  Memory.read_write_from m none a b h

/-- A write leaves every other address as it was, whatever the memory. -/
theorem Memory.read_write_other (m : Memory) {a a' : Nat} (b : Byte) (h : a ≠ a') :
    (m.write a b).read a' = m.read a' := by
  induction m with
  | nil => by_cases hb : b = unlistedByte <;> simp [Memory.write, Memory.read, hb, h]
  | cons c m ih =>
    obtain ⟨k, v⟩ := c
    by_cases h1 : k < a
    · simp [Memory.write, Memory.read, h1, ih]
    · by_cases h2 : k = a
      · subst h2
        by_cases hb : b = unlistedByte <;> simp [Memory.write, Memory.read, hb, h]
      · by_cases hb : b = unlistedByte <;> simp [Memory.write, Memory.read, h1, h2, hb, h]

theorem Memory.bound_iff (lo : Option Nat) (a : Nat) :
    (match lo with | none => true | some l => decide (l < a)) = true ↔ ∀ l, lo = some l → l < a := by
  cases lo with
  | none => simp
  | some l => simp

theorem Memory.wfFrom_write (m : Memory) (lo : Option Nat) (a : Nat) (b : Byte) (h : Memory.wfFrom lo m = true)
    (hl : ∀ l, lo = some l → l < a) : Memory.wfFrom lo (m.write a b) = true := by
  induction m generalizing lo with
  | nil =>
    by_cases hb : b = unlistedByte
    · simp [Memory.write, hb, Memory.wfFrom]
    · cases lo <;> simp_all [Memory.write, Memory.wfFrom]
  | cons c m ih =>
    obtain ⟨k, v⟩ := c
    have h0 := h
    have low := (Memory.bound_iff lo a).2 hl
    simp only [Memory.wfFrom, Bool.and_eq_true, decide_eq_true_eq] at h
    by_cases h1 : k < a
    · simp only [Memory.write, h1, if_true, Memory.wfFrom, Bool.and_eq_true, decide_eq_true_eq]
      exact ⟨h.1, ih _ h.2 (by rintro l ⟨⟩; exact h1)⟩
    · by_cases h2 : k = a
      · subst h2
        by_cases hb : b = unlistedByte
        · simp only [Memory.write, h1, if_false, if_true, hb]
          exact Memory.wfFrom_weaken h.2 (fun l e => ⟨k, rfl, Nat.le_of_lt (hl l e)⟩)
        · simp only [Memory.write, h1, if_false, if_true, hb, Memory.wfFrom, Bool.and_eq_true]
          exact ⟨⟨low, by simpa using hb⟩, h.2⟩
      · by_cases hb : b = unlistedByte
        · simpa [Memory.write, h1, h2, hb] using h0
        · simp only [Memory.write, h1, h2, if_false, hb, Memory.wfFrom, Bool.and_eq_true, decide_eq_true_eq]
          exact ⟨⟨low, hb⟩, ⟨by omega, h.1.2⟩, h.2⟩

/-- A write keeps the canonical form. -/
theorem Memory.wf_write (m : Memory) (a : Nat) (b : Byte) (h : m.wf = true) : (m.write a b).wf = true :=
  Memory.wfFrom_write m none a b h (by rintro l ⟨⟩)

/-- Writing a list of bytes keeps the canonical form. -/
theorem Memory.wf_writeBytes (m : Memory) (a : Nat) (bs : List Byte) (h : m.wf = true) :
    (m.writeBytes a bs).wf = true := by
  induction bs generalizing m a with
  | nil => exact h
  | cons b bs ih => exact ih _ _ (Memory.wf_write m a b h)

theorem Memory.wfFrom_filter (m : Memory) (lo : Option Nat) (p : Host.Cell → Bool) (h : Memory.wfFrom lo m = true) :
    Memory.wfFrom lo (m.filter p) = true := by
  induction m generalizing lo with
  | nil => rfl
  | cons c m ih =>
    obtain ⟨k, v⟩ := c
    simp only [Memory.wfFrom, Bool.and_eq_true] at h
    by_cases hp : p (k, v) = true
    · simp only [List.filter_cons, hp, if_true, Memory.wfFrom, Bool.and_eq_true]
      exact ⟨h.1, ih _ h.2⟩
    · simp only [List.filter_cons, hp, Bool.false_eq_true, if_false]
      refine ih _ (Memory.wfFrom_weaken h.2 ?_)
      rintro l rfl
      exact ⟨k, rfl, by simpa using Nat.le_of_lt (of_decide_eq_true h.1.1)⟩

/-- Dropping cells keeps the canonical form. -/
theorem Memory.wf_filter (m : Memory) (p : Host.Cell → Bool) (h : m.wf = true) : Memory.wf (m.filter p) = true :=
  Memory.wfFrom_filter m none p h

/-- Bytes outside `[a, a + length)` are left alone. -/
theorem Memory.read_writeBytes_outside (m : Memory) (a a' : Nat) (bs : List Byte) (h : a' < a ∨ a + bs.length ≤ a') :
    (m.writeBytes a bs).read a' = m.read a' := by
  induction bs generalizing m a with
  | nil => rfl
  | cons b bs ih =>
    simp only [List.length_cons] at h
    rw [Memory.writeBytes, ih _ _ (by omega), Memory.read_write_other _ _ (by omega)]

/-- A byte inside what was written reads as written. -/
theorem Memory.read_writeBytes_inside (m : Memory) (a i : Nat) (bs : List Byte) (h : m.wf = true) (hi : i < bs.length) :
    (m.writeBytes a bs).read (a + i) = bs[i] := by
  induction bs generalizing m a i with
  | nil => simp at hi
  | cons b bs ih =>
    cases i with
    | zero =>
      rw [Memory.writeBytes, Memory.read_writeBytes_outside _ _ _ _ (by omega)]
      simpa using Memory.read_write_same m a b h
    | succ i =>
      have := ih (m.write a b) (a + 1) i (Memory.wf_write m a b h) (by simpa using hi)
      simpa [Memory.writeBytes, Nat.add_assoc, Nat.add_comm 1 i] using this

@[simp] theorem Memory.length_readBytes (m : Memory) (a n : Nat) : (m.readBytes a n).length = n := by
  induction n generalizing a with
  | zero => rfl
  | succ n ih => simp [Memory.readBytes, ih]

/-- Reading back what was written. -/
theorem Memory.readBytes_writeBytes (m : Memory) (a : Nat) (bs : List Byte) (h : m.wf = true) :
    (m.writeBytes a bs).readBytes a bs.length = bs := by
  induction bs generalizing m a with
  | nil => rfl
  | cons b bs ih =>
    have h1 : ((m.write a b).writeBytes (a + 1) bs).read a = b := by
      rw [Memory.read_writeBytes_outside _ _ _ _ (by omega), Memory.read_write_same _ _ _ h]
    simp only [Memory.writeBytes, List.length_cons, Memory.readBytes, h1,
      ih _ _ (Memory.wf_write m a b h)]

end Sys2Proof.Machine
end

