-- ==== Sys2Proof/Laws/State.lean ====
section
/-! SUPPORT. One lemma per field per update of the state, and what the accessors read after an update. -/

namespace Sys2Proof.Machine

section
variable (s : State)

/-! ### modDie -/

@[simp] theorem State.modDie_agenda (d : Nat) (f : Die → Die) : (s.modDie d f).agenda = s.agenda := rfl
@[simp] theorem State.modDie_curThread (d : Nat) (f : Die → Die) : (s.modDie d f).curThread = s.curThread := rfl
@[simp] theorem State.modDie_curFe (d : Nat) (f : Die → Die) : (s.modDie d f).curFe = s.curFe := rfl
@[simp] theorem State.modDie_curMtu (d : Nat) (f : Die → Die) : (s.modDie d f).curMtu = s.curMtu := rfl
@[simp] theorem State.modDie_tick (d : Nat) (f : Die → Die) : (s.modDie d f).tick = s.tick := rfl
@[simp] theorem State.modDie_booted (d : Nat) (f : Die → Die) : (s.modDie d f).booted = s.booted := rfl
@[simp] theorem State.modDie_recovery (d : Nat) (f : Die → Die) : (s.modDie d f).recovery = s.recovery := rfl
@[simp] theorem State.modDie_cyc (d : Nat) (f : Die → Die) : (s.modDie d f).cyc = s.cyc := rfl
@[simp] theorem State.modDie_mem (d : Nat) (f : Die → Die) : (s.modDie d f).mem = s.mem := rfl
@[simp] theorem State.modDie_tags (d : Nat) (f : Die → Die) : (s.modDie d f).tags = s.tags := rfl
@[simp] theorem State.modDie_poison (d : Nat) (f : Die → Die) : (s.modDie d f).poison = s.poison := rfl
@[simp] theorem State.modDie_l2 (d : Nat) (f : Die → Die) : (s.modDie d f).l2 = s.l2 := rfl
@[simp] theorem State.modDie_rdc (d : Nat) (f : Die → Die) : (s.modDie d f).rdc = s.rdc := rfl
@[simp] theorem State.modDie_tlb (d : Nat) (f : Die → Die) : (s.modDie d f).tlb = s.tlb := rfl
@[simp] theorem State.modDie_tent (d : Nat) (f : Die → Die) : (s.modDie d f).tent = s.tent := rfl
@[simp] theorem State.modDie_returns (d : Nat) (f : Die → Die) : (s.modDie d f).returns = s.returns := rfl
@[simp] theorem State.modDie_lmem (d : Nat) (f : Die → Die) : (s.modDie d f).lmem = s.lmem := rfl
@[simp] theorem State.modDie_roots (d : Nat) (f : Die → Die) : (s.modDie d f).roots = s.roots := rfl
@[simp] theorem State.modDie_ctxAreas (d : Nat) (f : Die → Die) : (s.modDie d f).ctxAreas = s.ctxAreas := rfl
@[simp] theorem State.modDie_threads (d : Nat) (f : Die → Die) : (s.modDie d f).threads = s.threads := rfl
@[simp] theorem State.modDie_fes (d : Nat) (f : Die → Die) : (s.modDie d f).fes = s.fes := rfl
@[simp] theorem State.modDie_islands (d : Nat) (f : Die → Die) : (s.modDie d f).islands = s.islands := rfl
@[simp] theorem State.modDie_routes (d : Nat) (f : Die → Die) : (s.modDie d f).routes = s.routes := rfl
@[simp] theorem State.modDie_latches (d : Nat) (f : Die → Die) : (s.modDie d f).latches = s.latches := rfl
@[simp] theorem State.modDie_sent (d : Nat) (f : Die → Die) : (s.modDie d f).sent = s.sent := rfl
@[simp] theorem State.modDie_heldReqs (d : Nat) (f : Die → Die) : (s.modDie d f).heldReqs = s.heldReqs := rfl
@[simp] theorem State.modDie_code (d : Nat) (f : Die → Die) : (s.modDie d f).code = s.code := rfl
@[simp] theorem State.modDie_front (d : Nat) (f : Die → Die) : (s.modDie d f).front = s.front := rfl

/-! ### modThr -/

@[simp] theorem State.modThr_agenda (u : ThreadId) (f : Thread → Thread) : (s.modThr u f).agenda = s.agenda := rfl
@[simp] theorem State.modThr_curThread (u : ThreadId) (f : Thread → Thread) : (s.modThr u f).curThread = s.curThread := rfl
@[simp] theorem State.modThr_curFe (u : ThreadId) (f : Thread → Thread) : (s.modThr u f).curFe = s.curFe := rfl
@[simp] theorem State.modThr_curMtu (u : ThreadId) (f : Thread → Thread) : (s.modThr u f).curMtu = s.curMtu := rfl
@[simp] theorem State.modThr_tick (u : ThreadId) (f : Thread → Thread) : (s.modThr u f).tick = s.tick := rfl
@[simp] theorem State.modThr_booted (u : ThreadId) (f : Thread → Thread) : (s.modThr u f).booted = s.booted := rfl
@[simp] theorem State.modThr_recovery (u : ThreadId) (f : Thread → Thread) : (s.modThr u f).recovery = s.recovery := rfl
@[simp] theorem State.modThr_cyc (u : ThreadId) (f : Thread → Thread) : (s.modThr u f).cyc = s.cyc := rfl
@[simp] theorem State.modThr_mem (u : ThreadId) (f : Thread → Thread) : (s.modThr u f).mem = s.mem := rfl
@[simp] theorem State.modThr_tags (u : ThreadId) (f : Thread → Thread) : (s.modThr u f).tags = s.tags := rfl
@[simp] theorem State.modThr_poison (u : ThreadId) (f : Thread → Thread) : (s.modThr u f).poison = s.poison := rfl
@[simp] theorem State.modThr_l2 (u : ThreadId) (f : Thread → Thread) : (s.modThr u f).l2 = s.l2 := rfl
@[simp] theorem State.modThr_rdc (u : ThreadId) (f : Thread → Thread) : (s.modThr u f).rdc = s.rdc := rfl
@[simp] theorem State.modThr_tlb (u : ThreadId) (f : Thread → Thread) : (s.modThr u f).tlb = s.tlb := rfl
@[simp] theorem State.modThr_tent (u : ThreadId) (f : Thread → Thread) : (s.modThr u f).tent = s.tent := rfl
@[simp] theorem State.modThr_returns (u : ThreadId) (f : Thread → Thread) : (s.modThr u f).returns = s.returns := rfl
@[simp] theorem State.modThr_lmem (u : ThreadId) (f : Thread → Thread) : (s.modThr u f).lmem = s.lmem := rfl
@[simp] theorem State.modThr_roots (u : ThreadId) (f : Thread → Thread) : (s.modThr u f).roots = s.roots := rfl
@[simp] theorem State.modThr_ctxAreas (u : ThreadId) (f : Thread → Thread) : (s.modThr u f).ctxAreas = s.ctxAreas := rfl
@[simp] theorem State.modThr_fes (u : ThreadId) (f : Thread → Thread) : (s.modThr u f).fes = s.fes := rfl
@[simp] theorem State.modThr_islands (u : ThreadId) (f : Thread → Thread) : (s.modThr u f).islands = s.islands := rfl
@[simp] theorem State.modThr_routes (u : ThreadId) (f : Thread → Thread) : (s.modThr u f).routes = s.routes := rfl
@[simp] theorem State.modThr_latches (u : ThreadId) (f : Thread → Thread) : (s.modThr u f).latches = s.latches := rfl
@[simp] theorem State.modThr_dies (u : ThreadId) (f : Thread → Thread) : (s.modThr u f).dies = s.dies := rfl
@[simp] theorem State.modThr_sent (u : ThreadId) (f : Thread → Thread) : (s.modThr u f).sent = s.sent := rfl
@[simp] theorem State.modThr_heldReqs (u : ThreadId) (f : Thread → Thread) : (s.modThr u f).heldReqs = s.heldReqs := rfl
@[simp] theorem State.modThr_code (u : ThreadId) (f : Thread → Thread) : (s.modThr u f).code = s.code := rfl
@[simp] theorem State.modThr_front (u : ThreadId) (f : Thread → Thread) : (s.modThr u f).front = s.front := rfl

/-! ### modFe -/

@[simp] theorem State.modFe_agenda (x : FeId) (g : Fe → Fe) : (s.modFe x g).agenda = s.agenda := rfl
@[simp] theorem State.modFe_curThread (x : FeId) (g : Fe → Fe) : (s.modFe x g).curThread = s.curThread := rfl
@[simp] theorem State.modFe_curFe (x : FeId) (g : Fe → Fe) : (s.modFe x g).curFe = s.curFe := rfl
@[simp] theorem State.modFe_curMtu (x : FeId) (g : Fe → Fe) : (s.modFe x g).curMtu = s.curMtu := rfl
@[simp] theorem State.modFe_tick (x : FeId) (g : Fe → Fe) : (s.modFe x g).tick = s.tick := rfl
@[simp] theorem State.modFe_booted (x : FeId) (g : Fe → Fe) : (s.modFe x g).booted = s.booted := rfl
@[simp] theorem State.modFe_recovery (x : FeId) (g : Fe → Fe) : (s.modFe x g).recovery = s.recovery := rfl
@[simp] theorem State.modFe_cyc (x : FeId) (g : Fe → Fe) : (s.modFe x g).cyc = s.cyc := rfl
@[simp] theorem State.modFe_mem (x : FeId) (g : Fe → Fe) : (s.modFe x g).mem = s.mem := rfl
@[simp] theorem State.modFe_tags (x : FeId) (g : Fe → Fe) : (s.modFe x g).tags = s.tags := rfl
@[simp] theorem State.modFe_poison (x : FeId) (g : Fe → Fe) : (s.modFe x g).poison = s.poison := rfl
@[simp] theorem State.modFe_l2 (x : FeId) (g : Fe → Fe) : (s.modFe x g).l2 = s.l2 := rfl
@[simp] theorem State.modFe_rdc (x : FeId) (g : Fe → Fe) : (s.modFe x g).rdc = s.rdc := rfl
@[simp] theorem State.modFe_tlb (x : FeId) (g : Fe → Fe) : (s.modFe x g).tlb = s.tlb := rfl
@[simp] theorem State.modFe_tent (x : FeId) (g : Fe → Fe) : (s.modFe x g).tent = s.tent := rfl
@[simp] theorem State.modFe_returns (x : FeId) (g : Fe → Fe) : (s.modFe x g).returns = s.returns := rfl
@[simp] theorem State.modFe_lmem (x : FeId) (g : Fe → Fe) : (s.modFe x g).lmem = s.lmem := rfl
@[simp] theorem State.modFe_roots (x : FeId) (g : Fe → Fe) : (s.modFe x g).roots = s.roots := rfl
@[simp] theorem State.modFe_ctxAreas (x : FeId) (g : Fe → Fe) : (s.modFe x g).ctxAreas = s.ctxAreas := rfl
@[simp] theorem State.modFe_threads (x : FeId) (g : Fe → Fe) : (s.modFe x g).threads = s.threads := rfl
@[simp] theorem State.modFe_islands (x : FeId) (g : Fe → Fe) : (s.modFe x g).islands = s.islands := rfl
@[simp] theorem State.modFe_routes (x : FeId) (g : Fe → Fe) : (s.modFe x g).routes = s.routes := rfl
@[simp] theorem State.modFe_latches (x : FeId) (g : Fe → Fe) : (s.modFe x g).latches = s.latches := rfl
@[simp] theorem State.modFe_dies (x : FeId) (g : Fe → Fe) : (s.modFe x g).dies = s.dies := rfl
@[simp] theorem State.modFe_sent (x : FeId) (g : Fe → Fe) : (s.modFe x g).sent = s.sent := rfl
@[simp] theorem State.modFe_heldReqs (x : FeId) (g : Fe → Fe) : (s.modFe x g).heldReqs = s.heldReqs := rfl
@[simp] theorem State.modFe_code (x : FeId) (g : Fe → Fe) : (s.modFe x g).code = s.code := rfl
@[simp] theorem State.modFe_front (x : FeId) (g : Fe → Fe) : (s.modFe x g).front = s.front := rfl

/-! ### modRes -/

@[simp] theorem State.modRes_agenda (r : ResId) (f : Residency → Residency) : (s.modRes r f).agenda = s.agenda := by unfold State.modRes; split <;> rfl
@[simp] theorem State.modRes_curThread (r : ResId) (f : Residency → Residency) : (s.modRes r f).curThread = s.curThread := by unfold State.modRes; split <;> rfl
@[simp] theorem State.modRes_curFe (r : ResId) (f : Residency → Residency) : (s.modRes r f).curFe = s.curFe := by unfold State.modRes; split <;> rfl
@[simp] theorem State.modRes_curMtu (r : ResId) (f : Residency → Residency) : (s.modRes r f).curMtu = s.curMtu := by unfold State.modRes; split <;> rfl
@[simp] theorem State.modRes_tick (r : ResId) (f : Residency → Residency) : (s.modRes r f).tick = s.tick := by unfold State.modRes; split <;> rfl
@[simp] theorem State.modRes_booted (r : ResId) (f : Residency → Residency) : (s.modRes r f).booted = s.booted := by unfold State.modRes; split <;> rfl
@[simp] theorem State.modRes_recovery (r : ResId) (f : Residency → Residency) : (s.modRes r f).recovery = s.recovery := by unfold State.modRes; split <;> rfl
@[simp] theorem State.modRes_cyc (r : ResId) (f : Residency → Residency) : (s.modRes r f).cyc = s.cyc := by unfold State.modRes; split <;> rfl
@[simp] theorem State.modRes_mem (r : ResId) (f : Residency → Residency) : (s.modRes r f).mem = s.mem := by unfold State.modRes; split <;> rfl
@[simp] theorem State.modRes_tags (r : ResId) (f : Residency → Residency) : (s.modRes r f).tags = s.tags := by unfold State.modRes; split <;> rfl
@[simp] theorem State.modRes_poison (r : ResId) (f : Residency → Residency) : (s.modRes r f).poison = s.poison := by unfold State.modRes; split <;> rfl
@[simp] theorem State.modRes_l2 (r : ResId) (f : Residency → Residency) : (s.modRes r f).l2 = s.l2 := by unfold State.modRes; split <;> rfl
@[simp] theorem State.modRes_rdc (r : ResId) (f : Residency → Residency) : (s.modRes r f).rdc = s.rdc := by unfold State.modRes; split <;> rfl
@[simp] theorem State.modRes_tlb (r : ResId) (f : Residency → Residency) : (s.modRes r f).tlb = s.tlb := by unfold State.modRes; split <;> rfl
@[simp] theorem State.modRes_tent (r : ResId) (f : Residency → Residency) : (s.modRes r f).tent = s.tent := by unfold State.modRes; split <;> rfl
@[simp] theorem State.modRes_returns (r : ResId) (f : Residency → Residency) : (s.modRes r f).returns = s.returns := by unfold State.modRes; split <;> rfl
@[simp] theorem State.modRes_lmem (r : ResId) (f : Residency → Residency) : (s.modRes r f).lmem = s.lmem := by unfold State.modRes; split <;> rfl
@[simp] theorem State.modRes_roots (r : ResId) (f : Residency → Residency) : (s.modRes r f).roots = s.roots := by unfold State.modRes; split <;> rfl
@[simp] theorem State.modRes_ctxAreas (r : ResId) (f : Residency → Residency) : (s.modRes r f).ctxAreas = s.ctxAreas := by unfold State.modRes; split <;> rfl
@[simp] theorem State.modRes_threads (r : ResId) (f : Residency → Residency) : (s.modRes r f).threads = s.threads := by unfold State.modRes; split <;> rfl
@[simp] theorem State.modRes_fes (r : ResId) (f : Residency → Residency) : (s.modRes r f).fes = s.fes := by unfold State.modRes; split <;> rfl
@[simp] theorem State.modRes_islands (r : ResId) (f : Residency → Residency) : (s.modRes r f).islands = s.islands := by unfold State.modRes; split <;> rfl
@[simp] theorem State.modRes_routes (r : ResId) (f : Residency → Residency) : (s.modRes r f).routes = s.routes := by unfold State.modRes; split <;> rfl
@[simp] theorem State.modRes_latches (r : ResId) (f : Residency → Residency) : (s.modRes r f).latches = s.latches := by unfold State.modRes; split <;> rfl
@[simp] theorem State.modRes_sent (r : ResId) (f : Residency → Residency) : (s.modRes r f).sent = s.sent := by unfold State.modRes; split <;> rfl
@[simp] theorem State.modRes_heldReqs (r : ResId) (f : Residency → Residency) : (s.modRes r f).heldReqs = s.heldReqs := by unfold State.modRes; split <;> rfl
@[simp] theorem State.modRes_code (r : ResId) (f : Residency → Residency) : (s.modRes r f).code = s.code := by unfold State.modRes; split <;> rfl
@[simp] theorem State.modRes_front (r : ResId) (f : Residency → Residency) : (s.modRes r f).front = s.front := by unfold State.modRes; split <;> rfl

/-! ### count -/

@[simp] theorem State.count_agenda (d i n : Nat) : (s.count d i n).agenda = s.agenda := rfl
@[simp] theorem State.count_curThread (d i n : Nat) : (s.count d i n).curThread = s.curThread := rfl
@[simp] theorem State.count_curFe (d i n : Nat) : (s.count d i n).curFe = s.curFe := rfl
@[simp] theorem State.count_curMtu (d i n : Nat) : (s.count d i n).curMtu = s.curMtu := rfl
@[simp] theorem State.count_tick (d i n : Nat) : (s.count d i n).tick = s.tick := rfl
@[simp] theorem State.count_booted (d i n : Nat) : (s.count d i n).booted = s.booted := rfl
@[simp] theorem State.count_recovery (d i n : Nat) : (s.count d i n).recovery = s.recovery := rfl
@[simp] theorem State.count_cyc (d i n : Nat) : (s.count d i n).cyc = s.cyc := rfl
@[simp] theorem State.count_mem (d i n : Nat) : (s.count d i n).mem = s.mem := rfl
@[simp] theorem State.count_tags (d i n : Nat) : (s.count d i n).tags = s.tags := rfl
@[simp] theorem State.count_poison (d i n : Nat) : (s.count d i n).poison = s.poison := rfl
@[simp] theorem State.count_l2 (d i n : Nat) : (s.count d i n).l2 = s.l2 := rfl
@[simp] theorem State.count_rdc (d i n : Nat) : (s.count d i n).rdc = s.rdc := rfl
@[simp] theorem State.count_tlb (d i n : Nat) : (s.count d i n).tlb = s.tlb := rfl
@[simp] theorem State.count_tent (d i n : Nat) : (s.count d i n).tent = s.tent := rfl
@[simp] theorem State.count_returns (d i n : Nat) : (s.count d i n).returns = s.returns := rfl
@[simp] theorem State.count_lmem (d i n : Nat) : (s.count d i n).lmem = s.lmem := rfl
@[simp] theorem State.count_roots (d i n : Nat) : (s.count d i n).roots = s.roots := rfl
@[simp] theorem State.count_ctxAreas (d i n : Nat) : (s.count d i n).ctxAreas = s.ctxAreas := rfl
@[simp] theorem State.count_threads (d i n : Nat) : (s.count d i n).threads = s.threads := rfl
@[simp] theorem State.count_fes (d i n : Nat) : (s.count d i n).fes = s.fes := rfl
@[simp] theorem State.count_islands (d i n : Nat) : (s.count d i n).islands = s.islands := rfl
@[simp] theorem State.count_routes (d i n : Nat) : (s.count d i n).routes = s.routes := rfl
@[simp] theorem State.count_latches (d i n : Nat) : (s.count d i n).latches = s.latches := rfl
@[simp] theorem State.count_sent (d i n : Nat) : (s.count d i n).sent = s.sent := rfl
@[simp] theorem State.count_heldReqs (d i n : Nat) : (s.count d i n).heldReqs = s.heldReqs := rfl
@[simp] theorem State.count_code (d i n : Nat) : (s.count d i n).code = s.code := rfl
@[simp] theorem State.count_front (d i n : Nat) : (s.count d i n).front = s.front := rfl

/-! ### irq -/

@[simp] theorem State.irq_agenda (v : Nat) : (s.irq v).agenda = s.agenda := rfl
@[simp] theorem State.irq_curThread (v : Nat) : (s.irq v).curThread = s.curThread := rfl
@[simp] theorem State.irq_curFe (v : Nat) : (s.irq v).curFe = s.curFe := rfl
@[simp] theorem State.irq_curMtu (v : Nat) : (s.irq v).curMtu = s.curMtu := rfl
@[simp] theorem State.irq_tick (v : Nat) : (s.irq v).tick = s.tick := rfl
@[simp] theorem State.irq_booted (v : Nat) : (s.irq v).booted = s.booted := rfl
@[simp] theorem State.irq_recovery (v : Nat) : (s.irq v).recovery = s.recovery := rfl
@[simp] theorem State.irq_cyc (v : Nat) : (s.irq v).cyc = s.cyc := rfl
@[simp] theorem State.irq_mem (v : Nat) : (s.irq v).mem = s.mem := rfl
@[simp] theorem State.irq_tags (v : Nat) : (s.irq v).tags = s.tags := rfl
@[simp] theorem State.irq_poison (v : Nat) : (s.irq v).poison = s.poison := rfl
@[simp] theorem State.irq_l2 (v : Nat) : (s.irq v).l2 = s.l2 := rfl
@[simp] theorem State.irq_rdc (v : Nat) : (s.irq v).rdc = s.rdc := rfl
@[simp] theorem State.irq_tlb (v : Nat) : (s.irq v).tlb = s.tlb := rfl
@[simp] theorem State.irq_tent (v : Nat) : (s.irq v).tent = s.tent := rfl
@[simp] theorem State.irq_returns (v : Nat) : (s.irq v).returns = s.returns := rfl
@[simp] theorem State.irq_lmem (v : Nat) : (s.irq v).lmem = s.lmem := rfl
@[simp] theorem State.irq_roots (v : Nat) : (s.irq v).roots = s.roots := rfl
@[simp] theorem State.irq_ctxAreas (v : Nat) : (s.irq v).ctxAreas = s.ctxAreas := rfl
@[simp] theorem State.irq_threads (v : Nat) : (s.irq v).threads = s.threads := rfl
@[simp] theorem State.irq_fes (v : Nat) : (s.irq v).fes = s.fes := rfl
@[simp] theorem State.irq_islands (v : Nat) : (s.irq v).islands = s.islands := rfl
@[simp] theorem State.irq_routes (v : Nat) : (s.irq v).routes = s.routes := rfl
@[simp] theorem State.irq_latches (v : Nat) : (s.irq v).latches = s.latches := rfl
@[simp] theorem State.irq_dies (v : Nat) : (s.irq v).dies = s.dies := rfl
@[simp] theorem State.irq_sent (v : Nat) : (s.irq v).sent = s.sent := rfl
@[simp] theorem State.irq_heldReqs (v : Nat) : (s.irq v).heldReqs = s.heldReqs := rfl
@[simp] theorem State.irq_code (v : Nat) : (s.irq v).code = s.code := rfl

/-! ### modL2 -/

@[simp] theorem State.modL2_agenda (line : Nat) (f : L2Line → L2Line) : (s.modL2 line f).agenda = s.agenda := rfl
@[simp] theorem State.modL2_curThread (line : Nat) (f : L2Line → L2Line) : (s.modL2 line f).curThread = s.curThread := rfl
@[simp] theorem State.modL2_curFe (line : Nat) (f : L2Line → L2Line) : (s.modL2 line f).curFe = s.curFe := rfl
@[simp] theorem State.modL2_curMtu (line : Nat) (f : L2Line → L2Line) : (s.modL2 line f).curMtu = s.curMtu := rfl
@[simp] theorem State.modL2_tick (line : Nat) (f : L2Line → L2Line) : (s.modL2 line f).tick = s.tick := rfl
@[simp] theorem State.modL2_booted (line : Nat) (f : L2Line → L2Line) : (s.modL2 line f).booted = s.booted := rfl
@[simp] theorem State.modL2_recovery (line : Nat) (f : L2Line → L2Line) : (s.modL2 line f).recovery = s.recovery := rfl
@[simp] theorem State.modL2_cyc (line : Nat) (f : L2Line → L2Line) : (s.modL2 line f).cyc = s.cyc := rfl
@[simp] theorem State.modL2_mem (line : Nat) (f : L2Line → L2Line) : (s.modL2 line f).mem = s.mem := rfl
@[simp] theorem State.modL2_tags (line : Nat) (f : L2Line → L2Line) : (s.modL2 line f).tags = s.tags := rfl
@[simp] theorem State.modL2_poison (line : Nat) (f : L2Line → L2Line) : (s.modL2 line f).poison = s.poison := rfl
@[simp] theorem State.modL2_rdc (line : Nat) (f : L2Line → L2Line) : (s.modL2 line f).rdc = s.rdc := rfl
@[simp] theorem State.modL2_tlb (line : Nat) (f : L2Line → L2Line) : (s.modL2 line f).tlb = s.tlb := rfl
@[simp] theorem State.modL2_tent (line : Nat) (f : L2Line → L2Line) : (s.modL2 line f).tent = s.tent := rfl
@[simp] theorem State.modL2_returns (line : Nat) (f : L2Line → L2Line) : (s.modL2 line f).returns = s.returns := rfl
@[simp] theorem State.modL2_lmem (line : Nat) (f : L2Line → L2Line) : (s.modL2 line f).lmem = s.lmem := rfl
@[simp] theorem State.modL2_roots (line : Nat) (f : L2Line → L2Line) : (s.modL2 line f).roots = s.roots := rfl
@[simp] theorem State.modL2_ctxAreas (line : Nat) (f : L2Line → L2Line) : (s.modL2 line f).ctxAreas = s.ctxAreas := rfl
@[simp] theorem State.modL2_threads (line : Nat) (f : L2Line → L2Line) : (s.modL2 line f).threads = s.threads := rfl
@[simp] theorem State.modL2_fes (line : Nat) (f : L2Line → L2Line) : (s.modL2 line f).fes = s.fes := rfl
@[simp] theorem State.modL2_islands (line : Nat) (f : L2Line → L2Line) : (s.modL2 line f).islands = s.islands := rfl
@[simp] theorem State.modL2_routes (line : Nat) (f : L2Line → L2Line) : (s.modL2 line f).routes = s.routes := rfl
@[simp] theorem State.modL2_latches (line : Nat) (f : L2Line → L2Line) : (s.modL2 line f).latches = s.latches := rfl
@[simp] theorem State.modL2_dies (line : Nat) (f : L2Line → L2Line) : (s.modL2 line f).dies = s.dies := rfl
@[simp] theorem State.modL2_sent (line : Nat) (f : L2Line → L2Line) : (s.modL2 line f).sent = s.sent := rfl
@[simp] theorem State.modL2_heldReqs (line : Nat) (f : L2Line → L2Line) : (s.modL2 line f).heldReqs = s.heldReqs := rfl
@[simp] theorem State.modL2_code (line : Nat) (f : L2Line → L2Line) : (s.modL2 line f).code = s.code := rfl
@[simp] theorem State.modL2_front (line : Nat) (f : L2Line → L2Line) : (s.modL2 line f).front = s.front := rfl

/-! ### unholdReq -/

@[simp] theorem State.unholdReq_agenda (q : Requester) (line : Nat) : (s.unholdReq q line).agenda = s.agenda := rfl
@[simp] theorem State.unholdReq_curThread (q : Requester) (line : Nat) : (s.unholdReq q line).curThread = s.curThread := rfl
@[simp] theorem State.unholdReq_curFe (q : Requester) (line : Nat) : (s.unholdReq q line).curFe = s.curFe := rfl
@[simp] theorem State.unholdReq_curMtu (q : Requester) (line : Nat) : (s.unholdReq q line).curMtu = s.curMtu := rfl
@[simp] theorem State.unholdReq_tick (q : Requester) (line : Nat) : (s.unholdReq q line).tick = s.tick := rfl
@[simp] theorem State.unholdReq_booted (q : Requester) (line : Nat) : (s.unholdReq q line).booted = s.booted := rfl
@[simp] theorem State.unholdReq_recovery (q : Requester) (line : Nat) : (s.unholdReq q line).recovery = s.recovery := rfl
@[simp] theorem State.unholdReq_cyc (q : Requester) (line : Nat) : (s.unholdReq q line).cyc = s.cyc := rfl
@[simp] theorem State.unholdReq_mem (q : Requester) (line : Nat) : (s.unholdReq q line).mem = s.mem := rfl
@[simp] theorem State.unholdReq_tags (q : Requester) (line : Nat) : (s.unholdReq q line).tags = s.tags := rfl
@[simp] theorem State.unholdReq_poison (q : Requester) (line : Nat) : (s.unholdReq q line).poison = s.poison := rfl
@[simp] theorem State.unholdReq_l2 (q : Requester) (line : Nat) : (s.unholdReq q line).l2 = s.l2 := rfl
@[simp] theorem State.unholdReq_rdc (q : Requester) (line : Nat) : (s.unholdReq q line).rdc = s.rdc := rfl
@[simp] theorem State.unholdReq_tlb (q : Requester) (line : Nat) : (s.unholdReq q line).tlb = s.tlb := rfl
@[simp] theorem State.unholdReq_tent (q : Requester) (line : Nat) : (s.unholdReq q line).tent = s.tent := rfl
@[simp] theorem State.unholdReq_returns (q : Requester) (line : Nat) : (s.unholdReq q line).returns = s.returns := rfl
@[simp] theorem State.unholdReq_lmem (q : Requester) (line : Nat) : (s.unholdReq q line).lmem = s.lmem := rfl
@[simp] theorem State.unholdReq_roots (q : Requester) (line : Nat) : (s.unholdReq q line).roots = s.roots := rfl
@[simp] theorem State.unholdReq_ctxAreas (q : Requester) (line : Nat) : (s.unholdReq q line).ctxAreas = s.ctxAreas := rfl
@[simp] theorem State.unholdReq_threads (q : Requester) (line : Nat) : (s.unholdReq q line).threads = s.threads := rfl
@[simp] theorem State.unholdReq_fes (q : Requester) (line : Nat) : (s.unholdReq q line).fes = s.fes := rfl
@[simp] theorem State.unholdReq_islands (q : Requester) (line : Nat) : (s.unholdReq q line).islands = s.islands := rfl
@[simp] theorem State.unholdReq_routes (q : Requester) (line : Nat) : (s.unholdReq q line).routes = s.routes := rfl
@[simp] theorem State.unholdReq_latches (q : Requester) (line : Nat) : (s.unholdReq q line).latches = s.latches := rfl
@[simp] theorem State.unholdReq_dies (q : Requester) (line : Nat) : (s.unholdReq q line).dies = s.dies := rfl
@[simp] theorem State.unholdReq_sent (q : Requester) (line : Nat) : (s.unholdReq q line).sent = s.sent := rfl
@[simp] theorem State.unholdReq_code (q : Requester) (line : Nat) : (s.unholdReq q line).code = s.code := rfl
@[simp] theorem State.unholdReq_front (q : Requester) (line : Nat) : (s.unholdReq q line).front = s.front := rfl

/-! ### noteCode -/

@[simp] theorem State.noteCode_agenda (q : Option Requester) (b : Line) (pa : Nat) (bs : List Byte) : (s.noteCode q b pa bs).agenda = s.agenda := rfl
@[simp] theorem State.noteCode_curThread (q : Option Requester) (b : Line) (pa : Nat) (bs : List Byte) : (s.noteCode q b pa bs).curThread = s.curThread := rfl
@[simp] theorem State.noteCode_curFe (q : Option Requester) (b : Line) (pa : Nat) (bs : List Byte) : (s.noteCode q b pa bs).curFe = s.curFe := rfl
@[simp] theorem State.noteCode_curMtu (q : Option Requester) (b : Line) (pa : Nat) (bs : List Byte) : (s.noteCode q b pa bs).curMtu = s.curMtu := rfl
@[simp] theorem State.noteCode_tick (q : Option Requester) (b : Line) (pa : Nat) (bs : List Byte) : (s.noteCode q b pa bs).tick = s.tick := rfl
@[simp] theorem State.noteCode_booted (q : Option Requester) (b : Line) (pa : Nat) (bs : List Byte) : (s.noteCode q b pa bs).booted = s.booted := rfl
@[simp] theorem State.noteCode_recovery (q : Option Requester) (b : Line) (pa : Nat) (bs : List Byte) : (s.noteCode q b pa bs).recovery = s.recovery := rfl
@[simp] theorem State.noteCode_cyc (q : Option Requester) (b : Line) (pa : Nat) (bs : List Byte) : (s.noteCode q b pa bs).cyc = s.cyc := rfl
@[simp] theorem State.noteCode_mem (q : Option Requester) (b : Line) (pa : Nat) (bs : List Byte) : (s.noteCode q b pa bs).mem = s.mem := rfl
@[simp] theorem State.noteCode_tags (q : Option Requester) (b : Line) (pa : Nat) (bs : List Byte) : (s.noteCode q b pa bs).tags = s.tags := rfl
@[simp] theorem State.noteCode_poison (q : Option Requester) (b : Line) (pa : Nat) (bs : List Byte) : (s.noteCode q b pa bs).poison = s.poison := rfl
@[simp] theorem State.noteCode_l2 (q : Option Requester) (b : Line) (pa : Nat) (bs : List Byte) : (s.noteCode q b pa bs).l2 = s.l2 := rfl
@[simp] theorem State.noteCode_rdc (q : Option Requester) (b : Line) (pa : Nat) (bs : List Byte) : (s.noteCode q b pa bs).rdc = s.rdc := rfl
@[simp] theorem State.noteCode_tlb (q : Option Requester) (b : Line) (pa : Nat) (bs : List Byte) : (s.noteCode q b pa bs).tlb = s.tlb := rfl
@[simp] theorem State.noteCode_tent (q : Option Requester) (b : Line) (pa : Nat) (bs : List Byte) : (s.noteCode q b pa bs).tent = s.tent := rfl
@[simp] theorem State.noteCode_returns (q : Option Requester) (b : Line) (pa : Nat) (bs : List Byte) : (s.noteCode q b pa bs).returns = s.returns := rfl
@[simp] theorem State.noteCode_lmem (q : Option Requester) (b : Line) (pa : Nat) (bs : List Byte) : (s.noteCode q b pa bs).lmem = s.lmem := rfl
@[simp] theorem State.noteCode_roots (q : Option Requester) (b : Line) (pa : Nat) (bs : List Byte) : (s.noteCode q b pa bs).roots = s.roots := rfl
@[simp] theorem State.noteCode_ctxAreas (q : Option Requester) (b : Line) (pa : Nat) (bs : List Byte) : (s.noteCode q b pa bs).ctxAreas = s.ctxAreas := rfl
@[simp] theorem State.noteCode_threads (q : Option Requester) (b : Line) (pa : Nat) (bs : List Byte) : (s.noteCode q b pa bs).threads = s.threads := rfl
@[simp] theorem State.noteCode_fes (q : Option Requester) (b : Line) (pa : Nat) (bs : List Byte) : (s.noteCode q b pa bs).fes = s.fes := rfl
@[simp] theorem State.noteCode_islands (q : Option Requester) (b : Line) (pa : Nat) (bs : List Byte) : (s.noteCode q b pa bs).islands = s.islands := rfl
@[simp] theorem State.noteCode_routes (q : Option Requester) (b : Line) (pa : Nat) (bs : List Byte) : (s.noteCode q b pa bs).routes = s.routes := rfl
@[simp] theorem State.noteCode_latches (q : Option Requester) (b : Line) (pa : Nat) (bs : List Byte) : (s.noteCode q b pa bs).latches = s.latches := rfl
@[simp] theorem State.noteCode_dies (q : Option Requester) (b : Line) (pa : Nat) (bs : List Byte) : (s.noteCode q b pa bs).dies = s.dies := rfl
@[simp] theorem State.noteCode_sent (q : Option Requester) (b : Line) (pa : Nat) (bs : List Byte) : (s.noteCode q b pa bs).sent = s.sent := rfl
@[simp] theorem State.noteCode_heldReqs (q : Option Requester) (b : Line) (pa : Nat) (bs : List Byte) : (s.noteCode q b pa bs).heldReqs = s.heldReqs := rfl
@[simp] theorem State.noteCode_front (q : Option Requester) (b : Line) (pa : Nat) (bs : List Byte) : (s.noteCode q b pa bs).front = s.front := rfl

/-! ### setTag -/

@[simp] theorem State.setTag_agenda (line : Nat) (t : BitVec 2) : (s.setTag line t).agenda = s.agenda := rfl
@[simp] theorem State.setTag_curThread (line : Nat) (t : BitVec 2) : (s.setTag line t).curThread = s.curThread := rfl
@[simp] theorem State.setTag_curFe (line : Nat) (t : BitVec 2) : (s.setTag line t).curFe = s.curFe := rfl
@[simp] theorem State.setTag_curMtu (line : Nat) (t : BitVec 2) : (s.setTag line t).curMtu = s.curMtu := rfl
@[simp] theorem State.setTag_tick (line : Nat) (t : BitVec 2) : (s.setTag line t).tick = s.tick := rfl
@[simp] theorem State.setTag_booted (line : Nat) (t : BitVec 2) : (s.setTag line t).booted = s.booted := rfl
@[simp] theorem State.setTag_recovery (line : Nat) (t : BitVec 2) : (s.setTag line t).recovery = s.recovery := rfl
@[simp] theorem State.setTag_cyc (line : Nat) (t : BitVec 2) : (s.setTag line t).cyc = s.cyc := rfl
@[simp] theorem State.setTag_mem (line : Nat) (t : BitVec 2) : (s.setTag line t).mem = s.mem := rfl
@[simp] theorem State.setTag_poison (line : Nat) (t : BitVec 2) : (s.setTag line t).poison = s.poison := rfl
@[simp] theorem State.setTag_l2 (line : Nat) (t : BitVec 2) : (s.setTag line t).l2 = s.l2 := rfl
@[simp] theorem State.setTag_rdc (line : Nat) (t : BitVec 2) : (s.setTag line t).rdc = s.rdc := rfl
@[simp] theorem State.setTag_tlb (line : Nat) (t : BitVec 2) : (s.setTag line t).tlb = s.tlb := rfl
@[simp] theorem State.setTag_tent (line : Nat) (t : BitVec 2) : (s.setTag line t).tent = s.tent := rfl
@[simp] theorem State.setTag_returns (line : Nat) (t : BitVec 2) : (s.setTag line t).returns = s.returns := rfl
@[simp] theorem State.setTag_lmem (line : Nat) (t : BitVec 2) : (s.setTag line t).lmem = s.lmem := rfl
@[simp] theorem State.setTag_roots (line : Nat) (t : BitVec 2) : (s.setTag line t).roots = s.roots := rfl
@[simp] theorem State.setTag_ctxAreas (line : Nat) (t : BitVec 2) : (s.setTag line t).ctxAreas = s.ctxAreas := rfl
@[simp] theorem State.setTag_threads (line : Nat) (t : BitVec 2) : (s.setTag line t).threads = s.threads := rfl
@[simp] theorem State.setTag_fes (line : Nat) (t : BitVec 2) : (s.setTag line t).fes = s.fes := rfl
@[simp] theorem State.setTag_islands (line : Nat) (t : BitVec 2) : (s.setTag line t).islands = s.islands := rfl
@[simp] theorem State.setTag_routes (line : Nat) (t : BitVec 2) : (s.setTag line t).routes = s.routes := rfl
@[simp] theorem State.setTag_latches (line : Nat) (t : BitVec 2) : (s.setTag line t).latches = s.latches := rfl
@[simp] theorem State.setTag_dies (line : Nat) (t : BitVec 2) : (s.setTag line t).dies = s.dies := rfl
@[simp] theorem State.setTag_sent (line : Nat) (t : BitVec 2) : (s.setTag line t).sent = s.sent := rfl
@[simp] theorem State.setTag_heldReqs (line : Nat) (t : BitVec 2) : (s.setTag line t).heldReqs = s.heldReqs := rfl
@[simp] theorem State.setTag_code (line : Nat) (t : BitVec 2) : (s.setTag line t).code = s.code := rfl
@[simp] theorem State.setTag_front (line : Nat) (t : BitVec 2) : (s.setTag line t).front = s.front := rfl

/-! ### setPoison -/

@[simp] theorem State.setPoison_agenda (line : Nat) (p : Bool) : (s.setPoison line p).agenda = s.agenda := rfl
@[simp] theorem State.setPoison_curThread (line : Nat) (p : Bool) : (s.setPoison line p).curThread = s.curThread := rfl
@[simp] theorem State.setPoison_curFe (line : Nat) (p : Bool) : (s.setPoison line p).curFe = s.curFe := rfl
@[simp] theorem State.setPoison_curMtu (line : Nat) (p : Bool) : (s.setPoison line p).curMtu = s.curMtu := rfl
@[simp] theorem State.setPoison_tick (line : Nat) (p : Bool) : (s.setPoison line p).tick = s.tick := rfl
@[simp] theorem State.setPoison_booted (line : Nat) (p : Bool) : (s.setPoison line p).booted = s.booted := rfl
@[simp] theorem State.setPoison_recovery (line : Nat) (p : Bool) : (s.setPoison line p).recovery = s.recovery := rfl
@[simp] theorem State.setPoison_cyc (line : Nat) (p : Bool) : (s.setPoison line p).cyc = s.cyc := rfl
@[simp] theorem State.setPoison_mem (line : Nat) (p : Bool) : (s.setPoison line p).mem = s.mem := rfl
@[simp] theorem State.setPoison_tags (line : Nat) (p : Bool) : (s.setPoison line p).tags = s.tags := rfl
@[simp] theorem State.setPoison_l2 (line : Nat) (p : Bool) : (s.setPoison line p).l2 = s.l2 := rfl
@[simp] theorem State.setPoison_rdc (line : Nat) (p : Bool) : (s.setPoison line p).rdc = s.rdc := rfl
@[simp] theorem State.setPoison_tlb (line : Nat) (p : Bool) : (s.setPoison line p).tlb = s.tlb := rfl
@[simp] theorem State.setPoison_tent (line : Nat) (p : Bool) : (s.setPoison line p).tent = s.tent := rfl
@[simp] theorem State.setPoison_returns (line : Nat) (p : Bool) : (s.setPoison line p).returns = s.returns := rfl
@[simp] theorem State.setPoison_lmem (line : Nat) (p : Bool) : (s.setPoison line p).lmem = s.lmem := rfl
@[simp] theorem State.setPoison_roots (line : Nat) (p : Bool) : (s.setPoison line p).roots = s.roots := rfl
@[simp] theorem State.setPoison_ctxAreas (line : Nat) (p : Bool) : (s.setPoison line p).ctxAreas = s.ctxAreas := rfl
@[simp] theorem State.setPoison_threads (line : Nat) (p : Bool) : (s.setPoison line p).threads = s.threads := rfl
@[simp] theorem State.setPoison_fes (line : Nat) (p : Bool) : (s.setPoison line p).fes = s.fes := rfl
@[simp] theorem State.setPoison_islands (line : Nat) (p : Bool) : (s.setPoison line p).islands = s.islands := rfl
@[simp] theorem State.setPoison_routes (line : Nat) (p : Bool) : (s.setPoison line p).routes = s.routes := rfl
@[simp] theorem State.setPoison_latches (line : Nat) (p : Bool) : (s.setPoison line p).latches = s.latches := rfl
@[simp] theorem State.setPoison_dies (line : Nat) (p : Bool) : (s.setPoison line p).dies = s.dies := rfl
@[simp] theorem State.setPoison_sent (line : Nat) (p : Bool) : (s.setPoison line p).sent = s.sent := rfl
@[simp] theorem State.setPoison_heldReqs (line : Nat) (p : Bool) : (s.setPoison line p).heldReqs = s.heldReqs := rfl
@[simp] theorem State.setPoison_code (line : Nat) (p : Bool) : (s.setPoison line p).code = s.code := rfl
@[simp] theorem State.setPoison_front (line : Nat) (p : Bool) : (s.setPoison line p).front = s.front := rfl

/-! ### modPlane -/

@[simp] theorem State.modPlane_agenda (x : FeId) (p : Nat) (k : Plane → Plane) : (s.modPlane x p k).agenda = s.agenda := rfl
@[simp] theorem State.modPlane_curThread (x : FeId) (p : Nat) (k : Plane → Plane) : (s.modPlane x p k).curThread = s.curThread := rfl
@[simp] theorem State.modPlane_curFe (x : FeId) (p : Nat) (k : Plane → Plane) : (s.modPlane x p k).curFe = s.curFe := rfl
@[simp] theorem State.modPlane_curMtu (x : FeId) (p : Nat) (k : Plane → Plane) : (s.modPlane x p k).curMtu = s.curMtu := rfl
@[simp] theorem State.modPlane_tick (x : FeId) (p : Nat) (k : Plane → Plane) : (s.modPlane x p k).tick = s.tick := rfl
@[simp] theorem State.modPlane_booted (x : FeId) (p : Nat) (k : Plane → Plane) : (s.modPlane x p k).booted = s.booted := rfl
@[simp] theorem State.modPlane_recovery (x : FeId) (p : Nat) (k : Plane → Plane) : (s.modPlane x p k).recovery = s.recovery := rfl
@[simp] theorem State.modPlane_cyc (x : FeId) (p : Nat) (k : Plane → Plane) : (s.modPlane x p k).cyc = s.cyc := rfl
@[simp] theorem State.modPlane_mem (x : FeId) (p : Nat) (k : Plane → Plane) : (s.modPlane x p k).mem = s.mem := rfl
@[simp] theorem State.modPlane_tags (x : FeId) (p : Nat) (k : Plane → Plane) : (s.modPlane x p k).tags = s.tags := rfl
@[simp] theorem State.modPlane_poison (x : FeId) (p : Nat) (k : Plane → Plane) : (s.modPlane x p k).poison = s.poison := rfl
@[simp] theorem State.modPlane_l2 (x : FeId) (p : Nat) (k : Plane → Plane) : (s.modPlane x p k).l2 = s.l2 := rfl
@[simp] theorem State.modPlane_rdc (x : FeId) (p : Nat) (k : Plane → Plane) : (s.modPlane x p k).rdc = s.rdc := rfl
@[simp] theorem State.modPlane_tlb (x : FeId) (p : Nat) (k : Plane → Plane) : (s.modPlane x p k).tlb = s.tlb := rfl
@[simp] theorem State.modPlane_tent (x : FeId) (p : Nat) (k : Plane → Plane) : (s.modPlane x p k).tent = s.tent := rfl
@[simp] theorem State.modPlane_returns (x : FeId) (p : Nat) (k : Plane → Plane) : (s.modPlane x p k).returns = s.returns := rfl
@[simp] theorem State.modPlane_lmem (x : FeId) (p : Nat) (k : Plane → Plane) : (s.modPlane x p k).lmem = s.lmem := rfl
@[simp] theorem State.modPlane_roots (x : FeId) (p : Nat) (k : Plane → Plane) : (s.modPlane x p k).roots = s.roots := rfl
@[simp] theorem State.modPlane_ctxAreas (x : FeId) (p : Nat) (k : Plane → Plane) : (s.modPlane x p k).ctxAreas = s.ctxAreas := rfl
@[simp] theorem State.modPlane_threads (x : FeId) (p : Nat) (k : Plane → Plane) : (s.modPlane x p k).threads = s.threads := rfl
@[simp] theorem State.modPlane_islands (x : FeId) (p : Nat) (k : Plane → Plane) : (s.modPlane x p k).islands = s.islands := rfl
@[simp] theorem State.modPlane_routes (x : FeId) (p : Nat) (k : Plane → Plane) : (s.modPlane x p k).routes = s.routes := rfl
@[simp] theorem State.modPlane_latches (x : FeId) (p : Nat) (k : Plane → Plane) : (s.modPlane x p k).latches = s.latches := rfl
@[simp] theorem State.modPlane_dies (x : FeId) (p : Nat) (k : Plane → Plane) : (s.modPlane x p k).dies = s.dies := rfl
@[simp] theorem State.modPlane_sent (x : FeId) (p : Nat) (k : Plane → Plane) : (s.modPlane x p k).sent = s.sent := rfl
@[simp] theorem State.modPlane_heldReqs (x : FeId) (p : Nat) (k : Plane → Plane) : (s.modPlane x p k).heldReqs = s.heldReqs := rfl
@[simp] theorem State.modPlane_code (x : FeId) (p : Nat) (k : Plane → Plane) : (s.modPlane x p k).code = s.code := rfl
@[simp] theorem State.modPlane_front (x : FeId) (p : Nat) (k : Plane → Plane) : (s.modPlane x p k).front = s.front := rfl

/-! ### modFiring -/

@[simp] theorem State.modFiring_agenda (x : FeId) (p : Nat) (k : Firing → Firing) : (s.modFiring x p k).agenda = s.agenda := rfl
@[simp] theorem State.modFiring_curThread (x : FeId) (p : Nat) (k : Firing → Firing) : (s.modFiring x p k).curThread = s.curThread := rfl
@[simp] theorem State.modFiring_curFe (x : FeId) (p : Nat) (k : Firing → Firing) : (s.modFiring x p k).curFe = s.curFe := rfl
@[simp] theorem State.modFiring_curMtu (x : FeId) (p : Nat) (k : Firing → Firing) : (s.modFiring x p k).curMtu = s.curMtu := rfl
@[simp] theorem State.modFiring_tick (x : FeId) (p : Nat) (k : Firing → Firing) : (s.modFiring x p k).tick = s.tick := rfl
@[simp] theorem State.modFiring_booted (x : FeId) (p : Nat) (k : Firing → Firing) : (s.modFiring x p k).booted = s.booted := rfl
@[simp] theorem State.modFiring_recovery (x : FeId) (p : Nat) (k : Firing → Firing) : (s.modFiring x p k).recovery = s.recovery := rfl
@[simp] theorem State.modFiring_cyc (x : FeId) (p : Nat) (k : Firing → Firing) : (s.modFiring x p k).cyc = s.cyc := rfl
@[simp] theorem State.modFiring_mem (x : FeId) (p : Nat) (k : Firing → Firing) : (s.modFiring x p k).mem = s.mem := rfl
@[simp] theorem State.modFiring_tags (x : FeId) (p : Nat) (k : Firing → Firing) : (s.modFiring x p k).tags = s.tags := rfl
@[simp] theorem State.modFiring_poison (x : FeId) (p : Nat) (k : Firing → Firing) : (s.modFiring x p k).poison = s.poison := rfl
@[simp] theorem State.modFiring_l2 (x : FeId) (p : Nat) (k : Firing → Firing) : (s.modFiring x p k).l2 = s.l2 := rfl
@[simp] theorem State.modFiring_rdc (x : FeId) (p : Nat) (k : Firing → Firing) : (s.modFiring x p k).rdc = s.rdc := rfl
@[simp] theorem State.modFiring_tlb (x : FeId) (p : Nat) (k : Firing → Firing) : (s.modFiring x p k).tlb = s.tlb := rfl
@[simp] theorem State.modFiring_tent (x : FeId) (p : Nat) (k : Firing → Firing) : (s.modFiring x p k).tent = s.tent := rfl
@[simp] theorem State.modFiring_returns (x : FeId) (p : Nat) (k : Firing → Firing) : (s.modFiring x p k).returns = s.returns := rfl
@[simp] theorem State.modFiring_lmem (x : FeId) (p : Nat) (k : Firing → Firing) : (s.modFiring x p k).lmem = s.lmem := rfl
@[simp] theorem State.modFiring_roots (x : FeId) (p : Nat) (k : Firing → Firing) : (s.modFiring x p k).roots = s.roots := rfl
@[simp] theorem State.modFiring_ctxAreas (x : FeId) (p : Nat) (k : Firing → Firing) : (s.modFiring x p k).ctxAreas = s.ctxAreas := rfl
@[simp] theorem State.modFiring_threads (x : FeId) (p : Nat) (k : Firing → Firing) : (s.modFiring x p k).threads = s.threads := rfl
@[simp] theorem State.modFiring_islands (x : FeId) (p : Nat) (k : Firing → Firing) : (s.modFiring x p k).islands = s.islands := rfl
@[simp] theorem State.modFiring_routes (x : FeId) (p : Nat) (k : Firing → Firing) : (s.modFiring x p k).routes = s.routes := rfl
@[simp] theorem State.modFiring_latches (x : FeId) (p : Nat) (k : Firing → Firing) : (s.modFiring x p k).latches = s.latches := rfl
@[simp] theorem State.modFiring_dies (x : FeId) (p : Nat) (k : Firing → Firing) : (s.modFiring x p k).dies = s.dies := rfl
@[simp] theorem State.modFiring_sent (x : FeId) (p : Nat) (k : Firing → Firing) : (s.modFiring x p k).sent = s.sent := rfl
@[simp] theorem State.modFiring_heldReqs (x : FeId) (p : Nat) (k : Firing → Firing) : (s.modFiring x p k).heldReqs = s.heldReqs := rfl
@[simp] theorem State.modFiring_code (x : FeId) (p : Nat) (k : Firing → Firing) : (s.modFiring x p k).code = s.code := rfl
@[simp] theorem State.modFiring_front (x : FeId) (p : Nat) (k : Firing → Firing) : (s.modFiring x p k).front = s.front := rfl

/-! ### modCur -/

@[simp] theorem State.modCur_agenda (f : Thread → Thread) : (s.modCur f).agenda = s.agenda := rfl
@[simp] theorem State.modCur_curThread (f : Thread → Thread) : (s.modCur f).curThread = s.curThread := rfl
@[simp] theorem State.modCur_curFe (f : Thread → Thread) : (s.modCur f).curFe = s.curFe := rfl
@[simp] theorem State.modCur_curMtu (f : Thread → Thread) : (s.modCur f).curMtu = s.curMtu := rfl
@[simp] theorem State.modCur_tick (f : Thread → Thread) : (s.modCur f).tick = s.tick := rfl
@[simp] theorem State.modCur_booted (f : Thread → Thread) : (s.modCur f).booted = s.booted := rfl
@[simp] theorem State.modCur_recovery (f : Thread → Thread) : (s.modCur f).recovery = s.recovery := rfl
@[simp] theorem State.modCur_cyc (f : Thread → Thread) : (s.modCur f).cyc = s.cyc := rfl
@[simp] theorem State.modCur_mem (f : Thread → Thread) : (s.modCur f).mem = s.mem := rfl
@[simp] theorem State.modCur_tags (f : Thread → Thread) : (s.modCur f).tags = s.tags := rfl
@[simp] theorem State.modCur_poison (f : Thread → Thread) : (s.modCur f).poison = s.poison := rfl
@[simp] theorem State.modCur_l2 (f : Thread → Thread) : (s.modCur f).l2 = s.l2 := rfl
@[simp] theorem State.modCur_rdc (f : Thread → Thread) : (s.modCur f).rdc = s.rdc := rfl
@[simp] theorem State.modCur_tlb (f : Thread → Thread) : (s.modCur f).tlb = s.tlb := rfl
@[simp] theorem State.modCur_tent (f : Thread → Thread) : (s.modCur f).tent = s.tent := rfl
@[simp] theorem State.modCur_returns (f : Thread → Thread) : (s.modCur f).returns = s.returns := rfl
@[simp] theorem State.modCur_lmem (f : Thread → Thread) : (s.modCur f).lmem = s.lmem := rfl
@[simp] theorem State.modCur_roots (f : Thread → Thread) : (s.modCur f).roots = s.roots := rfl
@[simp] theorem State.modCur_ctxAreas (f : Thread → Thread) : (s.modCur f).ctxAreas = s.ctxAreas := rfl
@[simp] theorem State.modCur_fes (f : Thread → Thread) : (s.modCur f).fes = s.fes := rfl
@[simp] theorem State.modCur_islands (f : Thread → Thread) : (s.modCur f).islands = s.islands := rfl
@[simp] theorem State.modCur_routes (f : Thread → Thread) : (s.modCur f).routes = s.routes := rfl
@[simp] theorem State.modCur_latches (f : Thread → Thread) : (s.modCur f).latches = s.latches := rfl
@[simp] theorem State.modCur_dies (f : Thread → Thread) : (s.modCur f).dies = s.dies := rfl
@[simp] theorem State.modCur_sent (f : Thread → Thread) : (s.modCur f).sent = s.sent := rfl
@[simp] theorem State.modCur_heldReqs (f : Thread → Thread) : (s.modCur f).heldReqs = s.heldReqs := rfl
@[simp] theorem State.modCur_code (f : Thread → Thread) : (s.modCur f).code = s.code := rfl
@[simp] theorem State.modCur_front (f : Thread → Thread) : (s.modCur f).front = s.front := rfl

/-! ### wr -/

@[simp] theorem State.wr_agenda (d : BitVec 5) (v : Word) : (s.wr d v).agenda = s.agenda := rfl
@[simp] theorem State.wr_curThread (d : BitVec 5) (v : Word) : (s.wr d v).curThread = s.curThread := rfl
@[simp] theorem State.wr_curFe (d : BitVec 5) (v : Word) : (s.wr d v).curFe = s.curFe := rfl
@[simp] theorem State.wr_curMtu (d : BitVec 5) (v : Word) : (s.wr d v).curMtu = s.curMtu := rfl
@[simp] theorem State.wr_tick (d : BitVec 5) (v : Word) : (s.wr d v).tick = s.tick := rfl
@[simp] theorem State.wr_booted (d : BitVec 5) (v : Word) : (s.wr d v).booted = s.booted := rfl
@[simp] theorem State.wr_recovery (d : BitVec 5) (v : Word) : (s.wr d v).recovery = s.recovery := rfl
@[simp] theorem State.wr_cyc (d : BitVec 5) (v : Word) : (s.wr d v).cyc = s.cyc := rfl
@[simp] theorem State.wr_mem (d : BitVec 5) (v : Word) : (s.wr d v).mem = s.mem := rfl
@[simp] theorem State.wr_tags (d : BitVec 5) (v : Word) : (s.wr d v).tags = s.tags := rfl
@[simp] theorem State.wr_poison (d : BitVec 5) (v : Word) : (s.wr d v).poison = s.poison := rfl
@[simp] theorem State.wr_l2 (d : BitVec 5) (v : Word) : (s.wr d v).l2 = s.l2 := rfl
@[simp] theorem State.wr_rdc (d : BitVec 5) (v : Word) : (s.wr d v).rdc = s.rdc := rfl
@[simp] theorem State.wr_tlb (d : BitVec 5) (v : Word) : (s.wr d v).tlb = s.tlb := rfl
@[simp] theorem State.wr_tent (d : BitVec 5) (v : Word) : (s.wr d v).tent = s.tent := rfl
@[simp] theorem State.wr_returns (d : BitVec 5) (v : Word) : (s.wr d v).returns = s.returns := rfl
@[simp] theorem State.wr_lmem (d : BitVec 5) (v : Word) : (s.wr d v).lmem = s.lmem := rfl
@[simp] theorem State.wr_roots (d : BitVec 5) (v : Word) : (s.wr d v).roots = s.roots := rfl
@[simp] theorem State.wr_ctxAreas (d : BitVec 5) (v : Word) : (s.wr d v).ctxAreas = s.ctxAreas := rfl
@[simp] theorem State.wr_fes (d : BitVec 5) (v : Word) : (s.wr d v).fes = s.fes := rfl
@[simp] theorem State.wr_islands (d : BitVec 5) (v : Word) : (s.wr d v).islands = s.islands := rfl
@[simp] theorem State.wr_routes (d : BitVec 5) (v : Word) : (s.wr d v).routes = s.routes := rfl
@[simp] theorem State.wr_latches (d : BitVec 5) (v : Word) : (s.wr d v).latches = s.latches := rfl
@[simp] theorem State.wr_dies (d : BitVec 5) (v : Word) : (s.wr d v).dies = s.dies := rfl
@[simp] theorem State.wr_sent (d : BitVec 5) (v : Word) : (s.wr d v).sent = s.sent := rfl
@[simp] theorem State.wr_heldReqs (d : BitVec 5) (v : Word) : (s.wr d v).heldReqs = s.heldReqs := rfl
@[simp] theorem State.wr_code (d : BitVec 5) (v : Word) : (s.wr d v).code = s.code := rfl
@[simp] theorem State.wr_front (d : BitVec 5) (v : Word) : (s.wr d v).front = s.front := rfl

/-! ### modTile -/

@[simp] theorem State.modTile_agenda (d e t : Nat) (f : GTile → GTile) : (s.modTile d e t f).agenda = s.agenda := rfl
@[simp] theorem State.modTile_curThread (d e t : Nat) (f : GTile → GTile) : (s.modTile d e t f).curThread = s.curThread := rfl
@[simp] theorem State.modTile_curFe (d e t : Nat) (f : GTile → GTile) : (s.modTile d e t f).curFe = s.curFe := rfl
@[simp] theorem State.modTile_curMtu (d e t : Nat) (f : GTile → GTile) : (s.modTile d e t f).curMtu = s.curMtu := rfl
@[simp] theorem State.modTile_tick (d e t : Nat) (f : GTile → GTile) : (s.modTile d e t f).tick = s.tick := rfl
@[simp] theorem State.modTile_booted (d e t : Nat) (f : GTile → GTile) : (s.modTile d e t f).booted = s.booted := rfl
@[simp] theorem State.modTile_recovery (d e t : Nat) (f : GTile → GTile) : (s.modTile d e t f).recovery = s.recovery := rfl
@[simp] theorem State.modTile_cyc (d e t : Nat) (f : GTile → GTile) : (s.modTile d e t f).cyc = s.cyc := rfl
@[simp] theorem State.modTile_mem (d e t : Nat) (f : GTile → GTile) : (s.modTile d e t f).mem = s.mem := rfl
@[simp] theorem State.modTile_tags (d e t : Nat) (f : GTile → GTile) : (s.modTile d e t f).tags = s.tags := rfl
@[simp] theorem State.modTile_poison (d e t : Nat) (f : GTile → GTile) : (s.modTile d e t f).poison = s.poison := rfl
@[simp] theorem State.modTile_l2 (d e t : Nat) (f : GTile → GTile) : (s.modTile d e t f).l2 = s.l2 := rfl
@[simp] theorem State.modTile_rdc (d e t : Nat) (f : GTile → GTile) : (s.modTile d e t f).rdc = s.rdc := rfl
@[simp] theorem State.modTile_tlb (d e t : Nat) (f : GTile → GTile) : (s.modTile d e t f).tlb = s.tlb := rfl
@[simp] theorem State.modTile_tent (d e t : Nat) (f : GTile → GTile) : (s.modTile d e t f).tent = s.tent := rfl
@[simp] theorem State.modTile_returns (d e t : Nat) (f : GTile → GTile) : (s.modTile d e t f).returns = s.returns := rfl
@[simp] theorem State.modTile_lmem (d e t : Nat) (f : GTile → GTile) : (s.modTile d e t f).lmem = s.lmem := rfl
@[simp] theorem State.modTile_roots (d e t : Nat) (f : GTile → GTile) : (s.modTile d e t f).roots = s.roots := rfl
@[simp] theorem State.modTile_ctxAreas (d e t : Nat) (f : GTile → GTile) : (s.modTile d e t f).ctxAreas = s.ctxAreas := rfl
@[simp] theorem State.modTile_threads (d e t : Nat) (f : GTile → GTile) : (s.modTile d e t f).threads = s.threads := rfl
@[simp] theorem State.modTile_fes (d e t : Nat) (f : GTile → GTile) : (s.modTile d e t f).fes = s.fes := rfl
@[simp] theorem State.modTile_islands (d e t : Nat) (f : GTile → GTile) : (s.modTile d e t f).islands = s.islands := rfl
@[simp] theorem State.modTile_routes (d e t : Nat) (f : GTile → GTile) : (s.modTile d e t f).routes = s.routes := rfl
@[simp] theorem State.modTile_latches (d e t : Nat) (f : GTile → GTile) : (s.modTile d e t f).latches = s.latches := rfl
@[simp] theorem State.modTile_sent (d e t : Nat) (f : GTile → GTile) : (s.modTile d e t f).sent = s.sent := rfl
@[simp] theorem State.modTile_heldReqs (d e t : Nat) (f : GTile → GTile) : (s.modTile d e t f).heldReqs = s.heldReqs := rfl
@[simp] theorem State.modTile_code (d e t : Nat) (f : GTile → GTile) : (s.modTile d e t f).code = s.code := rfl
@[simp] theorem State.modTile_front (d e t : Nat) (f : GTile → GTile) : (s.modTile d e t f).front = s.front := rfl

/-! ### frqDue -/

@[simp] theorem State.frqDue_agenda (d : Nat) (r : Rec8) (c : Nat) (q : Option Requester) : (s.frqDue d r c q).agenda = s.agenda := rfl
@[simp] theorem State.frqDue_curThread (d : Nat) (r : Rec8) (c : Nat) (q : Option Requester) : (s.frqDue d r c q).curThread = s.curThread := rfl
@[simp] theorem State.frqDue_curFe (d : Nat) (r : Rec8) (c : Nat) (q : Option Requester) : (s.frqDue d r c q).curFe = s.curFe := rfl
@[simp] theorem State.frqDue_curMtu (d : Nat) (r : Rec8) (c : Nat) (q : Option Requester) : (s.frqDue d r c q).curMtu = s.curMtu := rfl
@[simp] theorem State.frqDue_tick (d : Nat) (r : Rec8) (c : Nat) (q : Option Requester) : (s.frqDue d r c q).tick = s.tick := rfl
@[simp] theorem State.frqDue_booted (d : Nat) (r : Rec8) (c : Nat) (q : Option Requester) : (s.frqDue d r c q).booted = s.booted := rfl
@[simp] theorem State.frqDue_recovery (d : Nat) (r : Rec8) (c : Nat) (q : Option Requester) : (s.frqDue d r c q).recovery = s.recovery := rfl
@[simp] theorem State.frqDue_cyc (d : Nat) (r : Rec8) (c : Nat) (q : Option Requester) : (s.frqDue d r c q).cyc = s.cyc := rfl
@[simp] theorem State.frqDue_mem (d : Nat) (r : Rec8) (c : Nat) (q : Option Requester) : (s.frqDue d r c q).mem = s.mem := rfl
@[simp] theorem State.frqDue_tags (d : Nat) (r : Rec8) (c : Nat) (q : Option Requester) : (s.frqDue d r c q).tags = s.tags := rfl
@[simp] theorem State.frqDue_poison (d : Nat) (r : Rec8) (c : Nat) (q : Option Requester) : (s.frqDue d r c q).poison = s.poison := rfl
@[simp] theorem State.frqDue_l2 (d : Nat) (r : Rec8) (c : Nat) (q : Option Requester) : (s.frqDue d r c q).l2 = s.l2 := rfl
@[simp] theorem State.frqDue_rdc (d : Nat) (r : Rec8) (c : Nat) (q : Option Requester) : (s.frqDue d r c q).rdc = s.rdc := rfl
@[simp] theorem State.frqDue_tlb (d : Nat) (r : Rec8) (c : Nat) (q : Option Requester) : (s.frqDue d r c q).tlb = s.tlb := rfl
@[simp] theorem State.frqDue_tent (d : Nat) (r : Rec8) (c : Nat) (q : Option Requester) : (s.frqDue d r c q).tent = s.tent := rfl
@[simp] theorem State.frqDue_returns (d : Nat) (r : Rec8) (c : Nat) (q : Option Requester) : (s.frqDue d r c q).returns = s.returns := rfl
@[simp] theorem State.frqDue_lmem (d : Nat) (r : Rec8) (c : Nat) (q : Option Requester) : (s.frqDue d r c q).lmem = s.lmem := rfl
@[simp] theorem State.frqDue_roots (d : Nat) (r : Rec8) (c : Nat) (q : Option Requester) : (s.frqDue d r c q).roots = s.roots := rfl
@[simp] theorem State.frqDue_ctxAreas (d : Nat) (r : Rec8) (c : Nat) (q : Option Requester) : (s.frqDue d r c q).ctxAreas = s.ctxAreas := rfl
@[simp] theorem State.frqDue_threads (d : Nat) (r : Rec8) (c : Nat) (q : Option Requester) : (s.frqDue d r c q).threads = s.threads := rfl
@[simp] theorem State.frqDue_fes (d : Nat) (r : Rec8) (c : Nat) (q : Option Requester) : (s.frqDue d r c q).fes = s.fes := rfl
@[simp] theorem State.frqDue_islands (d : Nat) (r : Rec8) (c : Nat) (q : Option Requester) : (s.frqDue d r c q).islands = s.islands := rfl
@[simp] theorem State.frqDue_routes (d : Nat) (r : Rec8) (c : Nat) (q : Option Requester) : (s.frqDue d r c q).routes = s.routes := rfl
@[simp] theorem State.frqDue_latches (d : Nat) (r : Rec8) (c : Nat) (q : Option Requester) : (s.frqDue d r c q).latches = s.latches := rfl
@[simp] theorem State.frqDue_sent (d : Nat) (r : Rec8) (c : Nat) (q : Option Requester) : (s.frqDue d r c q).sent = s.sent := rfl
@[simp] theorem State.frqDue_heldReqs (d : Nat) (r : Rec8) (c : Nat) (q : Option Requester) : (s.frqDue d r c q).heldReqs = s.heldReqs := rfl
@[simp] theorem State.frqDue_code (d : Nat) (r : Rec8) (c : Nat) (q : Option Requester) : (s.frqDue d r c q).code = s.code := rfl
@[simp] theorem State.frqDue_front (d : Nat) (r : Rec8) (c : Nat) (q : Option Requester) : (s.frqDue d r c q).front = s.front := rfl

/-! ### stall -/

@[simp] theorem State.stall_agenda : (s.stall ).agenda = s.agenda := rfl
@[simp] theorem State.stall_curThread : (s.stall ).curThread = s.curThread := rfl
@[simp] theorem State.stall_curFe : (s.stall ).curFe = s.curFe := rfl
@[simp] theorem State.stall_curMtu : (s.stall ).curMtu = s.curMtu := rfl
@[simp] theorem State.stall_tick : (s.stall ).tick = s.tick := rfl
@[simp] theorem State.stall_booted : (s.stall ).booted = s.booted := rfl
@[simp] theorem State.stall_recovery : (s.stall ).recovery = s.recovery := rfl
@[simp] theorem State.stall_cyc : (s.stall ).cyc = s.cyc := rfl
@[simp] theorem State.stall_mem : (s.stall ).mem = s.mem := rfl
@[simp] theorem State.stall_tags : (s.stall ).tags = s.tags := rfl
@[simp] theorem State.stall_poison : (s.stall ).poison = s.poison := rfl
@[simp] theorem State.stall_l2 : (s.stall ).l2 = s.l2 := rfl
@[simp] theorem State.stall_rdc : (s.stall ).rdc = s.rdc := rfl
@[simp] theorem State.stall_tlb : (s.stall ).tlb = s.tlb := rfl
@[simp] theorem State.stall_tent : (s.stall ).tent = s.tent := rfl
@[simp] theorem State.stall_returns : (s.stall ).returns = s.returns := rfl
@[simp] theorem State.stall_lmem : (s.stall ).lmem = s.lmem := rfl
@[simp] theorem State.stall_roots : (s.stall ).roots = s.roots := rfl
@[simp] theorem State.stall_ctxAreas : (s.stall ).ctxAreas = s.ctxAreas := rfl
@[simp] theorem State.stall_fes : (s.stall ).fes = s.fes := rfl
@[simp] theorem State.stall_islands : (s.stall ).islands = s.islands := rfl
@[simp] theorem State.stall_routes : (s.stall ).routes = s.routes := rfl
@[simp] theorem State.stall_latches : (s.stall ).latches = s.latches := rfl
@[simp] theorem State.stall_dies : (s.stall ).dies = s.dies := rfl
@[simp] theorem State.stall_sent : (s.stall ).sent = s.sent := rfl
@[simp] theorem State.stall_heldReqs : (s.stall ).heldReqs = s.heldReqs := rfl
@[simp] theorem State.stall_code : (s.stall ).code = s.code := rfl
@[simp] theorem State.stall_front : (s.stall ).front = s.front := rfl

/-! ### retireAt -/

@[simp] theorem State.retireAt_agenda (p : BitVec 3) (pc : Word) : (s.retireAt p pc).agenda = s.agenda := rfl
@[simp] theorem State.retireAt_curThread (p : BitVec 3) (pc : Word) : (s.retireAt p pc).curThread = s.curThread := rfl
@[simp] theorem State.retireAt_curFe (p : BitVec 3) (pc : Word) : (s.retireAt p pc).curFe = s.curFe := rfl
@[simp] theorem State.retireAt_curMtu (p : BitVec 3) (pc : Word) : (s.retireAt p pc).curMtu = s.curMtu := rfl
@[simp] theorem State.retireAt_tick (p : BitVec 3) (pc : Word) : (s.retireAt p pc).tick = s.tick := rfl
@[simp] theorem State.retireAt_booted (p : BitVec 3) (pc : Word) : (s.retireAt p pc).booted = s.booted := rfl
@[simp] theorem State.retireAt_recovery (p : BitVec 3) (pc : Word) : (s.retireAt p pc).recovery = s.recovery := rfl
@[simp] theorem State.retireAt_cyc (p : BitVec 3) (pc : Word) : (s.retireAt p pc).cyc = s.cyc := rfl
@[simp] theorem State.retireAt_mem (p : BitVec 3) (pc : Word) : (s.retireAt p pc).mem = s.mem := rfl
@[simp] theorem State.retireAt_tags (p : BitVec 3) (pc : Word) : (s.retireAt p pc).tags = s.tags := rfl
@[simp] theorem State.retireAt_poison (p : BitVec 3) (pc : Word) : (s.retireAt p pc).poison = s.poison := rfl
@[simp] theorem State.retireAt_l2 (p : BitVec 3) (pc : Word) : (s.retireAt p pc).l2 = s.l2 := rfl
@[simp] theorem State.retireAt_rdc (p : BitVec 3) (pc : Word) : (s.retireAt p pc).rdc = s.rdc := rfl
@[simp] theorem State.retireAt_tlb (p : BitVec 3) (pc : Word) : (s.retireAt p pc).tlb = s.tlb := rfl
@[simp] theorem State.retireAt_tent (p : BitVec 3) (pc : Word) : (s.retireAt p pc).tent = s.tent := rfl
@[simp] theorem State.retireAt_returns (p : BitVec 3) (pc : Word) : (s.retireAt p pc).returns = s.returns := rfl
@[simp] theorem State.retireAt_lmem (p : BitVec 3) (pc : Word) : (s.retireAt p pc).lmem = s.lmem := rfl
@[simp] theorem State.retireAt_roots (p : BitVec 3) (pc : Word) : (s.retireAt p pc).roots = s.roots := rfl
@[simp] theorem State.retireAt_ctxAreas (p : BitVec 3) (pc : Word) : (s.retireAt p pc).ctxAreas = s.ctxAreas := rfl
@[simp] theorem State.retireAt_fes (p : BitVec 3) (pc : Word) : (s.retireAt p pc).fes = s.fes := rfl
@[simp] theorem State.retireAt_islands (p : BitVec 3) (pc : Word) : (s.retireAt p pc).islands = s.islands := rfl
@[simp] theorem State.retireAt_routes (p : BitVec 3) (pc : Word) : (s.retireAt p pc).routes = s.routes := rfl
@[simp] theorem State.retireAt_latches (p : BitVec 3) (pc : Word) : (s.retireAt p pc).latches = s.latches := rfl
@[simp] theorem State.retireAt_dies (p : BitVec 3) (pc : Word) : (s.retireAt p pc).dies = s.dies := rfl
@[simp] theorem State.retireAt_sent (p : BitVec 3) (pc : Word) : (s.retireAt p pc).sent = s.sent := rfl
@[simp] theorem State.retireAt_heldReqs (p : BitVec 3) (pc : Word) : (s.retireAt p pc).heldReqs = s.heldReqs := rfl
@[simp] theorem State.retireAt_code (p : BitVec 3) (pc : Word) : (s.retireAt p pc).code = s.code := rfl
@[simp] theorem State.retireAt_front (p : BitVec 3) (pc : Word) : (s.retireAt p pc).front = s.front := rfl


/-! ### Accessors -/

@[simp] theorem State.thr_modThr_same (u : ThreadId) (f : Thread → Thread) : (s.modThr u f).thr u = f (s.thr u) :=
  mapGet_mapSet_same _ _ _ _

theorem State.thr_modThr_other {u v : ThreadId} (f : Thread → Thread) (h : u ≠ v) : (s.modThr u f).thr v = s.thr v :=
  mapGet_mapSet_other _ _ _ h

@[simp] theorem State.fe_modFe_same (x : FeId) (g : Fe → Fe) : (s.modFe x g).fe x = g (s.fe x) :=
  mapGet_mapSet_same _ _ _ _

theorem State.fe_modFe_other {x y : FeId} (g : Fe → Fe) (h : x ≠ y) : (s.modFe x g).fe y = s.fe y :=
  mapGet_mapSet_other _ _ _ h

@[simp] theorem State.die_modDie_same {d : Nat} (f : Die → Die) (h : d < 4) : (s.modDie d f).die d = f (s.die d) :=
  vget_vmod_same _ _ h

theorem State.die_modDie_other {d e : Nat} (f : Die → Die) (h : d ≠ e) : (s.modDie d f).die e = s.die e :=
  vget_vmod_other _ _ h

theorem State.hasRes_die {r : ResId} (h : s.hasRes r = true) : r.die < 4 := by
  refine Nat.lt_of_not_le fun hd => ?_
  have : s.die r.die = default := by
    simp [State.die, vget, List.getD_eq_getElem?_getD, hd]
  simp only [State.hasRes, this] at h
  exact Bool.false_ne_true h

@[simp] theorem State.res_modRes_same {r : ResId} (f : Residency → Residency) (h : s.hasRes r = true) :
    (s.modRes r f).res r = f (s.res r) := by
  have hd := s.hasRes_die h
  simp only [State.modRes, h, if_true]
  rw [State.res, State.die_modDie_same _ _ hd]
  exact mapGet_mapSet_same _ _ _ _

theorem State.modRes_none {r : ResId} (f : Residency → Residency) (h : s.hasRes r = false) : s.modRes r f = s := by
  simp [State.modRes, h]

@[simp] theorem State.thr_modFe (x : FeId) (g : Fe → Fe) (t : ThreadId) : (s.modFe x g).thr t = s.thr t := rfl
@[simp] theorem State.thr_modDie (d : Nat) (f : Die → Die) (t : ThreadId) : (s.modDie d f).thr t = s.thr t := rfl
@[simp] theorem State.thr_modRes (r : ResId) (f : Residency → Residency) (t : ThreadId) :
    (s.modRes r f).thr t = s.thr t := by simp [State.thr]
@[simp] theorem State.fe_modThr (u : ThreadId) (f : Thread → Thread) (x : FeId) : (s.modThr u f).fe x = s.fe x := rfl
@[simp] theorem State.fe_modDie (d : Nat) (f : Die → Die) (x : FeId) : (s.modDie d f).fe x = s.fe x := rfl
@[simp] theorem State.fe_modRes (r : ResId) (f : Residency → Residency) (x : FeId) : (s.modRes r f).fe x = s.fe x := by
  simp [State.fe]
@[simp] theorem State.die_modThr (u : ThreadId) (f : Thread → Thread) (d : Nat) : (s.modThr u f).die d = s.die d := rfl
@[simp] theorem State.die_modFe (x : FeId) (g : Fe → Fe) (d : Nat) : (s.modFe x g).die d = s.die d := rfl
@[simp] theorem State.res_modThr (u : ThreadId) (f : Thread → Thread) (r : ResId) : (s.modThr u f).res r = s.res r := rfl
@[simp] theorem State.res_modFe (x : FeId) (g : Fe → Fe) (r : ResId) : (s.modFe x g).res r = s.res r := rfl

/-! ### Registers of a thread (09 R175) -/

@[simp] theorem Thread.reg_zero (x : Thread) : x.reg 0#5 = 0 := rfl
@[simp] theorem Thread.setReg_zero (x : Thread) (v : Word) : x.setReg 0#5 v = x := rfl

@[simp] theorem Thread.reg_setReg_same (x : Thread) {d : BitVec 5} (v : Word) (h : d ≠ 0) : (x.setReg d v).reg d = v := by
  simp only [Thread.reg, Thread.setReg, if_neg h]
  exact vget_vset_same _ _ d.isLt

theorem Thread.reg_setReg_other (x : Thread) {d r : BitVec 5} (v : Word) (h : d ≠ r) : (x.setReg d v).reg r = x.reg r := by
  have hn : d.toNat ≠ r.toNat := fun e => h (BitVec.eq_of_toNat_eq e)
  simp only [Thread.reg, Thread.setReg]
  split
  · rfl
  · split
    · rfl
    · exact vget_vset_other _ _ hn

@[simp] theorem Thread.setReg_pc (x : Thread) (d : BitVec 5) (v : Word) : (x.setReg d v).pc = x.pc := by
  unfold Thread.setReg; split <;> rfl

/-- The write of a register changes the registers and nothing else of the thread. -/
theorem Thread.setReg_frame (x : Thread) (d : BitVec 5) (v : Word) : { x.setReg d v with g := x.g } = x := by
  unfold Thread.setReg; split <;> rfl

end

end Sys2Proof.Machine
end

