-- ==== Sys2Proof/Laws/Control.lean ====
section
/-! SUPPORT. What the frame of a control instruction can do: retirement, stalls, clauses, register writes. -/

namespace Sys2Proof.Machine

/-- Changing the current thread's record changes nothing else. -/
theorem State.modCur_only (s : State) (f : Thread → Thread) : s.onlyThread (s.modCur f) s.curThread :=
  ⟨rfl, fun _ h => State.thr_modThr_other s f (Ne.symm h)⟩

@[simp] theorem State.cur_modCur (s : State) (f : Thread → Thread) : (s.modCur f).cur = f s.cur :=
  State.thr_modThr_same s _ f

theorem State.onlyThread_trans {s t u : State} {x : ThreadId} (h : s.onlyThread t x) (k : t.onlyThread u x) :
    s.onlyThread u x :=
  ⟨by rw [k.1, h.1], fun v hv => (k.2 v hv).trans (h.2 v hv)⟩

theorem State.onlyThread_refl (s : State) (x : ThreadId) : s.onlyThread s x := ⟨rfl, fun _ _ => rfl⟩

/-- Pool and local memory are as before when only a thread's record has changed. -/
theorem State.onlyThread_mem {s t : State} {x : ThreadId} (h : s.onlyThread t x) : s.sameMem t := by
  have h1 := h.1
  exact ⟨fun a => by rw [h1], fun a => by rw [h1]⟩

/-- A thread that has retired at `pc`, its registers apart. -/
theorem State.wrote_intro {s t : State} {d : BitVec 5} {v pc : Word} (ho : s.onlyThread t s.curThread)
    (hc : t.cur = { s.cur.setReg d v with pc := pc, popTaken := none, waitFrom := none, stage := 0, bar := none, copied := none, status := .ready }) :
    s.wrote t d v pc := by
  refine ⟨?_, ?_, ?_, ho, State.onlyThread_mem ho⟩
  · show Thread.reg _ d = _
    rw [hc]
    by_cases h : d = 0
    · subst h; rfl
    · rw [if_neg h]; exact Thread.reg_setReg_same s.cur v h
  · intro r hr
    show Thread.reg _ r = _
    rw [hc]
    exact Thread.reg_setReg_other s.cur v (Ne.symm hr)
  · rw [hc]
    unfold Thread.setReg
    split <;> rfl

/-- Retiring without clauses changes only the thread's record. -/
theorem State.retireAt_only (s : State) (p : BitVec 3) (pc : Word) : s.onlyThread (s.retireAt p pc) s.curThread :=
  s.modCur_only _

theorem State.wr_only (s : State) (d : BitVec 5) (v : Word) : s.onlyThread (s.wr d v) s.curThread := s.modCur_only _

/-- Writing a register and retiring at `pc`, without clauses. -/
theorem State.wrote_of_retire (s : State) (d : BitVec 5) (v pc : Word) :
    s.wrote ((s.wr d v).retireAt 0 pc) d v pc :=
  State.wrote_intro (State.onlyThread_trans (s.wr_only d v) ((s.wr d v).retireAt_only 0 pc))
    (by simp [State.retireAt, State.wr])

/-- Retiring at `pc` and writing nothing. -/
theorem State.wrote_of_jump (s : State) (pc : Word) : s.wrote (s.retireAt 0 pc) 0 0 pc :=
  State.wrote_intro (s.retireAt_only 0 pc) (by simp [State.retireAt])

/-- The INT group: the value is written and the instruction retires. -/
theorem State.writes_spec (s : State) (d : BitVec 5) (v : Word) :
    ∃ t, s.writes d v = .next t ∧ s.wrote t d v (s.cur.pc + 4) :=
  ⟨_, rfl, s.wrote_of_retire d v _⟩

/-- A branch writes no register: it retires at its target or after itself. -/
theorem State.branch_spec (s : State) (o : BitVec 16) (c : Bool) :
    ∃ t, s.branch o c = .next t ∧ s.wrote t 0 0 (if c then s.cur.pc + 4 * o.signExtend 64 else s.cur.pc + 4) := by
  cases c
  · exact ⟨_, rfl, s.wrote_of_jump _⟩
  · exact ⟨_, rfl, s.wrote_of_jump _⟩

end Sys2Proof.Machine
end

