-- ==== Sys2Proof/Laws/Access.lean ====
section
/-! SUPPORT. What an access of a plain address does: it resolves to one piece, is observed by nothing, reads and writes
the bytes at its physical address. -/

namespace Sys2Proof.Machine

/-! ### Nothing observes -/

theorem State.watch_unobserved {s : State} (h : s.unobserved) (asid : BitVec 16) (pa len : Nat) (st : Bool)
    (u : Option Stopped) : s.watch asid pa len st u = s := by
  simp [State.watch, State.watchHits, State.armedFor, h.1]

theorem State.throughDoor_unobserved {s : State} (h : s.unobserved) (r : Option ResId) : s.throughDoor r = false := by
  cases r with
  | none => rfl
  | some r => simp [State.throughDoor, (h.2 r.die).2]

theorem State.captures_unobserved {s : State} (h : s.unobserved) (d cls : Nat) (asid : BitVec 16) (r : Option Nat) :
    (s.die d).captures cls asid r false = false := by
  simp [Die.captures, (h.2 d).1]

theorem State.traceRec_unobserved {s : State} (h : s.unobserved) (d cls : Nat) (asid : BitVec 16) (r : Option Nat)
    (page site plane : Nat) (a b : Word) : s.traceRec d cls asid r false page site plane a b = s := by
  simp [State.traceRec, State.captures_unobserved h]

theorem State.traceAccess_unobserved {s : State} (h : s.unobserved) (ag : Agent) (pa kind : Nat) :
    s.traceAccess ag pa kind = s := by
  simp only [State.traceAccess, State.traceHome, State.throughDoor_unobserved h]
  exact State.traceRec_unobserved h ..

/-- What caches hold is no matter to what observes. -/
theorem State.cached_unobserved {s t : State} (h : s.unobserved) (c : s.cached t) : t.unobserved := by
  rw [c]; exact h

/-! ### One piece -/

theorem linePieces_one {a n : Nat} (hn : 0 < n) (h : a % 64 + n ≤ 64) : linePieces a n = [(a, n)] := by
  have h1 : (a % 64 + n + 63) / 64 = 1 := by omega
  have h2 : min ((a / 64 + 1) * 64) (a + n) - a = n := by omega
  simp [linePieces, h1, h2, List.range_succ]

/-- A naturally aligned access lies in one line. -/
theorem aligned_in_line {a n : Nat} (h1 : 64 % n = 0) (h2 : a % n = 0) : a % 64 + n ≤ 64 := by
  obtain ⟨k, hk⟩ := Nat.dvd_of_mod_eq_zero h1
  have h3 : a % 64 % n = 0 := by rw [hk, Nat.mod_mul_right_mod]; exact h2
  obtain ⟨j, hj⟩ := Nat.dvd_of_mod_eq_zero h3
  have h4 : a % 64 < 64 := Nat.mod_lt _ (by omega)
  have h5 : n * j < n * k := by omega
  have h6 : j < k := Nat.lt_of_mul_lt_mul_left h5
  calc a % 64 + n = n * (j + 1) := by rw [hj, Nat.mul_succ]
    _ ≤ n * k := Nat.mul_le_mul_left n h6
    _ = 64 := hk.symm

theorem windowOf_glob {a : Nat} (h : a < 0x80000000000000) : windowOf a = some .glob := by
  unfold windowOf
  rw [if_pos h]

theorem State.window_glob (s : State) (ag : Agent) {a n : Nat} (hn : 0 < n) (h : a + n ≤ 0x80000000000000) :
    s.window ag a n = .ok (.glob, none) := by
  have h1 : windowOf a = some .glob := windowOf_glob (by omega)
  have h2 : windowOf (a + n - 1) = some .glob := windowOf_glob (by omega)
  simp [State.window, h1, h2]

/-- An access within one line of the global window, whose byte 0 translates with the permission it needs. -/
theorem State.resolve_one (s : State) (ag : Agent) {a n : Nat} {l : Leaf} {need : Need} (hn : 0 < n)
    (h : a + n ≤ 0x80000000000000) (hl : a % 64 + n ≤ 64) (ht : s.translate ag.die ag.asid a = .ok l)
    (hp : l.allows need = true) : s.resolve ag a n need = .ok [⟨a, n, .glob l.pa l a⟩] := by
  have h0 : ¬n = 0 := by omega
  simp [State.resolve, h0, s.window_glob ag hn h, linePieces_one hn hl, ht, hp]

theorem State.plainAt_resolve {s : State} {ag : Agent} {va n : Nat} {l : Leaf} (h : s.plainAt ag va n l) {need : Need}
    (hp : l.allows need = true) : s.resolve ag va n need = .ok [⟨va, n, .glob l.pa l va⟩] := by
  obtain ⟨h1, h2, _, h4, h5, h6, _, h8, _⟩ := h
  exact s.resolve_one ag h2 h6 (aligned_in_line h4 h1) h8 hp

/-! ### Loads and stores -/

theorem State.plainAt_gone {s : State} {ag : Agent} {va n : Nat} {l : Leaf} (h : s.plainAt ag va n l) :
    s.gone l va = none := by
  obtain ⟨_, _, _, _, _, _, _, _, h9, h10, _⟩ := h
  simp [State.gone, h9, h10]

theorem State.cached_refl (s : State) : s.cached s := rfl
theorem State.cached_trans {s t u : State} (h : s.cached t) (k : t.cached u) : s.cached u := by
  rw [State.cached, k, h]
theorem State.cached_modL2 (s : State) (line : Nat) (f : L2Line → L2Line) : s.cached (s.modL2 line f) := rfl
theorem State.cached_unholdReq (s : State) (q : Requester) (line : Nat) : s.cached (s.unholdReq q line) := rfl
theorem State.cached_rdcPut (s : State) (x : RdcLine) : s.cached (s.rdcPut x) := by
  unfold State.rdcPut
  split <;> rfl
theorem State.cached_l2Way {s s' : State} {line : Nat} (h : s.l2Way line = some s') : s.cached s' := by
  unfold State.l2Way at h
  split at h
  · cases h; rfl
  · split at h
    · cases h
    · split at h
      · cases h
      · cases h; rfl
theorem State.cached_l2Bring {s s' : State} {line : Nat} (h : s.l2Bring line = some s') : s.cached s' := by
  unfold State.l2Bring at h
  dsimp only at h
  split at h
  · cases h; rfl
  · obtain ⟨m, hm, rfl⟩ := Option.map_eq_some_iff.mp h
    exact State.cached_trans (State.cached_l2Way hm) rfl
theorem State.cached_l2For {s s' : State} {line : Nat} {a : BitVec 16} (h : s.l2For line a = some s') : s.cached s' := by
  unfold State.l2For at h
  obtain ⟨m, hm, rfl⟩ := Option.map_eq_some_iff.mp h
  split
  · exact State.cached_l2Bring hm
  · exact State.cached_trans (State.cached_l2Bring hm) (State.cached_modL2 _ _ _)
/-- Lines read as before when only the caches have changed. -/
theorem State.cached_line {s t : State} (h : s.cached t) (line : Nat) : t.line line = s.line line := by rw [h]; rfl
theorem State.cached_poisoned {s t : State} (h : s.cached t) (line : Nat) : t.poisoned line = s.poisoned line := by rw [h]; rfl

/-- A load of a calm line at its slice gets the line's bytes, and changes nothing but what the caches hold. -/
theorem State.sliceLoad_calm {s : State} {ag : Agent} {pa : Nat} {l : Leaf} (own : Bool) (hp : l.p = false)
    (hq : s.poisoned (pa / 64) = false) (hs : s.sent = []) (h : s.calmLine ag (pa / 64)) :
    ∃ t home, s.sliceLoad ag pa l own = (some ⟨s.line (pa / 64), false, home⟩, t) ∧ s.cached t := by
  obtain ⟨h1, h2, _⟩ := h
  unfold State.sliceLoad
  simp only [hp, hs, List.any_nil, Bool.false_eq_true, if_false]
  split
  · rename_i c hc
    split at hc
    · obtain ⟨e1, e2⟩ := h2 c hc
      exact ⟨s, false, by rw [e1, e2], rfl⟩
    · cases hc
  · obtain ⟨m, hm⟩ := Option.isSome_iff_exists.mp h1
    have hm' : ∃ s', s.l2For (pa / 64) ag.asid = some s' := by simp [State.l2For, hm]
    obtain ⟨s', hs'⟩ := hm'
    have c1 : s.cached s' := State.cached_l2For hs'
    have c2 : s.cached (s'.unholdReq ag.who (pa / 64)) := State.cached_trans c1 (State.cached_unholdReq _ _ _)
    have e1 : (s'.unholdReq ag.who (pa / 64)).line (pa / 64) = s.line (pa / 64) := State.cached_line c2 _
    have e2 : (s'.unholdReq ag.who (pa / 64)).poisoned (pa / 64) = false := (State.cached_poisoned c2 _).trans hq
    simp only [hs', e1, e2]
    refine ⟨_, true, rfl, ?_⟩
    split
    · exact State.cached_trans (State.cached_trans c2 (State.cached_modL2 _ _ _)) (State.cached_rdcPut _ _)
    · exact c2

/-- A load of a plain address reads its line, and changes nothing but what the caches hold. -/
theorem State.loadPiece_plain {s : State} {ag : Agent} {va n : Nat} {l : Leaf} (h : s.plainAt ag va n l) (acc : Acc) :
    ∃ t, s.loadPiece ag ⟨va, n, .glob l.pa l va⟩ acc = (.line (s.line (l.pa / 64)) false, t) ∧ s.cached t := by
  have hg := State.plainAt_gone h
  obtain ⟨_, _, _, _, _, _, _, _, h9, _, h11, h12, h13, _, h15, h16, h17, h18, h19, _⟩ := h
  have ht : (l.t && !l.p && decide (s.tag (l.pa / 64) ≠ 0)) = false := by
    cases hlt : l.t
    · rfl
    · simp [(h11 hlt).1]
  have hk : (l.t && !l.p && s.parkedAt ag.who (l.pa / 64)) = false := by
    cases hlt : l.t
    · rfl
    · simp [(h11 hlt).2]
  obtain ⟨t, home, e, c⟩ := State.sliceLoad_calm (ag := ag) (pa := l.pa) (l := l) false h9 h15 h19 h18
  have hr : s.readLine ag l.pa l va = (some ⟨s.line (l.pa / 64), false, home⟩, t) := by
    simp [State.readLine, h12, h13, State.tentCopy, e, overTent]
  refine ⟨t, ?_, c⟩
  have hu := State.cached_unobserved h17 c
  have hf : s.goneFor ag.who l l.pa va = none := by simp [State.goneFor, h9, hg]
  unfold State.loadPiece
  simp only [hf, h16, List.find?_nil, hk, ht, hr, Bool.false_eq_true, if_false]
  split
  · rw [State.watch_unobserved hu, State.traceAccess_unobserved hu]
  · rfl

/-- Bytes of a line are bytes of memory. -/
theorem Memory.readBytes_getElem? (m : Memory) (a n i : Nat) :
    (m.readBytes a n)[i]? = if i < n then some (m.read (a + i)) else none := by
  induction n generalizing a i with
  | zero => simp [Memory.readBytes]
  | succ n ih =>
    cases i with
    | zero => simp [Memory.readBytes]
    | succ i => simp [Memory.readBytes, ih, Nat.add_assoc, Nat.add_comm 1 i]

theorem leNat_lt (bs : List Byte) : leNat bs < 2 ^ (8 * bs.length) := by
  induction bs with
  | nil => simp [leNat]
  | cons b bs ih =>
    have hb : b.toNat < 256 := b.isLt
    have : 2 ^ (8 * (b :: bs).length) = 256 * 2 ^ (8 * bs.length) := by
      rw [List.length_cons, Nat.mul_succ, Nat.pow_add, Nat.mul_comm]
    rw [this, leNat]
    omega

theorem leBytes_leNat (bs : List Byte) : leBytes bs.length (leNat bs) = bs := by
  induction bs with
  | nil => rfl
  | cons b bs ih =>
    have hb : b.toNat < 256 := b.isLt
    have h1 : (b.toNat + 256 * leNat bs) / 256 = leNat bs := by omega
    have h2 : BitVec.ofNat 8 (b.toNat + 256 * leNat bs) = b := by
      apply BitVec.eq_of_toNat_eq
      rw [BitVec.toNat_ofNat]
      omega
    simp only [List.length_cons, leBytes, leNat, h1, h2, ih]

@[simp] theorem length_leBytes (n v : Nat) : (leBytes n v).length = n := by
  induction n generalizing v with
  | zero => rfl
  | succ n ih => simp [leBytes, ih]

/-- A line made of 64 bytes gives them back. -/
theorem lineBytes_lineOf {bs : List Byte} (h : bs.length = 64) : lineBytes (lineOf bs) = bs := by
  have h1 := leNat_lt bs
  rw [h] at h1
  have h2 : (BitVec.ofNat 512 (leNat bs)).toNat = leNat bs := (BitVec.toNat_ofNat _ _).trans (Nat.mod_eq_of_lt h1)
  rw [lineBytes, lineOf, h2]
  have := leBytes_leNat bs
  rwa [h] at this

theorem Memory.readBytes_slice (m : Memory) {a off n k : Nat} (h : off + n ≤ k) :
    ((m.readBytes a k).drop off).take n = m.readBytes (a + off) n := by
  apply List.ext_getElem?
  intro i
  rw [List.getElem?_take, List.getElem?_drop, Memory.readBytes_getElem?, Memory.readBytes_getElem?]
  by_cases hi : i < n
  · have : off + i < k := by omega
    simp [hi, this, Nat.add_assoc]
  · simp [hi]

/-- The bytes a piece takes of its line are those at its physical address. -/
theorem State.bytes_of_line (s : State) {va n : Nat} {l : Leaf} (h : l.pa % 64 + n ≤ 64) :
    Piece.bytes ⟨va, n, .glob l.pa l va⟩ (s.line (l.pa / 64)) = s.mem.readBytes l.pa n := by
  have h1 := lineBytes_lineOf (bs := s.mem.readBytes (l.pa / 64 * 64) 64) (by simp)
  simp only [Piece.bytes, lineSlice, State.line, h1]
  rw [Memory.readBytes_slice _ h]
  congr 1
  omega

/-- What changes with a line at its home leaves memory as it is. -/
@[simp] theorem State.retest_mem (s : State) (line : Nat) : (s.retest line).mem = s.mem := rfl
@[simp] theorem State.retest_lmem (s : State) (line : Nat) : (s.retest line).lmem = s.lmem := rfl

theorem State.cached_mems {s t : State} (h : s.cached t) : t.mem = s.mem ∧ t.lmem = s.lmem := by
  rw [h]
  exact ⟨rfl, rfl⟩
theorem State.l2Bring_mem {s s' : State} {line : Nat} (h : s.l2Bring line = some s') :
    s'.mem = s.mem ∧ s'.lmem = s.lmem := State.cached_mems (State.cached_l2Bring h)

@[simp] theorem State.peerSend_mem (s : State) (p : Nat) (m : LinkMsg) : (s.peerSend p m).mem = s.mem := by
  unfold State.peerSend
  split <;> rfl
@[simp] theorem State.peerSend_lmem (s : State) (p : Nat) (m : LinkMsg) : (s.peerSend p m).lmem = s.lmem := by
  unfold State.peerSend
  split <;> rfl
/-- Asking the peers to drop their copies changes no memory. -/
theorem State.invalidatePeers_mems (s : State) (q : Option Requester) (line : Nat) :
    (s.invalidatePeers q line).mem = s.mem ∧ (s.invalidatePeers q line).lmem = s.lmem := by
  unfold State.invalidatePeers
  generalize (List.range 64).filter s.peerUp = l
  induction l generalizing s with
  | nil => exact ⟨rfl, rfl⟩
  | cons p l ih =>
    rw [List.foldl_cons]
    obtain ⟨h1, h2⟩ := ih (s.ask { who := q, peer := p, line, kind := .inv, asks := q.isSome, msg := .inv p line })
    exact ⟨h1.trans (State.peerSend_mem s p _), h2.trans (State.peerSend_lmem s p _)⟩

theorem State.dirtied_mems (s : State) (b : Line) (q : Bool) (line : Nat) :
    (s.dirtied b q line).mem = s.mem ∧ (s.dirtied b q line).lmem = s.lmem := by
  unfold State.dirtied
  split
  · rename_i s' h
    obtain ⟨h1, h2⟩ := State.l2Bring_mem h
    exact ⟨h1, h2⟩
  · exact ⟨rfl, rfl⟩

/-- What a change of a line entails changes no memory. -/
theorem State.touched_mems (s : State) (b : Line) (q : Bool) (line : Nat) :
    (s.touched b q line).mem = s.mem ∧ (s.touched b q line).lmem = s.lmem := by
  obtain ⟨h1, h2⟩ := s.dirtied_mems b q line
  obtain ⟨h3, h4⟩ := State.invalidatePeers_mems (s.dirtied b q line) none line
  have h (m : State) (c : Bool) : (if c then (m.setPoison line true).count (m.homeSlice (line * 64)).1 1 1 else m).mem = m.mem ∧
      (if c then (m.setPoison line true).count (m.homeSlice (line * 64)).1 1 1 else m).lmem = m.lmem := by
    cases c <;> exact ⟨rfl, rfl⟩
  unfold State.touched
  simp only [State.retest_mem, State.retest_lmem]
  refine ⟨(h _ _).1.trans ?_, (h _ _).2.trans ?_⟩
  · show (if _ then _ else _ : State).mem = _
    split
    · exact h3.trans h1
    · exact h1
  · show (if _ then _ else _ : State).lmem = _
    split
    · exact h4.trans h2
    · exact h2
@[simp] theorem State.touched_mem (s : State) (b : Line) (q : Bool) (line : Nat) : (s.touched b q line).mem = s.mem :=
  (s.touched_mems b q line).1
@[simp] theorem State.touched_lmem (s : State) (b : Line) (q : Bool) (line : Nat) : (s.touched b q line).lmem = s.lmem :=
  (s.touched_mems b q line).2

/-- A write at home writes its bytes and no others. -/
@[simp] theorem State.homeWriteBy_mem (s : State) (w : Option Requester) (pa : Nat) (bs : List Byte) :
    (s.homeWriteBy w pa bs).mem = s.mem.writeBytes pa bs := by
  unfold State.homeWriteBy
  by_cases h : bs.length = 64 <;> simp [h]
@[simp] theorem State.homeWriteBy_lmem (s : State) (w : Option Requester) (pa : Nat) (bs : List Byte) :
    (s.homeWriteBy w pa bs).lmem = s.lmem := by
  unfold State.homeWriteBy
  by_cases h : bs.length = 64 <;> simp [h]

/-- A store at home to a cell that holds VALUE, or through an untagged mapping, writes its bytes and no others. -/
theorem State.homeStoreBy_mem (s : State) (w : Option Requester) {pa : Nat} {tagged : Bool} (bs : List Byte)
    (h : tagged = true → s.tag (pa / 64) = 0) : (s.homeStoreBy w pa tagged bs).mem = s.mem.writeBytes pa bs := by
  unfold State.homeStoreBy
  by_cases h0 : s.tag (pa / 64) = 0
  · simp [h0]
  · have : tagged = false := by
      cases tagged
      · rfl
      · exact absurd (h rfl) h0
    rw [if_neg h0, this]
    simp

end Sys2Proof.Machine
end

