-- ==== Sys2Proof/Laws/PerInstr.lean ====
section
/-! SUPPORT. Statements made of each instruction, one lemma per constructor. RoundTrip: decoding the encoding of a
well-formed instruction gives it back (04 R79-R102). -/

namespace Sys2Proof.Laws.RoundTrip

set_option Elab.async false
set_option linter.unusedSimpArgs false

/-- A word or record that encodes the instruction decodes to it, if it is well-formed. -/
def Statement (i : Instr) : Prop :=
  i.wf = true → (∀ w, encodeWord i = some w → decodeControl w = .ok i ∨ decodeElement w = .ok i) ∧
    ∀ w, encodeRecord i = some w → decodeMtu w = .ok i

theorem of_control {i : Instr} {w : BitVec 32} (he : encodeWord i = some w) (hr : encodeRecord i = none)
    (h : i.wf = true → decodeControl w = .ok i) : Statement i := by
  refine fun hw => ⟨fun v hv => .inl ?_, fun v hv => ?_⟩
  · rw [he] at hv; cases hv; exact h hw
  · rw [hr] at hv; cases hv

theorem of_element {i : Instr} {w : BitVec 32} (he : encodeWord i = some w) (hr : encodeRecord i = none)
    (h : i.wf = true → decodeElement w = .ok i) : Statement i := by
  refine fun hw => ⟨fun v hv => .inr ?_, fun v hv => ?_⟩
  · rw [he] at hv; cases hv; exact h hw
  · rw [hr] at hv; cases hv

theorem of_record {i : Instr} {w : BitVec 64} (he : encodeWord i = none) (hr : encodeRecord i = some w)
    (h : i.wf = true → decodeMtu w = .ok i) : Statement i := by
  refine fun hw => ⟨fun v hv => ?_, fun v hv => ?_⟩
  · rw [he] at hv; cases hv
  · rw [hr] at hv; cases hv; exact h hw

theorem of_event {i : Instr} (he : encodeWord i = none) (hr : encodeRecord i = none) : Statement i := by
  refine fun _ => ⟨fun v hv => ?_, fun v hv => ?_⟩
  · rw [he] at hv; cases hv
  · rw [hr] at hv; cases hv

theorem mtuFields_encodeFields (op : BitVec 6) (f : MtuFields) : mtuFields (encodeFields op f) = f := by
  cases f
  simp (disch := decide) only [mtuFields, encodeFields, fld, BitVec.extractLsb'_append_eq_of_le,
    BitVec.extractLsb'_append_eq_of_add_le]
  simp

theorem encodeFields_op (op : BitVec 6) (f : MtuFields) :
    fldN (encodeFields op f) 56 2 = 0 ∧ fldN (encodeFields op f) 58 6 = op.toNat := by
  constructor <;> (simp (disch := decide) only [encodeFields, fldN, BitVec.extractLsb'_append_eq_of_le,
    BitVec.extractLsb'_append_eq_of_add_le]; simp)

theorem add : ∀ d a b, Statement (.add d a b) := fun d a b => of_control rfl rfl fun h => by
  have hop : fldN (0x1#6 ++ d ++ a ++ b ++ 0x0#11) 26 6 = 1 := by
    simp (disch := decide) only [fldN, BitVec.extractLsb'_append_eq_of_le, BitVec.extractLsb'_append_eq_of_add_le]
    rfl
  simp only [decodeControl, hop]
  have hsub : fldN (0x1#6 ++ d ++ a ++ b ++ 0x0#11) 0 8 = 0 := by
    simp (disch := decide) only [fldN, BitVec.extractLsb'_append_eq_of_le, BitVec.extractLsb'_append_eq_of_add_le]
    rfl
  simp only [decodeCtl01, hsub]
  simp (disch := decide) only [fldN, fld, BitVec.extractLsb'_append_eq_of_le, BitVec.extractLsb'_append_eq_of_add_le,
    BitVec.extractLsb'_eq_self]
  simp [checked, h]

theorem sub : ∀ d a b, Statement (.sub d a b) := fun d a b => of_control rfl rfl fun h => by
  have hop : fldN (0x1#6 ++ d ++ a ++ b ++ 0x1#11) 26 6 = 1 := by
    simp (disch := decide) only [fldN, BitVec.extractLsb'_append_eq_of_le, BitVec.extractLsb'_append_eq_of_add_le]
    rfl
  simp only [decodeControl, hop]
  have hsub : fldN (0x1#6 ++ d ++ a ++ b ++ 0x1#11) 0 8 = 1 := by
    simp (disch := decide) only [fldN, BitVec.extractLsb'_append_eq_of_le, BitVec.extractLsb'_append_eq_of_add_le]
    rfl
  simp only [decodeCtl01, hsub]
  simp (disch := decide) only [fldN, fld, BitVec.extractLsb'_append_eq_of_le, BitVec.extractLsb'_append_eq_of_add_le,
    BitVec.extractLsb'_eq_self]
  simp [checked, h]

theorem and : ∀ d a b, Statement (.and d a b) := fun d a b => of_control rfl rfl fun h => by
  have hop : fldN (0x1#6 ++ d ++ a ++ b ++ 0x2#11) 26 6 = 1 := by
    simp (disch := decide) only [fldN, BitVec.extractLsb'_append_eq_of_le, BitVec.extractLsb'_append_eq_of_add_le]
    rfl
  simp only [decodeControl, hop]
  have hsub : fldN (0x1#6 ++ d ++ a ++ b ++ 0x2#11) 0 8 = 2 := by
    simp (disch := decide) only [fldN, BitVec.extractLsb'_append_eq_of_le, BitVec.extractLsb'_append_eq_of_add_le]
    rfl
  simp only [decodeCtl01, hsub]
  simp (disch := decide) only [fldN, fld, BitVec.extractLsb'_append_eq_of_le, BitVec.extractLsb'_append_eq_of_add_le,
    BitVec.extractLsb'_eq_self]
  simp [checked, h]

theorem or : ∀ d a b, Statement (.or d a b) := fun d a b => of_control rfl rfl fun h => by
  have hop : fldN (0x1#6 ++ d ++ a ++ b ++ 0x3#11) 26 6 = 1 := by
    simp (disch := decide) only [fldN, BitVec.extractLsb'_append_eq_of_le, BitVec.extractLsb'_append_eq_of_add_le]
    rfl
  simp only [decodeControl, hop]
  have hsub : fldN (0x1#6 ++ d ++ a ++ b ++ 0x3#11) 0 8 = 3 := by
    simp (disch := decide) only [fldN, BitVec.extractLsb'_append_eq_of_le, BitVec.extractLsb'_append_eq_of_add_le]
    rfl
  simp only [decodeCtl01, hsub]
  simp (disch := decide) only [fldN, fld, BitVec.extractLsb'_append_eq_of_le, BitVec.extractLsb'_append_eq_of_add_le,
    BitVec.extractLsb'_eq_self]
  simp [checked, h]

theorem xor : ∀ d a b, Statement (.xor d a b) := fun d a b => of_control rfl rfl fun h => by
  have hop : fldN (0x1#6 ++ d ++ a ++ b ++ 0x4#11) 26 6 = 1 := by
    simp (disch := decide) only [fldN, BitVec.extractLsb'_append_eq_of_le, BitVec.extractLsb'_append_eq_of_add_le]
    rfl
  simp only [decodeControl, hop]
  have hsub : fldN (0x1#6 ++ d ++ a ++ b ++ 0x4#11) 0 8 = 4 := by
    simp (disch := decide) only [fldN, BitVec.extractLsb'_append_eq_of_le, BitVec.extractLsb'_append_eq_of_add_le]
    rfl
  simp only [decodeCtl01, hsub]
  simp (disch := decide) only [fldN, fld, BitVec.extractLsb'_append_eq_of_le, BitVec.extractLsb'_append_eq_of_add_le,
    BitVec.extractLsb'_eq_self]
  simp [checked, h]

theorem andn : ∀ d a b, Statement (.andn d a b) := fun d a b => of_control rfl rfl fun h => by
  have hop : fldN (0x1#6 ++ d ++ a ++ b ++ 0x5#11) 26 6 = 1 := by
    simp (disch := decide) only [fldN, BitVec.extractLsb'_append_eq_of_le, BitVec.extractLsb'_append_eq_of_add_le]
    rfl
  simp only [decodeControl, hop]
  have hsub : fldN (0x1#6 ++ d ++ a ++ b ++ 0x5#11) 0 8 = 5 := by
    simp (disch := decide) only [fldN, BitVec.extractLsb'_append_eq_of_le, BitVec.extractLsb'_append_eq_of_add_le]
    rfl
  simp only [decodeCtl01, hsub]
  simp (disch := decide) only [fldN, fld, BitVec.extractLsb'_append_eq_of_le, BitVec.extractLsb'_append_eq_of_add_le,
    BitVec.extractLsb'_eq_self]
  simp [checked, h]

theorem shl : ∀ d a b, Statement (.shl d a b) := fun d a b => of_control rfl rfl fun h => by
  have hop : fldN (0x1#6 ++ d ++ a ++ b ++ 0x6#11) 26 6 = 1 := by
    simp (disch := decide) only [fldN, BitVec.extractLsb'_append_eq_of_le, BitVec.extractLsb'_append_eq_of_add_le]
    rfl
  simp only [decodeControl, hop]
  have hsub : fldN (0x1#6 ++ d ++ a ++ b ++ 0x6#11) 0 8 = 6 := by
    simp (disch := decide) only [fldN, BitVec.extractLsb'_append_eq_of_le, BitVec.extractLsb'_append_eq_of_add_le]
    rfl
  simp only [decodeCtl01, hsub]
  simp (disch := decide) only [fldN, fld, BitVec.extractLsb'_append_eq_of_le, BitVec.extractLsb'_append_eq_of_add_le,
    BitVec.extractLsb'_eq_self]
  simp [checked, h]

theorem shr : ∀ d a b, Statement (.shr d a b) := fun d a b => of_control rfl rfl fun h => by
  have hop : fldN (0x1#6 ++ d ++ a ++ b ++ 0x7#11) 26 6 = 1 := by
    simp (disch := decide) only [fldN, BitVec.extractLsb'_append_eq_of_le, BitVec.extractLsb'_append_eq_of_add_le]
    rfl
  simp only [decodeControl, hop]
  have hsub : fldN (0x1#6 ++ d ++ a ++ b ++ 0x7#11) 0 8 = 7 := by
    simp (disch := decide) only [fldN, BitVec.extractLsb'_append_eq_of_le, BitVec.extractLsb'_append_eq_of_add_le]
    rfl
  simp only [decodeCtl01, hsub]
  simp (disch := decide) only [fldN, fld, BitVec.extractLsb'_append_eq_of_le, BitVec.extractLsb'_append_eq_of_add_le,
    BitVec.extractLsb'_eq_self]
  simp [checked, h]

theorem shra : ∀ d a b, Statement (.shra d a b) := fun d a b => of_control rfl rfl fun h => by
  have hop : fldN (0x1#6 ++ d ++ a ++ b ++ 0x8#11) 26 6 = 1 := by
    simp (disch := decide) only [fldN, BitVec.extractLsb'_append_eq_of_le, BitVec.extractLsb'_append_eq_of_add_le]
    rfl
  simp only [decodeControl, hop]
  have hsub : fldN (0x1#6 ++ d ++ a ++ b ++ 0x8#11) 0 8 = 8 := by
    simp (disch := decide) only [fldN, BitVec.extractLsb'_append_eq_of_le, BitVec.extractLsb'_append_eq_of_add_le]
    rfl
  simp only [decodeCtl01, hsub]
  simp (disch := decide) only [fldN, fld, BitVec.extractLsb'_append_eq_of_le, BitVec.extractLsb'_append_eq_of_add_le,
    BitVec.extractLsb'_eq_self]
  simp [checked, h]

theorem mul : ∀ d a b, Statement (.mul d a b) := fun d a b => of_control rfl rfl fun h => by
  have hop : fldN (0x1#6 ++ d ++ a ++ b ++ 0x9#11) 26 6 = 1 := by
    simp (disch := decide) only [fldN, BitVec.extractLsb'_append_eq_of_le, BitVec.extractLsb'_append_eq_of_add_le]
    rfl
  simp only [decodeControl, hop]
  have hsub : fldN (0x1#6 ++ d ++ a ++ b ++ 0x9#11) 0 8 = 9 := by
    simp (disch := decide) only [fldN, BitVec.extractLsb'_append_eq_of_le, BitVec.extractLsb'_append_eq_of_add_le]
    rfl
  simp only [decodeCtl01, hsub]
  simp (disch := decide) only [fldN, fld, BitVec.extractLsb'_append_eq_of_le, BitVec.extractLsb'_append_eq_of_add_le,
    BitVec.extractLsb'_eq_self]
  simp [checked, h]

theorem mulh : ∀ d a b, Statement (.mulh d a b) := fun d a b => of_control rfl rfl fun h => by
  have hop : fldN (0x1#6 ++ d ++ a ++ b ++ 0xa#11) 26 6 = 1 := by
    simp (disch := decide) only [fldN, BitVec.extractLsb'_append_eq_of_le, BitVec.extractLsb'_append_eq_of_add_le]
    rfl
  simp only [decodeControl, hop]
  have hsub : fldN (0x1#6 ++ d ++ a ++ b ++ 0xa#11) 0 8 = 10 := by
    simp (disch := decide) only [fldN, BitVec.extractLsb'_append_eq_of_le, BitVec.extractLsb'_append_eq_of_add_le]
    rfl
  simp only [decodeCtl01, hsub]
  simp (disch := decide) only [fldN, fld, BitVec.extractLsb'_append_eq_of_le, BitVec.extractLsb'_append_eq_of_add_le,
    BitVec.extractLsb'_eq_self]
  simp [checked, h]

theorem mulhZ : ∀ d a b, Statement (.mulhZ d a b) := fun d a b => of_control rfl rfl fun h => by
  have hop : fldN (0x1#6 ++ d ++ a ++ b ++ 0xb#11) 26 6 = 1 := by
    simp (disch := decide) only [fldN, BitVec.extractLsb'_append_eq_of_le, BitVec.extractLsb'_append_eq_of_add_le]
    rfl
  simp only [decodeControl, hop]
  have hsub : fldN (0x1#6 ++ d ++ a ++ b ++ 0xb#11) 0 8 = 11 := by
    simp (disch := decide) only [fldN, BitVec.extractLsb'_append_eq_of_le, BitVec.extractLsb'_append_eq_of_add_le]
    rfl
  simp only [decodeCtl01, hsub]
  simp (disch := decide) only [fldN, fld, BitVec.extractLsb'_append_eq_of_le, BitVec.extractLsb'_append_eq_of_add_le,
    BitVec.extractLsb'_eq_self]
  simp [checked, h]

theorem div : ∀ d a b, Statement (.div d a b) := fun d a b => of_control rfl rfl fun h => by
  have hop : fldN (0x1#6 ++ d ++ a ++ b ++ 0xc#11) 26 6 = 1 := by
    simp (disch := decide) only [fldN, BitVec.extractLsb'_append_eq_of_le, BitVec.extractLsb'_append_eq_of_add_le]
    rfl
  simp only [decodeControl, hop]
  have hsub : fldN (0x1#6 ++ d ++ a ++ b ++ 0xc#11) 0 8 = 12 := by
    simp (disch := decide) only [fldN, BitVec.extractLsb'_append_eq_of_le, BitVec.extractLsb'_append_eq_of_add_le]
    rfl
  simp only [decodeCtl01, hsub]
  simp (disch := decide) only [fldN, fld, BitVec.extractLsb'_append_eq_of_le, BitVec.extractLsb'_append_eq_of_add_le,
    BitVec.extractLsb'_eq_self]
  simp [checked, h]

theorem divZ : ∀ d a b, Statement (.divZ d a b) := fun d a b => of_control rfl rfl fun h => by
  have hop : fldN (0x1#6 ++ d ++ a ++ b ++ 0xd#11) 26 6 = 1 := by
    simp (disch := decide) only [fldN, BitVec.extractLsb'_append_eq_of_le, BitVec.extractLsb'_append_eq_of_add_le]
    rfl
  simp only [decodeControl, hop]
  have hsub : fldN (0x1#6 ++ d ++ a ++ b ++ 0xd#11) 0 8 = 13 := by
    simp (disch := decide) only [fldN, BitVec.extractLsb'_append_eq_of_le, BitVec.extractLsb'_append_eq_of_add_le]
    rfl
  simp only [decodeCtl01, hsub]
  simp (disch := decide) only [fldN, fld, BitVec.extractLsb'_append_eq_of_le, BitVec.extractLsb'_append_eq_of_add_le,
    BitVec.extractLsb'_eq_self]
  simp [checked, h]

theorem rem : ∀ d a b, Statement (.rem d a b) := fun d a b => of_control rfl rfl fun h => by
  have hop : fldN (0x1#6 ++ d ++ a ++ b ++ 0xe#11) 26 6 = 1 := by
    simp (disch := decide) only [fldN, BitVec.extractLsb'_append_eq_of_le, BitVec.extractLsb'_append_eq_of_add_le]
    rfl
  simp only [decodeControl, hop]
  have hsub : fldN (0x1#6 ++ d ++ a ++ b ++ 0xe#11) 0 8 = 14 := by
    simp (disch := decide) only [fldN, BitVec.extractLsb'_append_eq_of_le, BitVec.extractLsb'_append_eq_of_add_le]
    rfl
  simp only [decodeCtl01, hsub]
  simp (disch := decide) only [fldN, fld, BitVec.extractLsb'_append_eq_of_le, BitVec.extractLsb'_append_eq_of_add_le,
    BitVec.extractLsb'_eq_self]
  simp [checked, h]

theorem remZ : ∀ d a b, Statement (.remZ d a b) := fun d a b => of_control rfl rfl fun h => by
  have hop : fldN (0x1#6 ++ d ++ a ++ b ++ 0xf#11) 26 6 = 1 := by
    simp (disch := decide) only [fldN, BitVec.extractLsb'_append_eq_of_le, BitVec.extractLsb'_append_eq_of_add_le]
    rfl
  simp only [decodeControl, hop]
  have hsub : fldN (0x1#6 ++ d ++ a ++ b ++ 0xf#11) 0 8 = 15 := by
    simp (disch := decide) only [fldN, BitVec.extractLsb'_append_eq_of_le, BitVec.extractLsb'_append_eq_of_add_le]
    rfl
  simp only [decodeCtl01, hsub]
  simp (disch := decide) only [fldN, fld, BitVec.extractLsb'_append_eq_of_le, BitVec.extractLsb'_append_eq_of_add_le,
    BitVec.extractLsb'_eq_self]
  simp [checked, h]

theorem min : ∀ d a b, Statement (.min d a b) := fun d a b => of_control rfl rfl fun h => by
  have hop : fldN (0x1#6 ++ d ++ a ++ b ++ 0x10#11) 26 6 = 1 := by
    simp (disch := decide) only [fldN, BitVec.extractLsb'_append_eq_of_le, BitVec.extractLsb'_append_eq_of_add_le]
    rfl
  simp only [decodeControl, hop]
  have hsub : fldN (0x1#6 ++ d ++ a ++ b ++ 0x10#11) 0 8 = 16 := by
    simp (disch := decide) only [fldN, BitVec.extractLsb'_append_eq_of_le, BitVec.extractLsb'_append_eq_of_add_le]
    rfl
  simp only [decodeCtl01, hsub]
  simp (disch := decide) only [fldN, fld, BitVec.extractLsb'_append_eq_of_le, BitVec.extractLsb'_append_eq_of_add_le,
    BitVec.extractLsb'_eq_self]
  simp [checked, h]

theorem max : ∀ d a b, Statement (.max d a b) := fun d a b => of_control rfl rfl fun h => by
  have hop : fldN (0x1#6 ++ d ++ a ++ b ++ 0x11#11) 26 6 = 1 := by
    simp (disch := decide) only [fldN, BitVec.extractLsb'_append_eq_of_le, BitVec.extractLsb'_append_eq_of_add_le]
    rfl
  simp only [decodeControl, hop]
  have hsub : fldN (0x1#6 ++ d ++ a ++ b ++ 0x11#11) 0 8 = 17 := by
    simp (disch := decide) only [fldN, BitVec.extractLsb'_append_eq_of_le, BitVec.extractLsb'_append_eq_of_add_le]
    rfl
  simp only [decodeCtl01, hsub]
  simp (disch := decide) only [fldN, fld, BitVec.extractLsb'_append_eq_of_le, BitVec.extractLsb'_append_eq_of_add_le,
    BitVec.extractLsb'_eq_self]
  simp [checked, h]

theorem minZ : ∀ d a b, Statement (.minZ d a b) := fun d a b => of_control rfl rfl fun h => by
  have hop : fldN (0x1#6 ++ d ++ a ++ b ++ 0x12#11) 26 6 = 1 := by
    simp (disch := decide) only [fldN, BitVec.extractLsb'_append_eq_of_le, BitVec.extractLsb'_append_eq_of_add_le]
    rfl
  simp only [decodeControl, hop]
  have hsub : fldN (0x1#6 ++ d ++ a ++ b ++ 0x12#11) 0 8 = 18 := by
    simp (disch := decide) only [fldN, BitVec.extractLsb'_append_eq_of_le, BitVec.extractLsb'_append_eq_of_add_le]
    rfl
  simp only [decodeCtl01, hsub]
  simp (disch := decide) only [fldN, fld, BitVec.extractLsb'_append_eq_of_le, BitVec.extractLsb'_append_eq_of_add_le,
    BitVec.extractLsb'_eq_self]
  simp [checked, h]

theorem maxZ : ∀ d a b, Statement (.maxZ d a b) := fun d a b => of_control rfl rfl fun h => by
  have hop : fldN (0x1#6 ++ d ++ a ++ b ++ 0x13#11) 26 6 = 1 := by
    simp (disch := decide) only [fldN, BitVec.extractLsb'_append_eq_of_le, BitVec.extractLsb'_append_eq_of_add_le]
    rfl
  simp only [decodeControl, hop]
  have hsub : fldN (0x1#6 ++ d ++ a ++ b ++ 0x13#11) 0 8 = 19 := by
    simp (disch := decide) only [fldN, BitVec.extractLsb'_append_eq_of_le, BitVec.extractLsb'_append_eq_of_add_le]
    rfl
  simp only [decodeCtl01, hsub]
  simp (disch := decide) only [fldN, fld, BitVec.extractLsb'_append_eq_of_le, BitVec.extractLsb'_append_eq_of_add_le,
    BitVec.extractLsb'_eq_self]
  simp [checked, h]

theorem slt : ∀ d a b, Statement (.slt d a b) := fun d a b => of_control rfl rfl fun h => by
  have hop : fldN (0x1#6 ++ d ++ a ++ b ++ 0x14#11) 26 6 = 1 := by
    simp (disch := decide) only [fldN, BitVec.extractLsb'_append_eq_of_le, BitVec.extractLsb'_append_eq_of_add_le]
    rfl
  simp only [decodeControl, hop]
  have hsub : fldN (0x1#6 ++ d ++ a ++ b ++ 0x14#11) 0 8 = 20 := by
    simp (disch := decide) only [fldN, BitVec.extractLsb'_append_eq_of_le, BitVec.extractLsb'_append_eq_of_add_le]
    rfl
  simp only [decodeCtl01, hsub]
  simp (disch := decide) only [fldN, fld, BitVec.extractLsb'_append_eq_of_le, BitVec.extractLsb'_append_eq_of_add_le,
    BitVec.extractLsb'_eq_self]
  simp [checked, h]

theorem sltZ : ∀ d a b, Statement (.sltZ d a b) := fun d a b => of_control rfl rfl fun h => by
  have hop : fldN (0x1#6 ++ d ++ a ++ b ++ 0x15#11) 26 6 = 1 := by
    simp (disch := decide) only [fldN, BitVec.extractLsb'_append_eq_of_le, BitVec.extractLsb'_append_eq_of_add_le]
    rfl
  simp only [decodeControl, hop]
  have hsub : fldN (0x1#6 ++ d ++ a ++ b ++ 0x15#11) 0 8 = 21 := by
    simp (disch := decide) only [fldN, BitVec.extractLsb'_append_eq_of_le, BitVec.extractLsb'_append_eq_of_add_le]
    rfl
  simp only [decodeCtl01, hsub]
  simp (disch := decide) only [fldN, fld, BitVec.extractLsb'_append_eq_of_le, BitVec.extractLsb'_append_eq_of_add_le,
    BitVec.extractLsb'_eq_self]
  simp [checked, h]

theorem clz : ∀ d a, Statement (.clz d a) := fun d a => of_control rfl rfl fun h => by
  have hop : fldN (0x1#6 ++ d ++ a ++ 0x16#16) 26 6 = 1 := by
    simp (disch := decide) only [fldN, BitVec.extractLsb'_append_eq_of_le, BitVec.extractLsb'_append_eq_of_add_le]
    rfl
  simp only [decodeControl, hop]
  have hsub : fldN (0x1#6 ++ d ++ a ++ 0x16#16) 0 8 = 22 := by
    simp (disch := decide) only [fldN, BitVec.extractLsb'_append_eq_of_le, BitVec.extractLsb'_append_eq_of_add_le]
    rfl
  simp only [decodeCtl01, hsub]
  simp (disch := decide) only [fldN, fld, BitVec.extractLsb'_append_eq_of_le, BitVec.extractLsb'_append_eq_of_add_le,
    BitVec.extractLsb'_eq_self]
  simp [checked, h]

theorem popc : ∀ d a, Statement (.popc d a) := fun d a => of_control rfl rfl fun h => by
  have hop : fldN (0x1#6 ++ d ++ a ++ 0x17#16) 26 6 = 1 := by
    simp (disch := decide) only [fldN, BitVec.extractLsb'_append_eq_of_le, BitVec.extractLsb'_append_eq_of_add_le]
    rfl
  simp only [decodeControl, hop]
  have hsub : fldN (0x1#6 ++ d ++ a ++ 0x17#16) 0 8 = 23 := by
    simp (disch := decide) only [fldN, BitVec.extractLsb'_append_eq_of_le, BitVec.extractLsb'_append_eq_of_add_le]
    rfl
  simp only [decodeCtl01, hsub]
  simp (disch := decide) only [fldN, fld, BitVec.extractLsb'_append_eq_of_le, BitVec.extractLsb'_append_eq_of_add_le,
    BitVec.extractLsb'_eq_self]
  simp [checked, h]

theorem lea : ∀ d a b s, Statement (.lea d a b s) := fun d a b s => of_control rfl rfl fun h => by
  have hop : fldN (0x1#6 ++ d ++ a ++ b ++ 0x0#1 ++ s ++ 0x18#8) 26 6 = 1 := by
    simp (disch := decide) only [fldN, BitVec.extractLsb'_append_eq_of_le, BitVec.extractLsb'_append_eq_of_add_le]
    rfl
  simp only [decodeControl, hop]
  have hsub : fldN (0x1#6 ++ d ++ a ++ b ++ 0x0#1 ++ s ++ 0x18#8) 0 8 = 24 := by
    simp (disch := decide) only [fldN, BitVec.extractLsb'_append_eq_of_le, BitVec.extractLsb'_append_eq_of_add_le]
    rfl
  simp only [decodeCtl01, hsub]
  simp (disch := decide) only [fldN, fld, BitVec.extractLsb'_append_eq_of_le, BitVec.extractLsb'_append_eq_of_add_le,
    BitVec.extractLsb'_eq_self]
  simp [checked, h]

theorem addi : ∀ d a i, Statement (.addi d a i) := fun d a i => of_control rfl rfl fun h => by
  have hop : fldN (0x2#6 ++ d ++ a ++ i) 26 6 = 2 := by
    simp (disch := decide) only [fldN, BitVec.extractLsb'_append_eq_of_le, BitVec.extractLsb'_append_eq_of_add_le]
    rfl
  simp only [decodeControl, hop]
  simp (disch := decide) only [fldN, fld, BitVec.extractLsb'_append_eq_of_le, BitVec.extractLsb'_append_eq_of_add_le,
    BitVec.extractLsb'_eq_self]
  simp [checked, h]

theorem andi : ∀ d a i, Statement (.andi d a i) := fun d a i => of_control rfl rfl fun h => by
  have hop : fldN (0x3#6 ++ d ++ a ++ i) 26 6 = 3 := by
    simp (disch := decide) only [fldN, BitVec.extractLsb'_append_eq_of_le, BitVec.extractLsb'_append_eq_of_add_le]
    rfl
  simp only [decodeControl, hop]
  simp (disch := decide) only [fldN, fld, BitVec.extractLsb'_append_eq_of_le, BitVec.extractLsb'_append_eq_of_add_le,
    BitVec.extractLsb'_eq_self]
  simp [checked, h]

theorem ori : ∀ d a i, Statement (.ori d a i) := fun d a i => of_control rfl rfl fun h => by
  have hop : fldN (0x4#6 ++ d ++ a ++ i) 26 6 = 4 := by
    simp (disch := decide) only [fldN, BitVec.extractLsb'_append_eq_of_le, BitVec.extractLsb'_append_eq_of_add_le]
    rfl
  simp only [decodeControl, hop]
  simp (disch := decide) only [fldN, fld, BitVec.extractLsb'_append_eq_of_le, BitVec.extractLsb'_append_eq_of_add_le,
    BitVec.extractLsb'_eq_self]
  simp [checked, h]

theorem xori : ∀ d a i, Statement (.xori d a i) := fun d a i => of_control rfl rfl fun h => by
  have hop : fldN (0x5#6 ++ d ++ a ++ i) 26 6 = 5 := by
    simp (disch := decide) only [fldN, BitVec.extractLsb'_append_eq_of_le, BitVec.extractLsb'_append_eq_of_add_le]
    rfl
  simp only [decodeControl, hop]
  simp (disch := decide) only [fldN, fld, BitVec.extractLsb'_append_eq_of_le, BitVec.extractLsb'_append_eq_of_add_le,
    BitVec.extractLsb'_eq_self]
  simp [checked, h]

theorem shiL : ∀ d a n, Statement (.shiL d a n) := fun d a n => of_control rfl rfl fun h => by
  have hop : fldN (0x6#6 ++ d ++ a ++ 0x0#10 ++ n) 26 6 = 6 := by
    simp (disch := decide) only [fldN, BitVec.extractLsb'_append_eq_of_le, BitVec.extractLsb'_append_eq_of_add_le]
    rfl
  simp only [decodeControl, hop]
  have hsub : fldN (0x6#6 ++ d ++ a ++ 0x0#10 ++ n) 14 2 = 0 := by
    simp (disch := decide) only [fldN, BitVec.extractLsb'_append_eq_of_le, BitVec.extractLsb'_append_eq_of_add_le]
    rfl
  simp only [decodeCtl06, hsub]
  simp (disch := decide) only [fldN, fld, BitVec.extractLsb'_append_eq_of_le, BitVec.extractLsb'_append_eq_of_add_le,
    BitVec.extractLsb'_eq_self]
  simp [checked, h]

theorem shiR : ∀ d a n, Statement (.shiR d a n) := fun d a n => of_control rfl rfl fun h => by
  have hop : fldN (0x6#6 ++ d ++ a ++ 0x100#10 ++ n) 26 6 = 6 := by
    simp (disch := decide) only [fldN, BitVec.extractLsb'_append_eq_of_le, BitVec.extractLsb'_append_eq_of_add_le]
    rfl
  simp only [decodeControl, hop]
  have hsub : fldN (0x6#6 ++ d ++ a ++ 0x100#10 ++ n) 14 2 = 1 := by
    simp (disch := decide) only [fldN, BitVec.extractLsb'_append_eq_of_le, BitVec.extractLsb'_append_eq_of_add_le]
    rfl
  simp only [decodeCtl06, hsub]
  simp (disch := decide) only [fldN, fld, BitVec.extractLsb'_append_eq_of_le, BitVec.extractLsb'_append_eq_of_add_le,
    BitVec.extractLsb'_eq_self]
  simp [checked, h]

theorem shiRa : ∀ d a n, Statement (.shiRa d a n) := fun d a n => of_control rfl rfl fun h => by
  have hop : fldN (0x6#6 ++ d ++ a ++ 0x200#10 ++ n) 26 6 = 6 := by
    simp (disch := decide) only [fldN, BitVec.extractLsb'_append_eq_of_le, BitVec.extractLsb'_append_eq_of_add_le]
    rfl
  simp only [decodeControl, hop]
  have hsub : fldN (0x6#6 ++ d ++ a ++ 0x200#10 ++ n) 14 2 = 2 := by
    simp (disch := decide) only [fldN, BitVec.extractLsb'_append_eq_of_le, BitVec.extractLsb'_append_eq_of_add_le]
    rfl
  simp only [decodeCtl06, hsub]
  simp (disch := decide) only [fldN, fld, BitVec.extractLsb'_append_eq_of_le, BitVec.extractLsb'_append_eq_of_add_le,
    BitVec.extractLsb'_eq_self]
  simp [checked, h]

theorem insi : ∀ d k i, Statement (.insi d k i) := fun d k i => of_control rfl rfl fun h => by
  have hop : fldN (0x7#6 ++ d ++ 0x0#3 ++ k ++ i) 26 6 = 7 := by
    simp (disch := decide) only [fldN, BitVec.extractLsb'_append_eq_of_le, BitVec.extractLsb'_append_eq_of_add_le]
    rfl
  simp only [decodeControl, hop]
  simp (disch := decide) only [fldN, fld, BitVec.extractLsb'_append_eq_of_le, BitVec.extractLsb'_append_eq_of_add_le,
    BitVec.extractLsb'_eq_self]
  simp [checked, h]

theorem slti : ∀ d a i, Statement (.slti d a i) := fun d a i => of_control rfl rfl fun h => by
  have hop : fldN (0x8#6 ++ d ++ a ++ i) 26 6 = 8 := by
    simp (disch := decide) only [fldN, BitVec.extractLsb'_append_eq_of_le, BitVec.extractLsb'_append_eq_of_add_le]
    rfl
  simp only [decodeControl, hop]
  simp (disch := decide) only [fldN, fld, BitVec.extractLsb'_append_eq_of_le, BitVec.extractLsb'_append_eq_of_add_le,
    BitVec.extractLsb'_eq_self]
  simp [checked, h]

theorem sltiZ : ∀ d a i, Statement (.sltiZ d a i) := fun d a i => of_control rfl rfl fun h => by
  have hop : fldN (0x9#6 ++ d ++ a ++ i) 26 6 = 9 := by
    simp (disch := decide) only [fldN, BitVec.extractLsb'_append_eq_of_le, BitVec.extractLsb'_append_eq_of_add_le]
    rfl
  simp only [decodeControl, hop]
  simp (disch := decide) only [fldN, fld, BitVec.extractLsb'_append_eq_of_le, BitVec.extractLsb'_append_eq_of_add_le,
    BitVec.extractLsb'_eq_self]
  simp [checked, h]

theorem ld : ∀ d a z o, Statement (.ld d a z o) := fun d a z o => of_control rfl rfl fun h => by
  have hop : fldN (0xc#6 ++ d ++ a ++ z ++ o) 26 6 = 12 := by
    simp (disch := decide) only [fldN, BitVec.extractLsb'_append_eq_of_le, BitVec.extractLsb'_append_eq_of_add_le]
    rfl
  simp only [decodeControl, hop]
  simp (disch := decide) only [fldN, fld, BitVec.extractLsb'_append_eq_of_le, BitVec.extractLsb'_append_eq_of_add_le,
    BitVec.extractLsb'_eq_self]
  simp [checked, h]

theorem st : ∀ d a z o, Statement (.st d a z o) := fun d a z o => of_control rfl rfl fun h => by
  have hop : fldN (0xd#6 ++ d ++ a ++ z ++ o) 26 6 = 13 := by
    simp (disch := decide) only [fldN, BitVec.extractLsb'_append_eq_of_le, BitVec.extractLsb'_append_eq_of_add_le]
    rfl
  simp only [decodeControl, hop]
  simp (disch := decide) only [fldN, fld, BitVec.extractLsb'_append_eq_of_le, BitVec.extractLsb'_append_eq_of_add_le,
    BitVec.extractLsb'_eq_self]
  simp [checked, h]

theorem amoAdd : ∀ d a b z r, Statement (.amoAdd d a b z r) := fun d a b z r => of_control rfl rfl fun h => by
  have hop : fldN (0xe#6 ++ d ++ a ++ b ++ 0x0#3 ++ z ++ r ++ 0x0#4) 26 6 = 14 := by
    simp (disch := decide) only [fldN, BitVec.extractLsb'_append_eq_of_le, BitVec.extractLsb'_append_eq_of_add_le]
    rfl
  simp only [decodeControl, hop]
  have hsub : fldN (0xe#6 ++ d ++ a ++ b ++ 0x0#3 ++ z ++ r ++ 0x0#4) 0 4 = 0 := by
    simp (disch := decide) only [fldN, BitVec.extractLsb'_append_eq_of_le, BitVec.extractLsb'_append_eq_of_add_le]
    rfl
  simp only [decodeCtl0E, hsub]
  simp (disch := decide) only [fldN, fld, BitVec.extractLsb'_append_eq_of_le, BitVec.extractLsb'_append_eq_of_add_le,
    BitVec.extractLsb'_eq_self]
  simp [checked, h]

theorem amoSwap : ∀ d a b z r, Statement (.amoSwap d a b z r) := fun d a b z r => of_control rfl rfl fun h => by
  have hop : fldN (0xe#6 ++ d ++ a ++ b ++ 0x0#3 ++ z ++ r ++ 0x1#4) 26 6 = 14 := by
    simp (disch := decide) only [fldN, BitVec.extractLsb'_append_eq_of_le, BitVec.extractLsb'_append_eq_of_add_le]
    rfl
  simp only [decodeControl, hop]
  have hsub : fldN (0xe#6 ++ d ++ a ++ b ++ 0x0#3 ++ z ++ r ++ 0x1#4) 0 4 = 1 := by
    simp (disch := decide) only [fldN, BitVec.extractLsb'_append_eq_of_le, BitVec.extractLsb'_append_eq_of_add_le]
    rfl
  simp only [decodeCtl0E, hsub]
  simp (disch := decide) only [fldN, fld, BitVec.extractLsb'_append_eq_of_le, BitVec.extractLsb'_append_eq_of_add_le,
    BitVec.extractLsb'_eq_self]
  simp [checked, h]

theorem amoCas : ∀ d a b z r, Statement (.amoCas d a b z r) := fun d a b z r => of_control rfl rfl fun h => by
  have hop : fldN (0xe#6 ++ d ++ a ++ b ++ 0x0#3 ++ z ++ r ++ 0x2#4) 26 6 = 14 := by
    simp (disch := decide) only [fldN, BitVec.extractLsb'_append_eq_of_le, BitVec.extractLsb'_append_eq_of_add_le]
    rfl
  simp only [decodeControl, hop]
  have hsub : fldN (0xe#6 ++ d ++ a ++ b ++ 0x0#3 ++ z ++ r ++ 0x2#4) 0 4 = 2 := by
    simp (disch := decide) only [fldN, BitVec.extractLsb'_append_eq_of_le, BitVec.extractLsb'_append_eq_of_add_le]
    rfl
  simp only [decodeCtl0E, hsub]
  simp (disch := decide) only [fldN, fld, BitVec.extractLsb'_append_eq_of_le, BitVec.extractLsb'_append_eq_of_add_le,
    BitVec.extractLsb'_eq_self]
  simp [checked, h]

theorem amoMin : ∀ d a b z r, Statement (.amoMin d a b z r) := fun d a b z r => of_control rfl rfl fun h => by
  have hop : fldN (0xe#6 ++ d ++ a ++ b ++ 0x0#3 ++ z ++ r ++ 0x3#4) 26 6 = 14 := by
    simp (disch := decide) only [fldN, BitVec.extractLsb'_append_eq_of_le, BitVec.extractLsb'_append_eq_of_add_le]
    rfl
  simp only [decodeControl, hop]
  have hsub : fldN (0xe#6 ++ d ++ a ++ b ++ 0x0#3 ++ z ++ r ++ 0x3#4) 0 4 = 3 := by
    simp (disch := decide) only [fldN, BitVec.extractLsb'_append_eq_of_le, BitVec.extractLsb'_append_eq_of_add_le]
    rfl
  simp only [decodeCtl0E, hsub]
  simp (disch := decide) only [fldN, fld, BitVec.extractLsb'_append_eq_of_le, BitVec.extractLsb'_append_eq_of_add_le,
    BitVec.extractLsb'_eq_self]
  simp [checked, h]

theorem amoMax : ∀ d a b z r, Statement (.amoMax d a b z r) := fun d a b z r => of_control rfl rfl fun h => by
  have hop : fldN (0xe#6 ++ d ++ a ++ b ++ 0x0#3 ++ z ++ r ++ 0x4#4) 26 6 = 14 := by
    simp (disch := decide) only [fldN, BitVec.extractLsb'_append_eq_of_le, BitVec.extractLsb'_append_eq_of_add_le]
    rfl
  simp only [decodeControl, hop]
  have hsub : fldN (0xe#6 ++ d ++ a ++ b ++ 0x0#3 ++ z ++ r ++ 0x4#4) 0 4 = 4 := by
    simp (disch := decide) only [fldN, BitVec.extractLsb'_append_eq_of_le, BitVec.extractLsb'_append_eq_of_add_le]
    rfl
  simp only [decodeCtl0E, hsub]
  simp (disch := decide) only [fldN, fld, BitVec.extractLsb'_append_eq_of_le, BitVec.extractLsb'_append_eq_of_add_le,
    BitVec.extractLsb'_eq_self]
  simp [checked, h]

theorem amoAnd : ∀ d a b z r, Statement (.amoAnd d a b z r) := fun d a b z r => of_control rfl rfl fun h => by
  have hop : fldN (0xe#6 ++ d ++ a ++ b ++ 0x0#3 ++ z ++ r ++ 0x5#4) 26 6 = 14 := by
    simp (disch := decide) only [fldN, BitVec.extractLsb'_append_eq_of_le, BitVec.extractLsb'_append_eq_of_add_le]
    rfl
  simp only [decodeControl, hop]
  have hsub : fldN (0xe#6 ++ d ++ a ++ b ++ 0x0#3 ++ z ++ r ++ 0x5#4) 0 4 = 5 := by
    simp (disch := decide) only [fldN, BitVec.extractLsb'_append_eq_of_le, BitVec.extractLsb'_append_eq_of_add_le]
    rfl
  simp only [decodeCtl0E, hsub]
  simp (disch := decide) only [fldN, fld, BitVec.extractLsb'_append_eq_of_le, BitVec.extractLsb'_append_eq_of_add_le,
    BitVec.extractLsb'_eq_self]
  simp [checked, h]

theorem amoOr : ∀ d a b z r, Statement (.amoOr d a b z r) := fun d a b z r => of_control rfl rfl fun h => by
  have hop : fldN (0xe#6 ++ d ++ a ++ b ++ 0x0#3 ++ z ++ r ++ 0x6#4) 26 6 = 14 := by
    simp (disch := decide) only [fldN, BitVec.extractLsb'_append_eq_of_le, BitVec.extractLsb'_append_eq_of_add_le]
    rfl
  simp only [decodeControl, hop]
  have hsub : fldN (0xe#6 ++ d ++ a ++ b ++ 0x0#3 ++ z ++ r ++ 0x6#4) 0 4 = 6 := by
    simp (disch := decide) only [fldN, BitVec.extractLsb'_append_eq_of_le, BitVec.extractLsb'_append_eq_of_add_le]
    rfl
  simp only [decodeCtl0E, hsub]
  simp (disch := decide) only [fldN, fld, BitVec.extractLsb'_append_eq_of_le, BitVec.extractLsb'_append_eq_of_add_le,
    BitVec.extractLsb'_eq_self]
  simp [checked, h]

theorem amoXor : ∀ d a b z r, Statement (.amoXor d a b z r) := fun d a b z r => of_control rfl rfl fun h => by
  have hop : fldN (0xe#6 ++ d ++ a ++ b ++ 0x0#3 ++ z ++ r ++ 0x7#4) 26 6 = 14 := by
    simp (disch := decide) only [fldN, BitVec.extractLsb'_append_eq_of_le, BitVec.extractLsb'_append_eq_of_add_le]
    rfl
  simp only [decodeControl, hop]
  have hsub : fldN (0xe#6 ++ d ++ a ++ b ++ 0x0#3 ++ z ++ r ++ 0x7#4) 0 4 = 7 := by
    simp (disch := decide) only [fldN, BitVec.extractLsb'_append_eq_of_le, BitVec.extractLsb'_append_eq_of_add_le]
    rfl
  simp only [decodeCtl0E, hsub]
  simp (disch := decide) only [fldN, fld, BitVec.extractLsb'_append_eq_of_le, BitVec.extractLsb'_append_eq_of_add_le,
    BitVec.extractLsb'_eq_self]
  simp [checked, h]

theorem ldAcq : ∀ d a z, Statement (.ldAcq d a z) := fun d a z => of_control rfl rfl fun h => by
  have hop : fldN (0xe#6 ++ d ++ a ++ 0x0#8 ++ z ++ 0x18#6) 26 6 = 14 := by
    simp (disch := decide) only [fldN, BitVec.extractLsb'_append_eq_of_le, BitVec.extractLsb'_append_eq_of_add_le]
    rfl
  simp only [decodeControl, hop]
  have hsub : fldN (0xe#6 ++ d ++ a ++ 0x0#8 ++ z ++ 0x18#6) 0 4 = 8 := by
    simp (disch := decide) only [fldN, BitVec.extractLsb'_append_eq_of_le, BitVec.extractLsb'_append_eq_of_add_le]
    rfl
  simp only [decodeCtl0E, hsub]
  simp (disch := decide) only [fldN, fld, BitVec.extractLsb'_append_eq_of_le, BitVec.extractLsb'_append_eq_of_add_le,
    BitVec.extractLsb'_eq_self]
  simp [checked, h]

theorem stRel : ∀ a b z, Statement (.stRel a b z) := fun a b z => of_control rfl rfl fun h => by
  have hop : fldN (0x1c0#11 ++ a ++ b ++ 0x0#3 ++ z ++ 0x29#6) 26 6 = 14 := by
    simp (disch := decide) only [fldN, BitVec.extractLsb'_append_eq_of_le, BitVec.extractLsb'_append_eq_of_add_le]
    rfl
  simp only [decodeControl, hop]
  have hsub : fldN (0x1c0#11 ++ a ++ b ++ 0x0#3 ++ z ++ 0x29#6) 0 4 = 9 := by
    simp (disch := decide) only [fldN, BitVec.extractLsb'_append_eq_of_le, BitVec.extractLsb'_append_eq_of_add_le]
    rfl
  simp only [decodeCtl0E, hsub]
  simp (disch := decide) only [fldN, fld, BitVec.extractLsb'_append_eq_of_le, BitVec.extractLsb'_append_eq_of_add_le,
    BitVec.extractLsb'_eq_self]
  simp [checked, h]

theorem fence : ∀ c s p, Statement (.fence c s p) := fun c s p => of_control rfl rfl fun h => by
  have hop : fldN (0x78000#21 ++ c ++ s ++ p) 26 6 = 15 := by
    simp (disch := decide) only [fldN, BitVec.extractLsb'_append_eq_of_le, BitVec.extractLsb'_append_eq_of_add_le]
    rfl
  simp only [decodeControl, hop]
  simp (disch := decide) only [fldN, fld, BitVec.extractLsb'_append_eq_of_le, BitVec.extractLsb'_append_eq_of_add_le,
    BitVec.extractLsb'_eq_self]
  simp [checked, h]

theorem beq : ∀ a b o, Statement (.beq a b o) := fun a b o => of_control rfl rfl fun h => by
  have hop : fldN (0x10#6 ++ a ++ b ++ o) 26 6 = 16 := by
    simp (disch := decide) only [fldN, BitVec.extractLsb'_append_eq_of_le, BitVec.extractLsb'_append_eq_of_add_le]
    rfl
  simp only [decodeControl, hop]
  simp (disch := decide) only [fldN, fld, BitVec.extractLsb'_append_eq_of_le, BitVec.extractLsb'_append_eq_of_add_le,
    BitVec.extractLsb'_eq_self]
  simp [checked, h]

theorem bne : ∀ a b o, Statement (.bne a b o) := fun a b o => of_control rfl rfl fun h => by
  have hop : fldN (0x11#6 ++ a ++ b ++ o) 26 6 = 17 := by
    simp (disch := decide) only [fldN, BitVec.extractLsb'_append_eq_of_le, BitVec.extractLsb'_append_eq_of_add_le]
    rfl
  simp only [decodeControl, hop]
  simp (disch := decide) only [fldN, fld, BitVec.extractLsb'_append_eq_of_le, BitVec.extractLsb'_append_eq_of_add_le,
    BitVec.extractLsb'_eq_self]
  simp [checked, h]

theorem blt : ∀ a b o, Statement (.blt a b o) := fun a b o => of_control rfl rfl fun h => by
  have hop : fldN (0x12#6 ++ a ++ b ++ o) 26 6 = 18 := by
    simp (disch := decide) only [fldN, BitVec.extractLsb'_append_eq_of_le, BitVec.extractLsb'_append_eq_of_add_le]
    rfl
  simp only [decodeControl, hop]
  simp (disch := decide) only [fldN, fld, BitVec.extractLsb'_append_eq_of_le, BitVec.extractLsb'_append_eq_of_add_le,
    BitVec.extractLsb'_eq_self]
  simp [checked, h]

theorem bge : ∀ a b o, Statement (.bge a b o) := fun a b o => of_control rfl rfl fun h => by
  have hop : fldN (0x13#6 ++ a ++ b ++ o) 26 6 = 19 := by
    simp (disch := decide) only [fldN, BitVec.extractLsb'_append_eq_of_le, BitVec.extractLsb'_append_eq_of_add_le]
    rfl
  simp only [decodeControl, hop]
  simp (disch := decide) only [fldN, fld, BitVec.extractLsb'_append_eq_of_le, BitVec.extractLsb'_append_eq_of_add_le,
    BitVec.extractLsb'_eq_self]
  simp [checked, h]

theorem bltZ : ∀ a b o, Statement (.bltZ a b o) := fun a b o => of_control rfl rfl fun h => by
  have hop : fldN (0x14#6 ++ a ++ b ++ o) 26 6 = 20 := by
    simp (disch := decide) only [fldN, BitVec.extractLsb'_append_eq_of_le, BitVec.extractLsb'_append_eq_of_add_le]
    rfl
  simp only [decodeControl, hop]
  simp (disch := decide) only [fldN, fld, BitVec.extractLsb'_append_eq_of_le, BitVec.extractLsb'_append_eq_of_add_le,
    BitVec.extractLsb'_eq_self]
  simp [checked, h]

theorem bgeZ : ∀ a b o, Statement (.bgeZ a b o) := fun a b o => of_control rfl rfl fun h => by
  have hop : fldN (0x15#6 ++ a ++ b ++ o) 26 6 = 21 := by
    simp (disch := decide) only [fldN, BitVec.extractLsb'_append_eq_of_le, BitVec.extractLsb'_append_eq_of_add_le]
    rfl
  simp only [decodeControl, hop]
  simp (disch := decide) only [fldN, fld, BitVec.extractLsb'_append_eq_of_le, BitVec.extractLsb'_append_eq_of_add_le,
    BitVec.extractLsb'_eq_self]
  simp [checked, h]

theorem jal : ∀ d o, Statement (.jal d o) := fun d o => of_control rfl rfl fun h => by
  have hop : fldN (0x16#6 ++ d ++ o) 26 6 = 22 := by
    simp (disch := decide) only [fldN, BitVec.extractLsb'_append_eq_of_le, BitVec.extractLsb'_append_eq_of_add_le]
    rfl
  simp only [decodeControl, hop]
  simp (disch := decide) only [fldN, fld, BitVec.extractLsb'_append_eq_of_le, BitVec.extractLsb'_append_eq_of_add_le,
    BitVec.extractLsb'_eq_self]
  simp [checked, h]

theorem jr : ∀ d a, Statement (.jr d a) := fun d a => of_control rfl rfl fun h => by
  have hop : fldN (0x17#6 ++ d ++ a ++ 0x0#16) 26 6 = 23 := by
    simp (disch := decide) only [fldN, BitVec.extractLsb'_append_eq_of_le, BitVec.extractLsb'_append_eq_of_add_le]
    rfl
  simp only [decodeControl, hop]
  simp (disch := decide) only [fldN, fld, BitVec.extractLsb'_append_eq_of_le, BitVec.extractLsb'_append_eq_of_add_le,
    BitVec.extractLsb'_eq_self]
  simp [checked, h]

theorem waitq : ∀ a b c, Statement (.waitq a b c) := fun a b c => of_control rfl rfl fun h => by
  have hop : fldN (0x300#11 ++ a ++ b ++ 0x0#10 ++ c) 26 6 = 24 := by
    simp (disch := decide) only [fldN, BitVec.extractLsb'_append_eq_of_le, BitVec.extractLsb'_append_eq_of_add_le]
    rfl
  simp only [decodeControl, hop]
  simp (disch := decide) only [fldN, fld, BitVec.extractLsb'_append_eq_of_le, BitVec.extractLsb'_append_eq_of_add_le,
    BitVec.extractLsb'_eq_self]
  simp [checked, h]

theorem bar : ∀ u p, Statement (.bar u p) := fun u p => of_control rfl rfl fun h => by
  have hop : fldN (0x1900000#26 ++ u ++ p) 26 6 = 25 := by
    simp (disch := decide) only [fldN, BitVec.extractLsb'_append_eq_of_le, BitVec.extractLsb'_append_eq_of_add_le]
    rfl
  simp only [decodeControl, hop]
  simp (disch := decide) only [fldN, fld, BitVec.extractLsb'_append_eq_of_le, BitVec.extractLsb'_append_eq_of_add_le,
    BitVec.extractLsb'_eq_self]
  simp [checked, h]

theorem tokw : ∀ u p, Statement (.tokw u p) := fun u p => of_control rfl rfl fun h => by
  have hop : fldN (0x1a00000#26 ++ u ++ p) 26 6 = 26 := by
    simp (disch := decide) only [fldN, BitVec.extractLsb'_append_eq_of_le, BitVec.extractLsb'_append_eq_of_add_le]
    rfl
  simp only [decodeControl, hop]
  simp (disch := decide) only [fldN, fld, BitVec.extractLsb'_append_eq_of_le, BitVec.extractLsb'_append_eq_of_add_le,
    BitVec.extractLsb'_eq_self]
  simp [checked, h]

theorem spawn : ∀ a b, Statement (.spawn a b) := fun a b => of_control rfl rfl fun h => by
  have hop : fldN (0x360#11 ++ a ++ b ++ 0x0#11) 26 6 = 27 := by
    simp (disch := decide) only [fldN, BitVec.extractLsb'_append_eq_of_le, BitVec.extractLsb'_append_eq_of_add_le]
    rfl
  simp only [decodeControl, hop]
  simp (disch := decide) only [fldN, fld, BitVec.extractLsb'_append_eq_of_le, BitVec.extractLsb'_append_eq_of_add_le,
    BitVec.extractLsb'_eq_self]
  simp [checked, h]

theorem spat : ∀ a n u p, Statement (.spat a n u p) := fun a n u p => of_control rfl rfl fun h => by
  have hop : fldN (0x400#11 ++ a ++ 0x0#6 ++ n ++ u ++ p) 26 6 = 32 := by
    simp (disch := decide) only [fldN, BitVec.extractLsb'_append_eq_of_le, BitVec.extractLsb'_append_eq_of_add_le]
    rfl
  simp only [decodeControl, hop]
  simp (disch := decide) only [fldN, fld, BitVec.extractLsb'_append_eq_of_le, BitVec.extractLsb'_append_eq_of_add_le,
    BitVec.extractLsb'_eq_self]
  simp [checked, h]

theorem strmIn : ∀ a n u p, Statement (.strmIn a n u p) := fun a n u p => of_control rfl rfl fun h => by
  have hop : fldN (0x420#11 ++ a ++ 0x0#6 ++ n ++ u ++ p) 26 6 = 33 := by
    simp (disch := decide) only [fldN, BitVec.extractLsb'_append_eq_of_le, BitVec.extractLsb'_append_eq_of_add_le]
    rfl
  simp only [decodeControl, hop]
  have hsub : fldN (0x420#11 ++ a ++ 0x0#6 ++ n ++ u ++ p) 21 5 = 0 := by
    simp (disch := decide) only [fldN, BitVec.extractLsb'_append_eq_of_le, BitVec.extractLsb'_append_eq_of_add_le]
    rfl
  simp only [decodeCtl21, hsub]
  simp (disch := decide) only [fldN, fld, BitVec.extractLsb'_append_eq_of_le, BitVec.extractLsb'_append_eq_of_add_le,
    BitVec.extractLsb'_eq_self]
  simp [checked, h]

theorem strmOut : ∀ a n u p, Statement (.strmOut a n u p) := fun a n u p => of_control rfl rfl fun h => by
  have hop : fldN (0x421#11 ++ a ++ 0x0#6 ++ n ++ u ++ p) 26 6 = 33 := by
    simp (disch := decide) only [fldN, BitVec.extractLsb'_append_eq_of_le, BitVec.extractLsb'_append_eq_of_add_le]
    rfl
  simp only [decodeControl, hop]
  have hsub : fldN (0x421#11 ++ a ++ 0x0#6 ++ n ++ u ++ p) 21 5 = 1 := by
    simp (disch := decide) only [fldN, BitVec.extractLsb'_append_eq_of_le, BitVec.extractLsb'_append_eq_of_add_le]
    rfl
  simp only [decodeCtl21, hsub]
  simp (disch := decide) only [fldN, fld, BitVec.extractLsb'_append_eq_of_le, BitVec.extractLsb'_append_eq_of_add_le,
    BitVec.extractLsb'_eq_self]
  simp [checked, h]

theorem strmMc : ∀ a b n u p, Statement (.strmMc a b n u p) := fun a b n u p => of_control rfl rfl fun h => by
  have hop : fldN (0x422#11 ++ a ++ b ++ 0x0#1 ++ n ++ u ++ p) 26 6 = 33 := by
    simp (disch := decide) only [fldN, BitVec.extractLsb'_append_eq_of_le, BitVec.extractLsb'_append_eq_of_add_le]
    rfl
  simp only [decodeControl, hop]
  have hsub : fldN (0x422#11 ++ a ++ b ++ 0x0#1 ++ n ++ u ++ p) 21 5 = 2 := by
    simp (disch := decide) only [fldN, BitVec.extractLsb'_append_eq_of_le, BitVec.extractLsb'_append_eq_of_add_le]
    rfl
  simp only [decodeCtl21, hsub]
  simp (disch := decide) only [fldN, fld, BitVec.extractLsb'_append_eq_of_le, BitVec.extractLsb'_append_eq_of_add_le,
    BitVec.extractLsb'_eq_self]
  simp [checked, h]

theorem strmResume : ∀ a b n u p, Statement (.strmResume a b n u p) := fun a b n u p => of_control rfl rfl fun h => by
  have hop : fldN (0x423#11 ++ a ++ b ++ 0x0#1 ++ n ++ u ++ p) 26 6 = 33 := by
    simp (disch := decide) only [fldN, BitVec.extractLsb'_append_eq_of_le, BitVec.extractLsb'_append_eq_of_add_le]
    rfl
  simp only [decodeControl, hop]
  have hsub : fldN (0x423#11 ++ a ++ b ++ 0x0#1 ++ n ++ u ++ p) 21 5 = 3 := by
    simp (disch := decide) only [fldN, BitVec.extractLsb'_append_eq_of_le, BitVec.extractLsb'_append_eq_of_add_le]
    rfl
  simp only [decodeCtl21, hsub]
  simp (disch := decide) only [fldN, fld, BitVec.extractLsb'_append_eq_of_le, BitVec.extractLsb'_append_eq_of_add_le,
    BitVec.extractLsb'_eq_self]
  simp [checked, h]

theorem strmStop : ∀ a u p, Statement (.strmStop a u p) := fun a u p => of_control rfl rfl fun h => by
  have hop : fldN (0x424#11 ++ a ++ 0x0#10 ++ u ++ p) 26 6 = 33 := by
    simp (disch := decide) only [fldN, BitVec.extractLsb'_append_eq_of_le, BitVec.extractLsb'_append_eq_of_add_le]
    rfl
  simp only [decodeControl, hop]
  have hsub : fldN (0x424#11 ++ a ++ 0x0#10 ++ u ++ p) 21 5 = 4 := by
    simp (disch := decide) only [fldN, BitVec.extractLsb'_append_eq_of_le, BitVec.extractLsb'_append_eq_of_add_le]
    rfl
  simp only [decodeCtl21, hsub]
  simp (disch := decide) only [fldN, fld, BitVec.extractLsb'_append_eq_of_le, BitVec.extractLsb'_append_eq_of_add_le,
    BitVec.extractLsb'_eq_self]
  simp [checked, h]

theorem tfetch : ∀ a b u p, Statement (.tfetch a b u p) := fun a b u p => of_control rfl rfl fun h => by
  have hop : fldN (0x440#11 ++ a ++ b ++ 0x0#5 ++ u ++ p) 26 6 = 34 := by
    simp (disch := decide) only [fldN, BitVec.extractLsb'_append_eq_of_le, BitVec.extractLsb'_append_eq_of_add_le]
    rfl
  simp only [decodeControl, hop]
  simp (disch := decide) only [fldN, fld, BitVec.extractLsb'_append_eq_of_le, BitVec.extractLsb'_append_eq_of_add_le,
    BitVec.extractLsb'_eq_self]
  simp [checked, h]

theorem trel : ∀ a u p, Statement (.trel a u p) := fun a u p => of_control rfl rfl fun h => by
  have hop : fldN (0x460#11 ++ a ++ 0x0#10 ++ u ++ p) 26 6 = 35 := by
    simp (disch := decide) only [fldN, BitVec.extractLsb'_append_eq_of_le, BitVec.extractLsb'_append_eq_of_add_le]
    rfl
  simp only [decodeControl, hop]
  simp (disch := decide) only [fldN, fld, BitVec.extractLsb'_append_eq_of_le, BitVec.extractLsb'_append_eq_of_add_le,
    BitVec.extractLsb'_eq_self]
  simp [checked, h]

theorem copy : ∀ a b q u p, Statement (.copy a b q u p) := fun a b q u p => of_control rfl rfl fun h => by
  have hop : fldN (0x480#11 ++ a ++ b ++ q ++ u ++ p) 26 6 = 36 := by
    simp (disch := decide) only [fldN, BitVec.extractLsb'_append_eq_of_le, BitVec.extractLsb'_append_eq_of_add_le]
    rfl
  simp only [decodeControl, hop]
  simp (disch := decide) only [fldN, fld, BitVec.extractLsb'_append_eq_of_le, BitVec.extractLsb'_append_eq_of_add_le,
    BitVec.extractLsb'_eq_self]
  simp [checked, h]

theorem pref : ∀ a b u p, Statement (.pref a b u p) := fun a b u p => of_control rfl rfl fun h => by
  have hop : fldN (0x4a0#11 ++ a ++ b ++ 0x0#5 ++ u ++ p) 26 6 = 37 := by
    simp (disch := decide) only [fldN, BitVec.extractLsb'_append_eq_of_le, BitVec.extractLsb'_append_eq_of_add_le]
    rfl
  simp only [decodeControl, hop]
  simp (disch := decide) only [fldN, fld, BitVec.extractLsb'_append_eq_of_le, BitVec.extractLsb'_append_eq_of_add_le,
    BitVec.extractLsb'_eq_self]
  simp [checked, h]

theorem disc : ∀ a b u p, Statement (.disc a b u p) := fun a b u p => of_control rfl rfl fun h => by
  have hop : fldN (0x4c0#11 ++ a ++ b ++ 0x0#5 ++ u ++ p) 26 6 = 38 := by
    simp (disch := decide) only [fldN, BitVec.extractLsb'_append_eq_of_le, BitVec.extractLsb'_append_eq_of_add_le]
    rfl
  simp only [decodeControl, hop]
  simp (disch := decide) only [fldN, fld, BitVec.extractLsb'_append_eq_of_le, BitVec.extractLsb'_append_eq_of_add_le,
    BitVec.extractLsb'_eq_self]
  simp [checked, h]

theorem cfgLoad : ∀ a b u p, Statement (.cfgLoad a b u p) := fun a b u p => of_control rfl rfl fun h => by
  have hop : fldN (0x500#11 ++ a ++ b ++ 0x0#5 ++ u ++ p) 26 6 = 40 := by
    simp (disch := decide) only [fldN, BitVec.extractLsb'_append_eq_of_le, BitVec.extractLsb'_append_eq_of_add_le]
    rfl
  simp only [decodeControl, hop]
  have hsub : fldN (0x500#11 ++ a ++ b ++ 0x0#5 ++ u ++ p) 21 5 = 0 := by
    simp (disch := decide) only [fldN, BitVec.extractLsb'_append_eq_of_le, BitVec.extractLsb'_append_eq_of_add_le]
    rfl
  simp only [decodeCtl28, hsub]
  simp (disch := decide) only [fldN, fld, BitVec.extractLsb'_append_eq_of_le, BitVec.extractLsb'_append_eq_of_add_le,
    BitVec.extractLsb'_eq_self]
  simp [checked, h]

theorem cfgArm : ∀ b u p, Statement (.cfgArm b u p) := fun b u p => of_control rfl rfl fun h => by
  have hop : fldN (0xa020#16 ++ b ++ 0x0#5 ++ u ++ p) 26 6 = 40 := by
    simp (disch := decide) only [fldN, BitVec.extractLsb'_append_eq_of_le, BitVec.extractLsb'_append_eq_of_add_le]
    rfl
  simp only [decodeControl, hop]
  have hsub : fldN (0xa020#16 ++ b ++ 0x0#5 ++ u ++ p) 21 5 = 1 := by
    simp (disch := decide) only [fldN, BitVec.extractLsb'_append_eq_of_le, BitVec.extractLsb'_append_eq_of_add_le]
    rfl
  simp only [decodeCtl28, hsub]
  simp (disch := decide) only [fldN, fld, BitVec.extractLsb'_append_eq_of_le, BitVec.extractLsb'_append_eq_of_add_le,
    BitVec.extractLsb'_eq_self]
  simp [checked, h]

theorem cfgSwap : ∀ a u p, Statement (.cfgSwap a u p) := fun a u p => of_control rfl rfl fun h => by
  have hop : fldN (0x502#11 ++ a ++ 0x0#10 ++ u ++ p) 26 6 = 40 := by
    simp (disch := decide) only [fldN, BitVec.extractLsb'_append_eq_of_le, BitVec.extractLsb'_append_eq_of_add_le]
    rfl
  simp only [decodeControl, hop]
  have hsub : fldN (0x502#11 ++ a ++ 0x0#10 ++ u ++ p) 21 5 = 2 := by
    simp (disch := decide) only [fldN, BitVec.extractLsb'_append_eq_of_le, BitVec.extractLsb'_append_eq_of_add_le]
    rfl
  simp only [decodeCtl28, hsub]
  simp (disch := decide) only [fldN, fld, BitVec.extractLsb'_append_eq_of_le, BitVec.extractLsb'_append_eq_of_add_le,
    BitVec.extractLsb'_eq_self]
  simp [checked, h]

theorem cfgSeq : ∀ a u p, Statement (.cfgSeq a u p) := fun a u p => of_control rfl rfl fun h => by
  have hop : fldN (0x503#11 ++ a ++ 0x0#10 ++ u ++ p) 26 6 = 40 := by
    simp (disch := decide) only [fldN, BitVec.extractLsb'_append_eq_of_le, BitVec.extractLsb'_append_eq_of_add_le]
    rfl
  simp only [decodeControl, hop]
  have hsub : fldN (0x503#11 ++ a ++ 0x0#10 ++ u ++ p) 21 5 = 3 := by
    simp (disch := decide) only [fldN, BitVec.extractLsb'_append_eq_of_le, BitVec.extractLsb'_append_eq_of_add_le]
    rfl
  simp only [decodeCtl28, hsub]
  simp (disch := decide) only [fldN, fld, BitVec.extractLsb'_append_eq_of_le, BitVec.extractLsb'_append_eq_of_add_le,
    BitVec.extractLsb'_eq_self]
  simp [checked, h]

theorem cfgFree : ∀ u p, Statement (.cfgFree u p) := fun u p => of_control rfl rfl fun h => by
  have hop : fldN (0x2820000#26 ++ u ++ p) 26 6 = 40 := by
    simp (disch := decide) only [fldN, BitVec.extractLsb'_append_eq_of_le, BitVec.extractLsb'_append_eq_of_add_le]
    rfl
  simp only [decodeControl, hop]
  have hsub : fldN (0x2820000#26 ++ u ++ p) 21 5 = 4 := by
    simp (disch := decide) only [fldN, BitVec.extractLsb'_append_eq_of_le, BitVec.extractLsb'_append_eq_of_add_le]
    rfl
  simp only [decodeCtl28, hsub]
  simp (disch := decide) only [fldN, fld, BitVec.extractLsb'_append_eq_of_le, BitVec.extractLsb'_append_eq_of_add_le,
    BitVec.extractLsb'_eq_self]
  simp [checked, h]

theorem splice : ∀ a u p, Statement (.splice a u p) := fun a u p => of_control rfl rfl fun h => by
  have hop : fldN (0x520#11 ++ a ++ 0x0#10 ++ u ++ p) 26 6 = 41 := by
    simp (disch := decide) only [fldN, BitVec.extractLsb'_append_eq_of_le, BitVec.extractLsb'_append_eq_of_add_le]
    rfl
  simp only [decodeControl, hop]
  simp (disch := decide) only [fldN, fld, BitVec.extractLsb'_append_eq_of_le, BitVec.extractLsb'_append_eq_of_add_le,
    BitVec.extractLsb'_eq_self]
  simp [checked, h]

theorem launch : ∀ a u p, Statement (.launch a u p) := fun a u p => of_control rfl rfl fun h => by
  have hop : fldN (0x540#11 ++ a ++ 0x0#10 ++ u ++ p) 26 6 = 42 := by
    simp (disch := decide) only [fldN, BitVec.extractLsb'_append_eq_of_le, BitVec.extractLsb'_append_eq_of_add_le]
    rfl
  simp only [decodeControl, hop]
  simp (disch := decide) only [fldN, fld, BitVec.extractLsb'_append_eq_of_le, BitVec.extractLsb'_append_eq_of_add_le,
    BitVec.extractLsb'_eq_self]
  simp [checked, h]

theorem gsl : ∀ a b k u p, Statement (.gsl a b k u p) := fun a b k u p => of_control rfl rfl fun h => by
  have hop : fldN (0x560#11 ++ a ++ b ++ 0x0#2 ++ k ++ u ++ p) 26 6 = 43 := by
    simp (disch := decide) only [fldN, BitVec.extractLsb'_append_eq_of_le, BitVec.extractLsb'_append_eq_of_add_le]
    rfl
  simp only [decodeControl, hop]
  simp (disch := decide) only [fldN, fld, BitVec.extractLsb'_append_eq_of_le, BitVec.extractLsb'_append_eq_of_add_le,
    BitVec.extractLsb'_eq_self]
  simp [checked, h]

theorem rotJoin : ∀ a b r u p, Statement (.rotJoin a b r u p) := fun a b r u p => of_control rfl rfl fun h => by
  have hop : fldN (0x580#11 ++ a ++ b ++ 0x0#2 ++ r ++ u ++ p) 26 6 = 44 := by
    simp (disch := decide) only [fldN, BitVec.extractLsb'_append_eq_of_le, BitVec.extractLsb'_append_eq_of_add_le]
    rfl
  simp only [decodeControl, hop]
  have hsub : fldN (0x580#11 ++ a ++ b ++ 0x0#2 ++ r ++ u ++ p) 21 5 = 0 := by
    simp (disch := decide) only [fldN, BitVec.extractLsb'_append_eq_of_le, BitVec.extractLsb'_append_eq_of_add_le]
    rfl
  simp only [decodeCtl2C, hsub]
  simp (disch := decide) only [fldN, fld, BitVec.extractLsb'_append_eq_of_le, BitVec.extractLsb'_append_eq_of_add_le,
    BitVec.extractLsb'_eq_self]
  simp [checked, h]

theorem rotLeave : ∀ a b r u p, Statement (.rotLeave a b r u p) := fun a b r u p => of_control rfl rfl fun h => by
  have hop : fldN (0x581#11 ++ a ++ b ++ 0x0#2 ++ r ++ u ++ p) 26 6 = 44 := by
    simp (disch := decide) only [fldN, BitVec.extractLsb'_append_eq_of_le, BitVec.extractLsb'_append_eq_of_add_le]
    rfl
  simp only [decodeControl, hop]
  have hsub : fldN (0x581#11 ++ a ++ b ++ 0x0#2 ++ r ++ u ++ p) 21 5 = 1 := by
    simp (disch := decide) only [fldN, BitVec.extractLsb'_append_eq_of_le, BitVec.extractLsb'_append_eq_of_add_le]
    rfl
  simp only [decodeCtl2C, hsub]
  simp (disch := decide) only [fldN, fld, BitVec.extractLsb'_append_eq_of_le, BitVec.extractLsb'_append_eq_of_add_le,
    BitVec.extractLsb'_eq_self]
  simp [checked, h]

theorem rotSave : ∀ a r u p, Statement (.rotSave a r u p) := fun a r u p => of_control rfl rfl fun h => by
  have hop : fldN (0x582#11 ++ a ++ 0x0#7 ++ r ++ u ++ p) 26 6 = 44 := by
    simp (disch := decide) only [fldN, BitVec.extractLsb'_append_eq_of_le, BitVec.extractLsb'_append_eq_of_add_le]
    rfl
  simp only [decodeControl, hop]
  have hsub : fldN (0x582#11 ++ a ++ 0x0#7 ++ r ++ u ++ p) 21 5 = 2 := by
    simp (disch := decide) only [fldN, BitVec.extractLsb'_append_eq_of_le, BitVec.extractLsb'_append_eq_of_add_le]
    rfl
  simp only [decodeCtl2C, hsub]
  simp (disch := decide) only [fldN, fld, BitVec.extractLsb'_append_eq_of_le, BitVec.extractLsb'_append_eq_of_add_le,
    BitVec.extractLsb'_eq_self]
  simp [checked, h]

theorem rotLoad : ∀ a b r u p, Statement (.rotLoad a b r u p) := fun a b r u p => of_control rfl rfl fun h => by
  have hop : fldN (0x583#11 ++ a ++ b ++ 0x0#2 ++ r ++ u ++ p) 26 6 = 44 := by
    simp (disch := decide) only [fldN, BitVec.extractLsb'_append_eq_of_le, BitVec.extractLsb'_append_eq_of_add_le]
    rfl
  simp only [decodeControl, hop]
  have hsub : fldN (0x583#11 ++ a ++ b ++ 0x0#2 ++ r ++ u ++ p) 21 5 = 3 := by
    simp (disch := decide) only [fldN, BitVec.extractLsb'_append_eq_of_le, BitVec.extractLsb'_append_eq_of_add_le]
    rfl
  simp only [decodeCtl2C, hsub]
  simp (disch := decide) only [fldN, fld, BitVec.extractLsb'_append_eq_of_le, BitVec.extractLsb'_append_eq_of_add_le,
    BitVec.extractLsb'_eq_self]
  simp [checked, h]

theorem rotClr : ∀ a r u p, Statement (.rotClr a r u p) := fun a r u p => of_control rfl rfl fun h => by
  have hop : fldN (0x584#11 ++ a ++ 0x0#7 ++ r ++ u ++ p) 26 6 = 44 := by
    simp (disch := decide) only [fldN, BitVec.extractLsb'_append_eq_of_le, BitVec.extractLsb'_append_eq_of_add_le]
    rfl
  simp only [decodeControl, hop]
  have hsub : fldN (0x584#11 ++ a ++ 0x0#7 ++ r ++ u ++ p) 21 5 = 4 := by
    simp (disch := decide) only [fldN, BitVec.extractLsb'_append_eq_of_le, BitVec.extractLsb'_append_eq_of_add_le]
    rfl
  simp only [decodeCtl2C, hsub]
  simp (disch := decide) only [fldN, fld, BitVec.extractLsb'_append_eq_of_le, BitVec.extractLsb'_append_eq_of_add_le,
    BitVec.extractLsb'_eq_self]
  simp [checked, h]

theorem rotStat : ∀ a b r u p, Statement (.rotStat a b r u p) := fun a b r u p => of_control rfl rfl fun h => by
  have hop : fldN (0x585#11 ++ a ++ b ++ 0x0#2 ++ r ++ u ++ p) 26 6 = 44 := by
    simp (disch := decide) only [fldN, BitVec.extractLsb'_append_eq_of_le, BitVec.extractLsb'_append_eq_of_add_le]
    rfl
  simp only [decodeControl, hop]
  have hsub : fldN (0x585#11 ++ a ++ b ++ 0x0#2 ++ r ++ u ++ p) 21 5 = 5 := by
    simp (disch := decide) only [fldN, BitVec.extractLsb'_append_eq_of_le, BitVec.extractLsb'_append_eq_of_add_le]
    rfl
  simp only [decodeCtl2C, hsub]
  simp (disch := decide) only [fldN, fld, BitVec.extractLsb'_append_eq_of_le, BitVec.extractLsb'_append_eq_of_add_le,
    BitVec.extractLsb'_eq_self]
  simp [checked, h]

theorem sporeSet : ∀ a b u p, Statement (.sporeSet a b u p) := fun a b u p => of_control rfl rfl fun h => by
  have hop : fldN (0x5a0#11 ++ a ++ b ++ 0x0#5 ++ u ++ p) 26 6 = 45 := by
    simp (disch := decide) only [fldN, BitVec.extractLsb'_append_eq_of_le, BitVec.extractLsb'_append_eq_of_add_le]
    rfl
  simp only [decodeControl, hop]
  have hsub : fldN (0x5a0#11 ++ a ++ b ++ 0x0#5 ++ u ++ p) 21 5 = 0 := by
    simp (disch := decide) only [fldN, BitVec.extractLsb'_append_eq_of_le, BitVec.extractLsb'_append_eq_of_add_le]
    rfl
  simp only [decodeCtl2D, hsub]
  simp (disch := decide) only [fldN, fld, BitVec.extractLsb'_append_eq_of_le, BitVec.extractLsb'_append_eq_of_add_le,
    BitVec.extractLsb'_eq_self]
  simp [checked, h]

theorem sporeFill : ∀ a b u p, Statement (.sporeFill a b u p) := fun a b u p => of_control rfl rfl fun h => by
  have hop : fldN (0x5a1#11 ++ a ++ b ++ 0x0#5 ++ u ++ p) 26 6 = 45 := by
    simp (disch := decide) only [fldN, BitVec.extractLsb'_append_eq_of_le, BitVec.extractLsb'_append_eq_of_add_le]
    rfl
  simp only [decodeControl, hop]
  have hsub : fldN (0x5a1#11 ++ a ++ b ++ 0x0#5 ++ u ++ p) 21 5 = 1 := by
    simp (disch := decide) only [fldN, BitVec.extractLsb'_append_eq_of_le, BitVec.extractLsb'_append_eq_of_add_le]
    rfl
  simp only [decodeCtl2D, hsub]
  simp (disch := decide) only [fldN, fld, BitVec.extractLsb'_append_eq_of_le, BitVec.extractLsb'_append_eq_of_add_le,
    BitVec.extractLsb'_eq_self]
  simp [checked, h]

theorem sporeFail : ∀ a b u p, Statement (.sporeFail a b u p) := fun a b u p => of_control rfl rfl fun h => by
  have hop : fldN (0x5a2#11 ++ a ++ b ++ 0x0#5 ++ u ++ p) 26 6 = 45 := by
    simp (disch := decide) only [fldN, BitVec.extractLsb'_append_eq_of_le, BitVec.extractLsb'_append_eq_of_add_le]
    rfl
  simp only [decodeControl, hop]
  have hsub : fldN (0x5a2#11 ++ a ++ b ++ 0x0#5 ++ u ++ p) 21 5 = 2 := by
    simp (disch := decide) only [fldN, BitVec.extractLsb'_append_eq_of_le, BitVec.extractLsb'_append_eq_of_add_le]
    rfl
  simp only [decodeCtl2D, hsub]
  simp (disch := decide) only [fldN, fld, BitVec.extractLsb'_append_eq_of_le, BitVec.extractLsb'_append_eq_of_add_le,
    BitVec.extractLsb'_eq_self]
  simp [checked, h]

theorem sporePeek : ∀ a b u p, Statement (.sporePeek a b u p) := fun a b u p => of_control rfl rfl fun h => by
  have hop : fldN (0x5a3#11 ++ a ++ b ++ 0x0#5 ++ u ++ p) 26 6 = 45 := by
    simp (disch := decide) only [fldN, BitVec.extractLsb'_append_eq_of_le, BitVec.extractLsb'_append_eq_of_add_le]
    rfl
  simp only [decodeControl, hop]
  have hsub : fldN (0x5a3#11 ++ a ++ b ++ 0x0#5 ++ u ++ p) 21 5 = 3 := by
    simp (disch := decide) only [fldN, BitVec.extractLsb'_append_eq_of_le, BitVec.extractLsb'_append_eq_of_add_le]
    rfl
  simp only [decodeCtl2D, hsub]
  simp (disch := decide) only [fldN, fld, BitVec.extractLsb'_append_eq_of_le, BitVec.extractLsb'_append_eq_of_add_le,
    BitVec.extractLsb'_eq_self]
  simp [checked, h]

theorem kvt : ∀ a b u p, Statement (.kvt a b u p) := fun a b u p => of_control rfl rfl fun h => by
  have hop : fldN (0x5c0#11 ++ a ++ b ++ 0x0#5 ++ u ++ p) 26 6 = 46 := by
    simp (disch := decide) only [fldN, BitVec.extractLsb'_append_eq_of_le, BitVec.extractLsb'_append_eq_of_add_le]
    rfl
  simp only [decodeControl, hop]
  simp (disch := decide) only [fldN, fld, BitVec.extractLsb'_append_eq_of_le, BitVec.extractLsb'_append_eq_of_add_le,
    BitVec.extractLsb'_eq_self]
  simp [checked, h]

theorem pwrAsk : ∀ a b u p, Statement (.pwrAsk a b u p) := fun a b u p => of_control rfl rfl fun h => by
  have hop : fldN (0x5e0#11 ++ a ++ b ++ 0x0#5 ++ u ++ p) 26 6 = 47 := by
    simp (disch := decide) only [fldN, BitVec.extractLsb'_append_eq_of_le, BitVec.extractLsb'_append_eq_of_add_le]
    rfl
  simp only [decodeControl, hop]
  have hsub : fldN (0x5e0#11 ++ a ++ b ++ 0x0#5 ++ u ++ p) 21 5 = 0 := by
    simp (disch := decide) only [fldN, BitVec.extractLsb'_append_eq_of_le, BitVec.extractLsb'_append_eq_of_add_le]
    rfl
  simp only [decodeCtl2F, hsub]
  simp (disch := decide) only [fldN, fld, BitVec.extractLsb'_append_eq_of_le, BitVec.extractLsb'_append_eq_of_add_le,
    BitVec.extractLsb'_eq_self]
  simp [checked, h]

theorem pwrGive : ∀ a u p, Statement (.pwrGive a u p) := fun a u p => of_control rfl rfl fun h => by
  have hop : fldN (0x5e1#11 ++ a ++ 0x0#10 ++ u ++ p) 26 6 = 47 := by
    simp (disch := decide) only [fldN, BitVec.extractLsb'_append_eq_of_le, BitVec.extractLsb'_append_eq_of_add_le]
    rfl
  simp only [decodeControl, hop]
  have hsub : fldN (0x5e1#11 ++ a ++ 0x0#10 ++ u ++ p) 21 5 = 1 := by
    simp (disch := decide) only [fldN, BitVec.extractLsb'_append_eq_of_le, BitVec.extractLsb'_append_eq_of_add_le]
    rfl
  simp only [decodeCtl2F, hsub]
  simp (disch := decide) only [fldN, fld, BitVec.extractLsb'_append_eq_of_le, BitVec.extractLsb'_append_eq_of_add_le,
    BitVec.extractLsb'_eq_self]
  simp [checked, h]

theorem mfs : ∀ d i, Statement (.mfs d i) := fun d i => of_control rfl rfl fun h => by
  have hop : fldN (0x30#6 ++ d ++ 0x0#5 ++ i) 26 6 = 48 := by
    simp (disch := decide) only [fldN, BitVec.extractLsb'_append_eq_of_le, BitVec.extractLsb'_append_eq_of_add_le]
    rfl
  simp only [decodeControl, hop]
  simp (disch := decide) only [fldN, fld, BitVec.extractLsb'_append_eq_of_le, BitVec.extractLsb'_append_eq_of_add_le,
    BitVec.extractLsb'_eq_self]
  simp [checked, h]

theorem mts : ∀ a i, Statement (.mts a i) := fun a i => of_control rfl rfl fun h => by
  have hop : fldN (0x620#11 ++ a ++ i) 26 6 = 49 := by
    simp (disch := decide) only [fldN, BitVec.extractLsb'_append_eq_of_le, BitVec.extractLsb'_append_eq_of_add_le]
    rfl
  simp only [decodeControl, hop]
  simp (disch := decide) only [fldN, fld, BitVec.extractLsb'_append_eq_of_le, BitVec.extractLsb'_append_eq_of_add_le,
    BitVec.extractLsb'_eq_self]
  simp [checked, h]

theorem trap : ∀ i, Statement (.trap i) := fun i => of_control rfl rfl fun h => by
  have hop : fldN (0xc800#16 ++ i) 26 6 = 50 := by
    simp (disch := decide) only [fldN, BitVec.extractLsb'_append_eq_of_le, BitVec.extractLsb'_append_eq_of_add_le]
    rfl
  simp only [decodeControl, hop]
  simp (disch := decide) only [fldN, fld, BitVec.extractLsb'_append_eq_of_le, BitVec.extractLsb'_append_eq_of_add_le,
    BitVec.extractLsb'_eq_self]
  simp [checked, h]

theorem rte : Statement (.rte) := of_control rfl rfl fun _ => rfl

theorem halt : Statement (.halt) := of_control rfl rfl fun _ => rfl

theorem brk : ∀ i, Statement (.brk i) := fun i => of_control rfl rfl fun h => by
  have hop : fldN (0xd400#16 ++ i) 26 6 = 53 := by
    simp (disch := decide) only [fldN, BitVec.extractLsb'_append_eq_of_le, BitVec.extractLsb'_append_eq_of_add_le]
    rfl
  simp only [decodeControl, hop]
  simp (disch := decide) only [fldN, fld, BitVec.extractLsb'_append_eq_of_le, BitVec.extractLsb'_append_eq_of_add_le,
    BitVec.extractLsb'_eq_self]
  simp [checked, h]

theorem mark : ∀ i, Statement (.mark i) := fun i => of_control rfl rfl fun h => by
  have hop : fldN (0xd800#16 ++ i) 26 6 = 54 := by
    simp (disch := decide) only [fldN, BitVec.extractLsb'_append_eq_of_le, BitVec.extractLsb'_append_eq_of_add_le]
    rfl
  simp only [decodeControl, hop]
  simp (disch := decide) only [fldN, fld, BitVec.extractLsb'_append_eq_of_le, BitVec.extractLsb'_append_eq_of_add_le,
    BitVec.extractLsb'_eq_self]
  simp [checked, h]

theorem pin : ∀ p s u t, Statement (.pin p s u t) := fun p s u t => of_element rfl rfl fun h => by
  have hop : fldN (0x1#7 ++ p ++ s ++ u ++ t) 25 7 = 1 := by
    simp (disch := decide) only [fldN, BitVec.extractLsb'_append_eq_of_le, BitVec.extractLsb'_append_eq_of_add_le]
    rfl
  simp only [decodeElement, hop]
  simp (disch := decide) only [fldN, fld, BitVec.extractLsb'_append_eq_of_le, BitVec.extractLsb'_append_eq_of_add_le,
    BitVec.extractLsb'_eq_self]
  simp [checked, h]

theorem pout : ∀ p k, Statement (.pout p k) := fun p k => of_element rfl rfl fun h => by
  have hop : fldN (0x2#7 ++ p ++ 0x0#1 ++ k ++ 0x0#18) 25 7 = 2 := by
    simp (disch := decide) only [fldN, BitVec.extractLsb'_append_eq_of_le, BitVec.extractLsb'_append_eq_of_add_le]
    rfl
  simp only [decodeElement, hop]
  simp (disch := decide) only [fldN, fld, BitVec.extractLsb'_append_eq_of_le, BitVec.extractLsb'_append_eq_of_add_le,
    BitVec.extractLsb'_eq_self]
  simp [checked, h]

theorem pctlKeep : ∀ p, Statement (.pctlKeep p) := fun p => of_element rfl rfl fun h => by
  have hop : fldN (0x3#7 ++ p ++ 0x0#22) 25 7 = 3 := by
    simp (disch := decide) only [fldN, BitVec.extractLsb'_append_eq_of_le, BitVec.extractLsb'_append_eq_of_add_le]
    rfl
  simp only [decodeElement, hop]
  have hsub : fldN (0x3#7 ++ p ++ 0x0#22) 18 1 = 0 := by
    simp (disch := decide) only [fldN, BitVec.extractLsb'_append_eq_of_le, BitVec.extractLsb'_append_eq_of_add_le]
    rfl
  simp only [decodeElem03, hsub]
  simp (disch := decide) only [fldN, fld, BitVec.extractLsb'_append_eq_of_le, BitVec.extractLsb'_append_eq_of_add_le,
    BitVec.extractLsb'_eq_self]
  simp [checked, h]

theorem pctlRelease : ∀ p, Statement (.pctlRelease p) := fun p => of_element rfl rfl fun h => by
  have hop : fldN (0x3#7 ++ p ++ 0x40000#22) 25 7 = 3 := by
    simp (disch := decide) only [fldN, BitVec.extractLsb'_append_eq_of_le, BitVec.extractLsb'_append_eq_of_add_le]
    rfl
  simp only [decodeElement, hop]
  have hsub : fldN (0x3#7 ++ p ++ 0x40000#22) 18 1 = 1 := by
    simp (disch := decide) only [fldN, BitVec.extractLsb'_append_eq_of_le, BitVec.extractLsb'_append_eq_of_add_le]
    rfl
  simp only [decodeElem03, hsub]
  simp (disch := decide) only [fldN, fld, BitVec.extractLsb'_append_eq_of_le, BitVec.extractLsb'_append_eq_of_add_le,
    BitVec.extractLsb'_eq_self]
  simp [checked, h]

theorem pkind : ∀ p u t, Statement (.pkind p u t) := fun p u t => of_element rfl rfl fun h => by
  have hop : fldN (0x4#7 ++ p ++ 0x0#4 ++ u ++ t) 25 7 = 4 := by
    simp (disch := decide) only [fldN, BitVec.extractLsb'_append_eq_of_le, BitVec.extractLsb'_append_eq_of_add_le]
    rfl
  simp only [decodeElement, hop]
  simp (disch := decide) only [fldN, fld, BitVec.extractLsb'_append_eq_of_le, BitVec.extractLsb'_append_eq_of_add_le,
    BitVec.extractLsb'_eq_self]
  simp [checked, h]

theorem mov : ∀ q u t, Statement (.mov q u t) := fun q u t => of_element rfl rfl fun h => by
  have hop : fldN (0x50#11 ++ q ++ 0x0#2 ++ u ++ t) 25 7 = 5 := by
    simp (disch := decide) only [fldN, BitVec.extractLsb'_append_eq_of_le, BitVec.extractLsb'_append_eq_of_add_le]
    rfl
  simp only [decodeElement, hop]
  simp (disch := decide) only [fldN, fld, BitVec.extractLsb'_append_eq_of_le, BitVec.extractLsb'_append_eq_of_add_le,
    BitVec.extractLsb'_eq_self]
  simp [checked, h]

theorem const : ∀ i T t, Statement (.const i T t) := fun i T t => of_element rfl rfl fun h => by
  have hop : fldN (0x6#7 ++ i ++ T ++ 0x0#2 ++ t) 25 7 = 6 := by
    simp (disch := decide) only [fldN, BitVec.extractLsb'_append_eq_of_le, BitVec.extractLsb'_append_eq_of_add_le]
    rfl
  simp only [decodeElement, hop]
  simp (disch := decide) only [fldN, fld, BitVec.extractLsb'_append_eq_of_le, BitVec.extractLsb'_append_eq_of_add_le,
    BitVec.extractLsb'_eq_self]
  simp [checked, h]

theorem constw : ∀ T u t, Statement (.constw T u t) := fun T u t => of_element rfl rfl fun h => by
  have hop : fldN (0x7#7 ++ T ++ 0x0#3 ++ u ++ t) 25 7 = 7 := by
    simp (disch := decide) only [fldN, BitVec.extractLsb'_append_eq_of_le, BitVec.extractLsb'_append_eq_of_add_le]
    rfl
  simp only [decodeElement, hop]
  simp (disch := decide) only [fldN, fld, BitVec.extractLsb'_append_eq_of_le, BitVec.extractLsb'_append_eq_of_add_le,
    BitVec.extractLsb'_eq_self]
  simp [checked, h]

theorem getr : ∀ k t, Statement (.getr k t) := fun k t => of_element rfl rfl fun h => by
  have hop : fldN (0x100#12 ++ k ++ 0x0#6 ++ t) 25 7 = 8 := by
    simp (disch := decide) only [fldN, BitVec.extractLsb'_append_eq_of_le, BitVec.extractLsb'_append_eq_of_add_le]
    rfl
  simp only [decodeElement, hop]
  simp (disch := decide) only [fldN, fld, BitVec.extractLsb'_append_eq_of_le, BitVec.extractLsb'_append_eq_of_add_le,
    BitVec.extractLsb'_eq_self]
  simp [checked, h]

theorem laneid : ∀ T u t, Statement (.laneid T u t) := fun T u t => of_element rfl rfl fun h => by
  have hop : fldN (0x9#7 ++ T ++ 0x0#3 ++ u ++ t) 25 7 = 9 := by
    simp (disch := decide) only [fldN, BitVec.extractLsb'_append_eq_of_le, BitVec.extractLsb'_append_eq_of_add_le]
    rfl
  simp only [decodeElement, hop]
  simp (disch := decide) only [fldN, fld, BitVec.extractLsb'_append_eq_of_le, BitVec.extractLsb'_append_eq_of_add_le,
    BitVec.extractLsb'_eq_self]
  simp [checked, h]

theorem exit : ∀ n, Statement (.exit n) := fun n => of_element rfl rfl fun h => by
  have hop : fldN (0x500#14 ++ n ++ 0x0#15) 25 7 = 10 := by
    simp (disch := decide) only [fldN, BitVec.extractLsb'_append_eq_of_le, BitVec.extractLsb'_append_eq_of_add_le]
    rfl
  simp only [decodeElement, hop]
  simp (disch := decide) only [fldN, fld, BitVec.extractLsb'_append_eq_of_le, BitVec.extractLsb'_append_eq_of_add_le,
    BitVec.extractLsb'_eq_self]
  simp [checked, h]

theorem exitc : ∀ n, Statement (.exitc n) := fun n => of_element rfl rfl fun h => by
  have hop : fldN (0x580#14 ++ n ++ 0x0#15) 25 7 = 11 := by
    simp (disch := decide) only [fldN, BitVec.extractLsb'_append_eq_of_le, BitVec.extractLsb'_append_eq_of_add_le]
    rfl
  simp only [decodeElement, hop]
  simp (disch := decide) only [fldN, fld, BitVec.extractLsb'_append_eq_of_le, BitVec.extractLsb'_append_eq_of_add_le,
    BitVec.extractLsb'_eq_self]
  simp [checked, h]

theorem addE : ∀ T q v u t, Statement (.addE T q v u t) := fun T q v u t => of_element rfl rfl fun h => by
  have hop : fldN (0x10#7 ++ T ++ q ++ v ++ u ++ t) 25 7 = 16 := by
    simp (disch := decide) only [fldN, BitVec.extractLsb'_append_eq_of_le, BitVec.extractLsb'_append_eq_of_add_le]
    rfl
  simp only [decodeElement, hop]
  simp (disch := decide) only [fldN, fld, BitVec.extractLsb'_append_eq_of_le, BitVec.extractLsb'_append_eq_of_add_le,
    BitVec.extractLsb'_eq_self]
  simp [checked, h]

theorem subE : ∀ T q v u t, Statement (.subE T q v u t) := fun T q v u t => of_element rfl rfl fun h => by
  have hop : fldN (0x11#7 ++ T ++ q ++ v ++ u ++ t) 25 7 = 17 := by
    simp (disch := decide) only [fldN, BitVec.extractLsb'_append_eq_of_le, BitVec.extractLsb'_append_eq_of_add_le]
    rfl
  simp only [decodeElement, hop]
  simp (disch := decide) only [fldN, fld, BitVec.extractLsb'_append_eq_of_le, BitVec.extractLsb'_append_eq_of_add_le,
    BitVec.extractLsb'_eq_self]
  simp [checked, h]

theorem mulE : ∀ T q v u t, Statement (.mulE T q v u t) := fun T q v u t => of_element rfl rfl fun h => by
  have hop : fldN (0x12#7 ++ T ++ q ++ v ++ u ++ t) 25 7 = 18 := by
    simp (disch := decide) only [fldN, BitVec.extractLsb'_append_eq_of_le, BitVec.extractLsb'_append_eq_of_add_le]
    rfl
  simp only [decodeElement, hop]
  simp (disch := decide) only [fldN, fld, BitVec.extractLsb'_append_eq_of_le, BitVec.extractLsb'_append_eq_of_add_le,
    BitVec.extractLsb'_eq_self]
  simp [checked, h]

theorem mulhE : ∀ T q u t, Statement (.mulhE T q u t) := fun T q u t => of_element rfl rfl fun h => by
  have hop : fldN (0x13#7 ++ T ++ q ++ 0x0#2 ++ u ++ t) 25 7 = 19 := by
    simp (disch := decide) only [fldN, BitVec.extractLsb'_append_eq_of_le, BitVec.extractLsb'_append_eq_of_add_le]
    rfl
  simp only [decodeElement, hop]
  simp (disch := decide) only [fldN, fld, BitVec.extractLsb'_append_eq_of_le, BitVec.extractLsb'_append_eq_of_add_le,
    BitVec.extractLsb'_eq_self]
  simp [checked, h]

theorem mad : ∀ T q v u t, Statement (.mad T q v u t) := fun T q v u t => of_element rfl rfl fun h => by
  have hop : fldN (0x14#7 ++ T ++ q ++ v ++ u ++ t) 25 7 = 20 := by
    simp (disch := decide) only [fldN, BitVec.extractLsb'_append_eq_of_le, BitVec.extractLsb'_append_eq_of_add_le]
    rfl
  simp only [decodeElement, hop]
  simp (disch := decide) only [fldN, fld, BitVec.extractLsb'_append_eq_of_le, BitVec.extractLsb'_append_eq_of_add_le,
    BitVec.extractLsb'_eq_self]
  simp [checked, h]

theorem andE : ∀ T q u t, Statement (.andE T q u t) := fun T q u t => of_element rfl rfl fun h => by
  have hop : fldN (0x15#7 ++ T ++ q ++ 0x0#2 ++ u ++ t) 25 7 = 21 := by
    simp (disch := decide) only [fldN, BitVec.extractLsb'_append_eq_of_le, BitVec.extractLsb'_append_eq_of_add_le]
    rfl
  simp only [decodeElement, hop]
  simp (disch := decide) only [fldN, fld, BitVec.extractLsb'_append_eq_of_le, BitVec.extractLsb'_append_eq_of_add_le,
    BitVec.extractLsb'_eq_self]
  simp [checked, h]

theorem orE : ∀ T q u t, Statement (.orE T q u t) := fun T q u t => of_element rfl rfl fun h => by
  have hop : fldN (0x16#7 ++ T ++ q ++ 0x0#2 ++ u ++ t) 25 7 = 22 := by
    simp (disch := decide) only [fldN, BitVec.extractLsb'_append_eq_of_le, BitVec.extractLsb'_append_eq_of_add_le]
    rfl
  simp only [decodeElement, hop]
  simp (disch := decide) only [fldN, fld, BitVec.extractLsb'_append_eq_of_le, BitVec.extractLsb'_append_eq_of_add_le,
    BitVec.extractLsb'_eq_self]
  simp [checked, h]

theorem xorE : ∀ T q u t, Statement (.xorE T q u t) := fun T q u t => of_element rfl rfl fun h => by
  have hop : fldN (0x17#7 ++ T ++ q ++ 0x0#2 ++ u ++ t) 25 7 = 23 := by
    simp (disch := decide) only [fldN, BitVec.extractLsb'_append_eq_of_le, BitVec.extractLsb'_append_eq_of_add_le]
    rfl
  simp only [decodeElement, hop]
  simp (disch := decide) only [fldN, fld, BitVec.extractLsb'_append_eq_of_le, BitVec.extractLsb'_append_eq_of_add_le,
    BitVec.extractLsb'_eq_self]
  simp [checked, h]

theorem andnE : ∀ T q u t, Statement (.andnE T q u t) := fun T q u t => of_element rfl rfl fun h => by
  have hop : fldN (0x18#7 ++ T ++ q ++ 0x0#2 ++ u ++ t) 25 7 = 24 := by
    simp (disch := decide) only [fldN, BitVec.extractLsb'_append_eq_of_le, BitVec.extractLsb'_append_eq_of_add_le]
    rfl
  simp only [decodeElement, hop]
  simp (disch := decide) only [fldN, fld, BitVec.extractLsb'_append_eq_of_le, BitVec.extractLsb'_append_eq_of_add_le,
    BitVec.extractLsb'_eq_self]
  simp [checked, h]

theorem shlE : ∀ T q v u t, Statement (.shlE T q v u t) := fun T q v u t => of_element rfl rfl fun h => by
  have hop : fldN (0x19#7 ++ T ++ q ++ v ++ u ++ t) 25 7 = 25 := by
    simp (disch := decide) only [fldN, BitVec.extractLsb'_append_eq_of_le, BitVec.extractLsb'_append_eq_of_add_le]
    rfl
  simp only [decodeElement, hop]
  simp (disch := decide) only [fldN, fld, BitVec.extractLsb'_append_eq_of_le, BitVec.extractLsb'_append_eq_of_add_le,
    BitVec.extractLsb'_eq_self]
  simp [checked, h]

theorem shrE : ∀ T q u t, Statement (.shrE T q u t) := fun T q u t => of_element rfl rfl fun h => by
  have hop : fldN (0x1a#7 ++ T ++ q ++ 0x0#2 ++ u ++ t) 25 7 = 26 := by
    simp (disch := decide) only [fldN, BitVec.extractLsb'_append_eq_of_le, BitVec.extractLsb'_append_eq_of_add_le]
    rfl
  simp only [decodeElement, hop]
  simp (disch := decide) only [fldN, fld, BitVec.extractLsb'_append_eq_of_le, BitVec.extractLsb'_append_eq_of_add_le,
    BitVec.extractLsb'_eq_self]
  simp [checked, h]

theorem shraE : ∀ T q u t, Statement (.shraE T q u t) := fun T q u t => of_element rfl rfl fun h => by
  have hop : fldN (0x1b#7 ++ T ++ q ++ 0x0#2 ++ u ++ t) 25 7 = 27 := by
    simp (disch := decide) only [fldN, BitVec.extractLsb'_append_eq_of_le, BitVec.extractLsb'_append_eq_of_add_le]
    rfl
  simp only [decodeElement, hop]
  simp (disch := decide) only [fldN, fld, BitVec.extractLsb'_append_eq_of_le, BitVec.extractLsb'_append_eq_of_add_le,
    BitVec.extractLsb'_eq_self]
  simp [checked, h]

theorem minE : ∀ T q u t, Statement (.minE T q u t) := fun T q u t => of_element rfl rfl fun h => by
  have hop : fldN (0x1c#7 ++ T ++ q ++ 0x0#2 ++ u ++ t) 25 7 = 28 := by
    simp (disch := decide) only [fldN, BitVec.extractLsb'_append_eq_of_le, BitVec.extractLsb'_append_eq_of_add_le]
    rfl
  simp only [decodeElement, hop]
  simp (disch := decide) only [fldN, fld, BitVec.extractLsb'_append_eq_of_le, BitVec.extractLsb'_append_eq_of_add_le,
    BitVec.extractLsb'_eq_self]
  simp [checked, h]

theorem maxE : ∀ T q u t, Statement (.maxE T q u t) := fun T q u t => of_element rfl rfl fun h => by
  have hop : fldN (0x1d#7 ++ T ++ q ++ 0x0#2 ++ u ++ t) 25 7 = 29 := by
    simp (disch := decide) only [fldN, BitVec.extractLsb'_append_eq_of_le, BitVec.extractLsb'_append_eq_of_add_le]
    rfl
  simp only [decodeElement, hop]
  simp (disch := decide) only [fldN, fld, BitVec.extractLsb'_append_eq_of_le, BitVec.extractLsb'_append_eq_of_add_le,
    BitVec.extractLsb'_eq_self]
  simp [checked, h]

theorem abs : ∀ T q v u t, Statement (.abs T q v u t) := fun T q v u t => of_element rfl rfl fun h => by
  have hop : fldN (0x1e#7 ++ T ++ q ++ v ++ u ++ t) 25 7 = 30 := by
    simp (disch := decide) only [fldN, BitVec.extractLsb'_append_eq_of_le, BitVec.extractLsb'_append_eq_of_add_le]
    rfl
  simp only [decodeElement, hop]
  simp (disch := decide) only [fldN, fld, BitVec.extractLsb'_append_eq_of_le, BitVec.extractLsb'_append_eq_of_add_le,
    BitVec.extractLsb'_eq_self]
  simp [checked, h]

theorem clzE : ∀ T q u t, Statement (.clzE T q u t) := fun T q u t => of_element rfl rfl fun h => by
  have hop : fldN (0x1f#7 ++ T ++ q ++ 0x0#2 ++ u ++ t) 25 7 = 31 := by
    simp (disch := decide) only [fldN, BitVec.extractLsb'_append_eq_of_le, BitVec.extractLsb'_append_eq_of_add_le]
    rfl
  simp only [decodeElement, hop]
  simp (disch := decide) only [fldN, fld, BitVec.extractLsb'_append_eq_of_le, BitVec.extractLsb'_append_eq_of_add_le,
    BitVec.extractLsb'_eq_self]
  simp [checked, h]

theorem popcE : ∀ T q u t, Statement (.popcE T q u t) := fun T q u t => of_element rfl rfl fun h => by
  have hop : fldN (0x20#7 ++ T ++ q ++ 0x0#2 ++ u ++ t) 25 7 = 32 := by
    simp (disch := decide) only [fldN, BitVec.extractLsb'_append_eq_of_le, BitVec.extractLsb'_append_eq_of_add_le]
    rfl
  simp only [decodeElement, hop]
  simp (disch := decide) only [fldN, fld, BitVec.extractLsb'_append_eq_of_le, BitVec.extractLsb'_append_eq_of_add_le,
    BitVec.extractLsb'_eq_self]
  simp [checked, h]

theorem cmpeq : ∀ T q u t, Statement (.cmpeq T q u t) := fun T q u t => of_element rfl rfl fun h => by
  have hop : fldN (0x21#7 ++ T ++ q ++ 0x0#2 ++ u ++ t) 25 7 = 33 := by
    simp (disch := decide) only [fldN, BitVec.extractLsb'_append_eq_of_le, BitVec.extractLsb'_append_eq_of_add_le]
    rfl
  simp only [decodeElement, hop]
  simp (disch := decide) only [fldN, fld, BitVec.extractLsb'_append_eq_of_le, BitVec.extractLsb'_append_eq_of_add_le,
    BitVec.extractLsb'_eq_self]
  simp [checked, h]

theorem cmpne : ∀ T q u t, Statement (.cmpne T q u t) := fun T q u t => of_element rfl rfl fun h => by
  have hop : fldN (0x22#7 ++ T ++ q ++ 0x0#2 ++ u ++ t) 25 7 = 34 := by
    simp (disch := decide) only [fldN, BitVec.extractLsb'_append_eq_of_le, BitVec.extractLsb'_append_eq_of_add_le]
    rfl
  simp only [decodeElement, hop]
  simp (disch := decide) only [fldN, fld, BitVec.extractLsb'_append_eq_of_le, BitVec.extractLsb'_append_eq_of_add_le,
    BitVec.extractLsb'_eq_self]
  simp [checked, h]

theorem cmplt : ∀ T q u t, Statement (.cmplt T q u t) := fun T q u t => of_element rfl rfl fun h => by
  have hop : fldN (0x23#7 ++ T ++ q ++ 0x0#2 ++ u ++ t) 25 7 = 35 := by
    simp (disch := decide) only [fldN, BitVec.extractLsb'_append_eq_of_le, BitVec.extractLsb'_append_eq_of_add_le]
    rfl
  simp only [decodeElement, hop]
  simp (disch := decide) only [fldN, fld, BitVec.extractLsb'_append_eq_of_le, BitVec.extractLsb'_append_eq_of_add_le,
    BitVec.extractLsb'_eq_self]
  simp [checked, h]

theorem cmple : ∀ T q u t, Statement (.cmple T q u t) := fun T q u t => of_element rfl rfl fun h => by
  have hop : fldN (0x24#7 ++ T ++ q ++ 0x0#2 ++ u ++ t) 25 7 = 36 := by
    simp (disch := decide) only [fldN, BitVec.extractLsb'_append_eq_of_le, BitVec.extractLsb'_append_eq_of_add_le]
    rfl
  simp only [decodeElement, hop]
  simp (disch := decide) only [fldN, fld, BitVec.extractLsb'_append_eq_of_le, BitVec.extractLsb'_append_eq_of_add_le,
    BitVec.extractLsb'_eq_self]
  simp [checked, h]

theorem sel : ∀ T q u t, Statement (.sel T q u t) := fun T q u t => of_element rfl rfl fun h => by
  have hop : fldN (0x25#7 ++ T ++ q ++ 0x0#2 ++ u ++ t) 25 7 = 37 := by
    simp (disch := decide) only [fldN, BitVec.extractLsb'_append_eq_of_le, BitVec.extractLsb'_append_eq_of_add_le]
    rfl
  simp only [decodeElement, hop]
  simp (disch := decide) only [fldN, fld, BitVec.extractLsb'_append_eq_of_le, BitVec.extractLsb'_append_eq_of_add_le,
    BitVec.extractLsb'_eq_self]
  simp [checked, h]

theorem dot4 : ∀ T q v u t, Statement (.dot4 T q v u t) := fun T q v u t => of_element rfl rfl fun h => by
  have hop : fldN (0x26#7 ++ T ++ q ++ v ++ u ++ t) 25 7 = 38 := by
    simp (disch := decide) only [fldN, BitVec.extractLsb'_append_eq_of_le, BitVec.extractLsb'_append_eq_of_add_le]
    rfl
  simp only [decodeElement, hop]
  simp (disch := decide) only [fldN, fld, BitVec.extractLsb'_append_eq_of_le, BitVec.extractLsb'_append_eq_of_add_le,
    BitVec.extractLsb'_eq_self]
  simp [checked, h]

theorem fadd : ∀ T q v u t, Statement (.fadd T q v u t) := fun T q v u t => of_element rfl rfl fun h => by
  have hop : fldN (0x30#7 ++ T ++ q ++ v ++ u ++ t) 25 7 = 48 := by
    simp (disch := decide) only [fldN, BitVec.extractLsb'_append_eq_of_le, BitVec.extractLsb'_append_eq_of_add_le]
    rfl
  simp only [decodeElement, hop]
  simp (disch := decide) only [fldN, fld, BitVec.extractLsb'_append_eq_of_le, BitVec.extractLsb'_append_eq_of_add_le,
    BitVec.extractLsb'_eq_self]
  simp [checked, h]

theorem fsub : ∀ T q v u t, Statement (.fsub T q v u t) := fun T q v u t => of_element rfl rfl fun h => by
  have hop : fldN (0x31#7 ++ T ++ q ++ v ++ u ++ t) 25 7 = 49 := by
    simp (disch := decide) only [fldN, BitVec.extractLsb'_append_eq_of_le, BitVec.extractLsb'_append_eq_of_add_le]
    rfl
  simp only [decodeElement, hop]
  simp (disch := decide) only [fldN, fld, BitVec.extractLsb'_append_eq_of_le, BitVec.extractLsb'_append_eq_of_add_le,
    BitVec.extractLsb'_eq_self]
  simp [checked, h]

theorem fmul : ∀ T q v u t, Statement (.fmul T q v u t) := fun T q v u t => of_element rfl rfl fun h => by
  have hop : fldN (0x32#7 ++ T ++ q ++ v ++ u ++ t) 25 7 = 50 := by
    simp (disch := decide) only [fldN, BitVec.extractLsb'_append_eq_of_le, BitVec.extractLsb'_append_eq_of_add_le]
    rfl
  simp only [decodeElement, hop]
  simp (disch := decide) only [fldN, fld, BitVec.extractLsb'_append_eq_of_le, BitVec.extractLsb'_append_eq_of_add_le,
    BitVec.extractLsb'_eq_self]
  simp [checked, h]

theorem fma : ∀ T q v u t, Statement (.fma T q v u t) := fun T q v u t => of_element rfl rfl fun h => by
  have hop : fldN (0x33#7 ++ T ++ q ++ v ++ u ++ t) 25 7 = 51 := by
    simp (disch := decide) only [fldN, BitVec.extractLsb'_append_eq_of_le, BitVec.extractLsb'_append_eq_of_add_le]
    rfl
  simp only [decodeElement, hop]
  simp (disch := decide) only [fldN, fld, BitVec.extractLsb'_append_eq_of_le, BitVec.extractLsb'_append_eq_of_add_le,
    BitVec.extractLsb'_eq_self]
  simp [checked, h]

theorem fmin : ∀ T q u t, Statement (.fmin T q u t) := fun T q u t => of_element rfl rfl fun h => by
  have hop : fldN (0x34#7 ++ T ++ q ++ 0x0#2 ++ u ++ t) 25 7 = 52 := by
    simp (disch := decide) only [fldN, BitVec.extractLsb'_append_eq_of_le, BitVec.extractLsb'_append_eq_of_add_le]
    rfl
  simp only [decodeElement, hop]
  simp (disch := decide) only [fldN, fld, BitVec.extractLsb'_append_eq_of_le, BitVec.extractLsb'_append_eq_of_add_le,
    BitVec.extractLsb'_eq_self]
  simp [checked, h]

theorem fmax : ∀ T q u t, Statement (.fmax T q u t) := fun T q u t => of_element rfl rfl fun h => by
  have hop : fldN (0x35#7 ++ T ++ q ++ 0x0#2 ++ u ++ t) 25 7 = 53 := by
    simp (disch := decide) only [fldN, BitVec.extractLsb'_append_eq_of_le, BitVec.extractLsb'_append_eq_of_add_le]
    rfl
  simp only [decodeElement, hop]
  simp (disch := decide) only [fldN, fld, BitVec.extractLsb'_append_eq_of_le, BitVec.extractLsb'_append_eq_of_add_le,
    BitVec.extractLsb'_eq_self]
  simp [checked, h]

theorem fabs : ∀ T q u t, Statement (.fabs T q u t) := fun T q u t => of_element rfl rfl fun h => by
  have hop : fldN (0x36#7 ++ T ++ q ++ 0x0#2 ++ u ++ t) 25 7 = 54 := by
    simp (disch := decide) only [fldN, BitVec.extractLsb'_append_eq_of_le, BitVec.extractLsb'_append_eq_of_add_le]
    rfl
  simp only [decodeElement, hop]
  simp (disch := decide) only [fldN, fld, BitVec.extractLsb'_append_eq_of_le, BitVec.extractLsb'_append_eq_of_add_le,
    BitVec.extractLsb'_eq_self]
  simp [checked, h]

theorem fneg : ∀ T q u t, Statement (.fneg T q u t) := fun T q u t => of_element rfl rfl fun h => by
  have hop : fldN (0x37#7 ++ T ++ q ++ 0x0#2 ++ u ++ t) 25 7 = 55 := by
    simp (disch := decide) only [fldN, BitVec.extractLsb'_append_eq_of_le, BitVec.extractLsb'_append_eq_of_add_le]
    rfl
  simp only [decodeElement, hop]
  simp (disch := decide) only [fldN, fld, BitVec.extractLsb'_append_eq_of_le, BitVec.extractLsb'_append_eq_of_add_le,
    BitVec.extractLsb'_eq_self]
  simp [checked, h]

theorem fcmpeq : ∀ T q u t, Statement (.fcmpeq T q u t) := fun T q u t => of_element rfl rfl fun h => by
  have hop : fldN (0x38#7 ++ T ++ q ++ 0x0#2 ++ u ++ t) 25 7 = 56 := by
    simp (disch := decide) only [fldN, BitVec.extractLsb'_append_eq_of_le, BitVec.extractLsb'_append_eq_of_add_le]
    rfl
  simp only [decodeElement, hop]
  simp (disch := decide) only [fldN, fld, BitVec.extractLsb'_append_eq_of_le, BitVec.extractLsb'_append_eq_of_add_le,
    BitVec.extractLsb'_eq_self]
  simp [checked, h]

theorem fcmplt : ∀ T q u t, Statement (.fcmplt T q u t) := fun T q u t => of_element rfl rfl fun h => by
  have hop : fldN (0x39#7 ++ T ++ q ++ 0x0#2 ++ u ++ t) 25 7 = 57 := by
    simp (disch := decide) only [fldN, BitVec.extractLsb'_append_eq_of_le, BitVec.extractLsb'_append_eq_of_add_le]
    rfl
  simp only [decodeElement, hop]
  simp (disch := decide) only [fldN, fld, BitVec.extractLsb'_append_eq_of_le, BitVec.extractLsb'_append_eq_of_add_le,
    BitVec.extractLsb'_eq_self]
  simp [checked, h]

theorem fcmple : ∀ T q u t, Statement (.fcmple T q u t) := fun T q u t => of_element rfl rfl fun h => by
  have hop : fldN (0x3a#7 ++ T ++ q ++ 0x0#2 ++ u ++ t) 25 7 = 58 := by
    simp (disch := decide) only [fldN, BitVec.extractLsb'_append_eq_of_le, BitVec.extractLsb'_append_eq_of_add_le]
    rfl
  simp only [decodeElement, hop]
  simp (disch := decide) only [fldN, fld, BitVec.extractLsb'_append_eq_of_le, BitVec.extractLsb'_append_eq_of_add_le,
    BitVec.extractLsb'_eq_self]
  simp [checked, h]

theorem frcp : ∀ T q v u t, Statement (.frcp T q v u t) := fun T q v u t => of_element rfl rfl fun h => by
  have hop : fldN (0x3b#7 ++ T ++ q ++ v ++ u ++ t) 25 7 = 59 := by
    simp (disch := decide) only [fldN, BitVec.extractLsb'_append_eq_of_le, BitVec.extractLsb'_append_eq_of_add_le]
    rfl
  simp only [decodeElement, hop]
  simp (disch := decide) only [fldN, fld, BitVec.extractLsb'_append_eq_of_le, BitVec.extractLsb'_append_eq_of_add_le,
    BitVec.extractLsb'_eq_self]
  simp [checked, h]

theorem frsq : ∀ T q v u t, Statement (.frsq T q v u t) := fun T q v u t => of_element rfl rfl fun h => by
  have hop : fldN (0x3c#7 ++ T ++ q ++ v ++ u ++ t) 25 7 = 60 := by
    simp (disch := decide) only [fldN, BitVec.extractLsb'_append_eq_of_le, BitVec.extractLsb'_append_eq_of_add_le]
    rfl
  simp only [decodeElement, hop]
  simp (disch := decide) only [fldN, fld, BitVec.extractLsb'_append_eq_of_le, BitVec.extractLsb'_append_eq_of_add_le,
    BitVec.extractLsb'_eq_self]
  simp [checked, h]

theorem fexp2 : ∀ T q v u t, Statement (.fexp2 T q v u t) := fun T q v u t => of_element rfl rfl fun h => by
  have hop : fldN (0x3d#7 ++ T ++ q ++ v ++ u ++ t) 25 7 = 61 := by
    simp (disch := decide) only [fldN, BitVec.extractLsb'_append_eq_of_le, BitVec.extractLsb'_append_eq_of_add_le]
    rfl
  simp only [decodeElement, hop]
  simp (disch := decide) only [fldN, fld, BitVec.extractLsb'_append_eq_of_le, BitVec.extractLsb'_append_eq_of_add_le,
    BitVec.extractLsb'_eq_self]
  simp [checked, h]

theorem flog2 : ∀ T q v u t, Statement (.flog2 T q v u t) := fun T q v u t => of_element rfl rfl fun h => by
  have hop : fldN (0x3e#7 ++ T ++ q ++ v ++ u ++ t) 25 7 = 62 := by
    simp (disch := decide) only [fldN, BitVec.extractLsb'_append_eq_of_le, BitVec.extractLsb'_append_eq_of_add_le]
    rfl
  simp only [decodeElement, hop]
  simp (disch := decide) only [fldN, fld, BitVec.extractLsb'_append_eq_of_le, BitVec.extractLsb'_append_eq_of_add_le,
    BitVec.extractLsb'_eq_self]
  simp [checked, h]

theorem fclass : ∀ T q u t, Statement (.fclass T q u t) := fun T q u t => of_element rfl rfl fun h => by
  have hop : fldN (0x3f#7 ++ T ++ q ++ 0x0#2 ++ u ++ t) 25 7 = 63 := by
    simp (disch := decide) only [fldN, BitVec.extractLsb'_append_eq_of_le, BitVec.extractLsb'_append_eq_of_add_le]
    rfl
  simp only [decodeElement, hop]
  simp (disch := decide) only [fldN, fld, BitVec.extractLsb'_append_eq_of_le, BitVec.extractLsb'_append_eq_of_add_le,
    BitVec.extractLsb'_eq_self]
  simp [checked, h]

theorem cvt : ∀ q S D v t, Statement (.cvt q S D v t) := fun q S D v t => of_element rfl rfl fun h => by
  have hop : fldN (0x46#7 ++ q ++ 0x0#5 ++ S ++ D ++ v ++ t) 25 7 = 70 := by
    simp (disch := decide) only [fldN, BitVec.extractLsb'_append_eq_of_le, BitVec.extractLsb'_append_eq_of_add_le]
    rfl
  simp only [decodeElement, hop]
  simp (disch := decide) only [fldN, fld, BitVec.extractLsb'_append_eq_of_le, BitVec.extractLsb'_append_eq_of_add_le,
    BitVec.extractLsb'_eq_self]
  simp [checked, h]

theorem cvtsr : ∀ q S D t, Statement (.cvtsr q S D t) := fun q S D t => of_element rfl rfl fun h => by
  have hop : fldN (0x47#7 ++ q ++ 0x0#5 ++ S ++ D ++ 0x0#2 ++ t) 25 7 = 71 := by
    simp (disch := decide) only [fldN, BitVec.extractLsb'_append_eq_of_le, BitVec.extractLsb'_append_eq_of_add_le]
    rfl
  simp only [decodeElement, hop]
  simp (disch := decide) only [fldN, fld, BitVec.extractLsb'_append_eq_of_le, BitVec.extractLsb'_append_eq_of_add_le,
    BitVec.extractLsb'_eq_self]
  simp [checked, h]

theorem qbfp : ∀ q m S v t, Statement (.qbfp q m S v t) := fun q m S v t => of_element rfl rfl fun h => by
  have hop : fldN (0x48#7 ++ q ++ 0x0#1 ++ m ++ S ++ 0xc#4 ++ v ++ t) 25 7 = 72 := by
    simp (disch := decide) only [fldN, BitVec.extractLsb'_append_eq_of_le, BitVec.extractLsb'_append_eq_of_add_le]
    rfl
  simp only [decodeElement, hop]
  simp (disch := decide) only [fldN, fld, BitVec.extractLsb'_append_eq_of_le, BitVec.extractLsb'_append_eq_of_add_le,
    BitVec.extractLsb'_eq_self]
  simp [checked, h]

theorem dqbfp : ∀ q m D v t, Statement (.dqbfp q m D v t) := fun q m D v t => of_element rfl rfl fun h => by
  have hop : fldN (0x49#7 ++ q ++ 0x0#1 ++ m ++ 0xc#4 ++ D ++ v ++ t) 25 7 = 73 := by
    simp (disch := decide) only [fldN, BitVec.extractLsb'_append_eq_of_le, BitVec.extractLsb'_append_eq_of_add_le]
    rfl
  simp only [decodeElement, hop]
  simp (disch := decide) only [fldN, fld, BitVec.extractLsb'_append_eq_of_le, BitVec.extractLsb'_append_eq_of_add_le,
    BitVec.extractLsb'_eq_self]
  simp [checked, h]

theorem red : ∀ T q v u t, Statement (.red T q v u t) := fun T q v u t => of_element rfl rfl fun h => by
  have hop : fldN (0x4c#7 ++ T ++ q ++ v ++ u ++ t) 25 7 = 76 := by
    simp (disch := decide) only [fldN, BitVec.extractLsb'_append_eq_of_le, BitVec.extractLsb'_append_eq_of_add_le]
    rfl
  simp only [decodeElement, hop]
  simp (disch := decide) only [fldN, fld, BitVec.extractLsb'_append_eq_of_le, BitVec.extractLsb'_append_eq_of_add_le,
    BitVec.extractLsb'_eq_self]
  simp [checked, h]

theorem scan : ∀ T q v u t, Statement (.scan T q v u t) := fun T q v u t => of_element rfl rfl fun h => by
  have hop : fldN (0x4d#7 ++ T ++ q ++ v ++ u ++ t) 25 7 = 77 := by
    simp (disch := decide) only [fldN, BitVec.extractLsb'_append_eq_of_le, BitVec.extractLsb'_append_eq_of_add_le]
    rfl
  simp only [decodeElement, hop]
  simp (disch := decide) only [fldN, fld, BitVec.extractLsb'_append_eq_of_le, BitVec.extractLsb'_append_eq_of_add_le,
    BitVec.extractLsb'_eq_self]
  simp [checked, h]

theorem shuf : ∀ T q u t, Statement (.shuf T q u t) := fun T q u t => of_element rfl rfl fun h => by
  have hop : fldN (0x4e#7 ++ T ++ q ++ 0x0#2 ++ u ++ t) 25 7 = 78 := by
    simp (disch := decide) only [fldN, BitVec.extractLsb'_append_eq_of_le, BitVec.extractLsb'_append_eq_of_add_le]
    rfl
  simp only [decodeElement, hop]
  simp (disch := decide) only [fldN, fld, BitVec.extractLsb'_append_eq_of_le, BitVec.extractLsb'_append_eq_of_add_le,
    BitVec.extractLsb'_eq_self]
  simp [checked, h]

theorem bcst : ∀ k T t, Statement (.bcst k T t) := fun k T t => of_element rfl rfl fun h => by
  have hop : fldN (0x13c0#13 ++ k ++ T ++ 0x0#2 ++ t) 25 7 = 79 := by
    simp (disch := decide) only [fldN, BitVec.extractLsb'_append_eq_of_le, BitVec.extractLsb'_append_eq_of_add_le]
    rfl
  simp only [decodeElement, hop]
  simp (disch := decide) only [fldN, fld, BitVec.extractLsb'_append_eq_of_le, BitVec.extractLsb'_append_eq_of_add_le,
    BitVec.extractLsb'_eq_self]
  simp [checked, h]

theorem rotl : ∀ k T t, Statement (.rotl k T t) := fun k T t => of_element rfl rfl fun h => by
  have hop : fldN (0x1400#13 ++ k ++ T ++ 0x0#2 ++ t) 25 7 = 80 := by
    simp (disch := decide) only [fldN, BitVec.extractLsb'_append_eq_of_le, BitVec.extractLsb'_append_eq_of_add_le]
    rfl
  simp only [decodeElement, hop]
  simp (disch := decide) only [fldN, fld, BitVec.extractLsb'_append_eq_of_le, BitVec.extractLsb'_append_eq_of_add_le,
    BitVec.extractLsb'_eq_self]
  simp [checked, h]

theorem ldE : ∀ z o p s t, Statement (.ldE z o p s t) := fun z o p s t => of_element rfl rfl fun h => by
  have hop : fldN (0x52#7 ++ z ++ o ++ p ++ s ++ 0x0#1 ++ t) 25 7 = 82 := by
    simp (disch := decide) only [fldN, BitVec.extractLsb'_append_eq_of_le, BitVec.extractLsb'_append_eq_of_add_le]
    rfl
  simp only [decodeElement, hop]
  simp (disch := decide) only [fldN, fld, BitVec.extractLsb'_append_eq_of_le, BitVec.extractLsb'_append_eq_of_add_le,
    BitVec.extractLsb'_eq_self]
  simp [checked, h]

theorem stE : ∀ z o p s, Statement (.stE z o p s) := fun z o p s => of_element rfl rfl fun h => by
  have hop : fldN (0x53#7 ++ z ++ o ++ p ++ s ++ 0x0#10) 25 7 = 83 := by
    simp (disch := decide) only [fldN, BitVec.extractLsb'_append_eq_of_le, BitVec.extractLsb'_append_eq_of_add_le]
    rfl
  simp only [decodeElement, hop]
  simp (disch := decide) only [fldN, fld, BitVec.extractLsb'_append_eq_of_le, BitVec.extractLsb'_append_eq_of_add_le,
    BitVec.extractLsb'_eq_self]
  simp [checked, h]

theorem amoAddE : ∀ o p s t, Statement (.amoAddE o p s t) := fun o p s t => of_element rfl rfl fun h => by
  have hop : fldN (0x2a0#10 ++ o ++ p ++ s ++ 0x0#1 ++ t) 25 7 = 84 := by
    simp (disch := decide) only [fldN, BitVec.extractLsb'_append_eq_of_le, BitVec.extractLsb'_append_eq_of_add_le]
    rfl
  simp only [decodeElement, hop]
  have hsub : fldN (0x2a0#10 ++ o ++ p ++ s ++ 0x0#1 ++ t) 22 3 = 0 := by
    simp (disch := decide) only [fldN, BitVec.extractLsb'_append_eq_of_le, BitVec.extractLsb'_append_eq_of_add_le]
    rfl
  simp only [decodeElem54, hsub]
  simp (disch := decide) only [fldN, fld, BitVec.extractLsb'_append_eq_of_le, BitVec.extractLsb'_append_eq_of_add_le,
    BitVec.extractLsb'_eq_self]
  simp [checked, h]

theorem amoSwapE : ∀ o p s t, Statement (.amoSwapE o p s t) := fun o p s t => of_element rfl rfl fun h => by
  have hop : fldN (0x2a1#10 ++ o ++ p ++ s ++ 0x0#1 ++ t) 25 7 = 84 := by
    simp (disch := decide) only [fldN, BitVec.extractLsb'_append_eq_of_le, BitVec.extractLsb'_append_eq_of_add_le]
    rfl
  simp only [decodeElement, hop]
  have hsub : fldN (0x2a1#10 ++ o ++ p ++ s ++ 0x0#1 ++ t) 22 3 = 1 := by
    simp (disch := decide) only [fldN, BitVec.extractLsb'_append_eq_of_le, BitVec.extractLsb'_append_eq_of_add_le]
    rfl
  simp only [decodeElem54, hsub]
  simp (disch := decide) only [fldN, fld, BitVec.extractLsb'_append_eq_of_le, BitVec.extractLsb'_append_eq_of_add_le,
    BitVec.extractLsb'_eq_self]
  simp [checked, h]

theorem amoCasE : ∀ o p s t, Statement (.amoCasE o p s t) := fun o p s t => of_element rfl rfl fun h => by
  have hop : fldN (0x2a2#10 ++ o ++ p ++ s ++ 0x0#1 ++ t) 25 7 = 84 := by
    simp (disch := decide) only [fldN, BitVec.extractLsb'_append_eq_of_le, BitVec.extractLsb'_append_eq_of_add_le]
    rfl
  simp only [decodeElement, hop]
  have hsub : fldN (0x2a2#10 ++ o ++ p ++ s ++ 0x0#1 ++ t) 22 3 = 2 := by
    simp (disch := decide) only [fldN, BitVec.extractLsb'_append_eq_of_le, BitVec.extractLsb'_append_eq_of_add_le]
    rfl
  simp only [decodeElem54, hsub]
  simp (disch := decide) only [fldN, fld, BitVec.extractLsb'_append_eq_of_le, BitVec.extractLsb'_append_eq_of_add_le,
    BitVec.extractLsb'_eq_self]
  simp [checked, h]

theorem amoMinE : ∀ o p s t, Statement (.amoMinE o p s t) := fun o p s t => of_element rfl rfl fun h => by
  have hop : fldN (0x2a3#10 ++ o ++ p ++ s ++ 0x0#1 ++ t) 25 7 = 84 := by
    simp (disch := decide) only [fldN, BitVec.extractLsb'_append_eq_of_le, BitVec.extractLsb'_append_eq_of_add_le]
    rfl
  simp only [decodeElement, hop]
  have hsub : fldN (0x2a3#10 ++ o ++ p ++ s ++ 0x0#1 ++ t) 22 3 = 3 := by
    simp (disch := decide) only [fldN, BitVec.extractLsb'_append_eq_of_le, BitVec.extractLsb'_append_eq_of_add_le]
    rfl
  simp only [decodeElem54, hsub]
  simp (disch := decide) only [fldN, fld, BitVec.extractLsb'_append_eq_of_le, BitVec.extractLsb'_append_eq_of_add_le,
    BitVec.extractLsb'_eq_self]
  simp [checked, h]

theorem amoMaxE : ∀ o p s t, Statement (.amoMaxE o p s t) := fun o p s t => of_element rfl rfl fun h => by
  have hop : fldN (0x2a4#10 ++ o ++ p ++ s ++ 0x0#1 ++ t) 25 7 = 84 := by
    simp (disch := decide) only [fldN, BitVec.extractLsb'_append_eq_of_le, BitVec.extractLsb'_append_eq_of_add_le]
    rfl
  simp only [decodeElement, hop]
  have hsub : fldN (0x2a4#10 ++ o ++ p ++ s ++ 0x0#1 ++ t) 22 3 = 4 := by
    simp (disch := decide) only [fldN, BitVec.extractLsb'_append_eq_of_le, BitVec.extractLsb'_append_eq_of_add_le]
    rfl
  simp only [decodeElem54, hsub]
  simp (disch := decide) only [fldN, fld, BitVec.extractLsb'_append_eq_of_le, BitVec.extractLsb'_append_eq_of_add_le,
    BitVec.extractLsb'_eq_self]
  simp [checked, h]

theorem amoAndE : ∀ o p s t, Statement (.amoAndE o p s t) := fun o p s t => of_element rfl rfl fun h => by
  have hop : fldN (0x2a5#10 ++ o ++ p ++ s ++ 0x0#1 ++ t) 25 7 = 84 := by
    simp (disch := decide) only [fldN, BitVec.extractLsb'_append_eq_of_le, BitVec.extractLsb'_append_eq_of_add_le]
    rfl
  simp only [decodeElement, hop]
  have hsub : fldN (0x2a5#10 ++ o ++ p ++ s ++ 0x0#1 ++ t) 22 3 = 5 := by
    simp (disch := decide) only [fldN, BitVec.extractLsb'_append_eq_of_le, BitVec.extractLsb'_append_eq_of_add_le]
    rfl
  simp only [decodeElem54, hsub]
  simp (disch := decide) only [fldN, fld, BitVec.extractLsb'_append_eq_of_le, BitVec.extractLsb'_append_eq_of_add_le,
    BitVec.extractLsb'_eq_self]
  simp [checked, h]

theorem amoOrE : ∀ o p s t, Statement (.amoOrE o p s t) := fun o p s t => of_element rfl rfl fun h => by
  have hop : fldN (0x2a6#10 ++ o ++ p ++ s ++ 0x0#1 ++ t) 25 7 = 84 := by
    simp (disch := decide) only [fldN, BitVec.extractLsb'_append_eq_of_le, BitVec.extractLsb'_append_eq_of_add_le]
    rfl
  simp only [decodeElement, hop]
  have hsub : fldN (0x2a6#10 ++ o ++ p ++ s ++ 0x0#1 ++ t) 22 3 = 6 := by
    simp (disch := decide) only [fldN, BitVec.extractLsb'_append_eq_of_le, BitVec.extractLsb'_append_eq_of_add_le]
    rfl
  simp only [decodeElem54, hsub]
  simp (disch := decide) only [fldN, fld, BitVec.extractLsb'_append_eq_of_le, BitVec.extractLsb'_append_eq_of_add_le,
    BitVec.extractLsb'_eq_self]
  simp [checked, h]

theorem amoXorE : ∀ o p s t, Statement (.amoXorE o p s t) := fun o p s t => of_element rfl rfl fun h => by
  have hop : fldN (0x2a7#10 ++ o ++ p ++ s ++ 0x0#1 ++ t) 25 7 = 84 := by
    simp (disch := decide) only [fldN, BitVec.extractLsb'_append_eq_of_le, BitVec.extractLsb'_append_eq_of_add_le]
    rfl
  simp only [decodeElement, hop]
  have hsub : fldN (0x2a7#10 ++ o ++ p ++ s ++ 0x0#1 ++ t) 22 3 = 7 := by
    simp (disch := decide) only [fldN, BitVec.extractLsb'_append_eq_of_le, BitVec.extractLsb'_append_eq_of_add_le]
    rfl
  simp only [decodeElem54, hsub]
  simp (disch := decide) only [fldN, fld, BitVec.extractLsb'_append_eq_of_le, BitVec.extractLsb'_append_eq_of_add_le,
    BitVec.extractLsb'_eq_self]
  simp [checked, h]

theorem ldt : ∀ o p s t, Statement (.ldt o p s t) := fun o p s t => of_element rfl rfl fun h => by
  have hop : fldN (0x2a8#10 ++ o ++ p ++ s ++ 0x0#1 ++ t) 25 7 = 85 := by
    simp (disch := decide) only [fldN, BitVec.extractLsb'_append_eq_of_le, BitVec.extractLsb'_append_eq_of_add_le]
    rfl
  simp only [decodeElement, hop]
  simp (disch := decide) only [fldN, fld, BitVec.extractLsb'_append_eq_of_le, BitVec.extractLsb'_append_eq_of_add_le,
    BitVec.extractLsb'_eq_self]
  simp [checked, h]

theorem stt : ∀ o p s, Statement (.stt o p s) := fun o p s => of_element rfl rfl fun h => by
  have hop : fldN (0x2b0#10 ++ o ++ p ++ s ++ 0x0#10) 25 7 = 86 := by
    simp (disch := decide) only [fldN, BitVec.extractLsb'_append_eq_of_le, BitVec.extractLsb'_append_eq_of_add_le]
    rfl
  simp only [decodeElement, hop]
  simp (disch := decide) only [fldN, fld, BitVec.extractLsb'_append_eq_of_le, BitVec.extractLsb'_append_eq_of_add_le,
    BitVec.extractLsb'_eq_self]
  simp [checked, h]

theorem fenceE : ∀ c o p s, Statement (.fenceE c o p s) := fun c o p s => of_element rfl rfl fun h => by
  have hop : fldN (0x57#7 ++ c ++ o ++ p ++ s ++ 0x0#10) 25 7 = 87 := by
    simp (disch := decide) only [fldN, BitVec.extractLsb'_append_eq_of_le, BitVec.extractLsb'_append_eq_of_add_le]
    rfl
  simp only [decodeElement, hop]
  simp (disch := decide) only [fldN, fld, BitVec.extractLsb'_append_eq_of_le, BitVec.extractLsb'_append_eq_of_add_le,
    BitVec.extractLsb'_eq_self]
  simp [checked, h]

theorem tfill : ∀ p k, Statement (.tfill p k) := fun p k => of_element rfl rfl fun h => by
  have hop : fldN (0x5a#7 ++ p ++ k ++ 0x0#18) 25 7 = 90 := by
    simp (disch := decide) only [fldN, BitVec.extractLsb'_append_eq_of_le, BitVec.extractLsb'_append_eq_of_add_le]
    rfl
  simp only [decodeElement, hop]
  simp (disch := decide) only [fldN, fld, BitVec.extractLsb'_append_eq_of_le, BitVec.extractLsb'_append_eq_of_add_le,
    BitVec.extractLsb'_eq_self]
  simp [checked, h]

theorem tout : ∀ p k, Statement (.tout p k) := fun p k => of_element rfl rfl fun h => by
  have hop : fldN (0x5b#7 ++ p ++ k ++ 0x0#18) 25 7 = 91 := by
    simp (disch := decide) only [fldN, BitVec.extractLsb'_append_eq_of_le, BitVec.extractLsb'_append_eq_of_add_le]
    rfl
  simp only [decodeElement, hop]
  simp (disch := decide) only [fldN, fld, BitVec.extractLsb'_append_eq_of_le, BitVec.extractLsb'_append_eq_of_add_le,
    BitVec.extractLsb'_eq_self]
  simp [checked, h]

theorem tclr : ∀ k, Statement (.tclr k) := fun k => of_element rfl rfl fun h => by
  have hop : fldN (0x1700#13 ++ k ++ 0x0#15) 25 7 = 92 := by
    simp (disch := decide) only [fldN, BitVec.extractLsb'_append_eq_of_le, BitVec.extractLsb'_append_eq_of_add_le]
    rfl
  simp only [decodeElement, hop]
  simp (disch := decide) only [fldN, fld, BitVec.extractLsb'_append_eq_of_le, BitVec.extractLsb'_append_eq_of_add_le,
    BitVec.extractLsb'_eq_self]
  simp [checked, h]

theorem bitx : ∀ q s u t, Statement (.bitx q s u t) := fun q s u t => of_element rfl rfl fun h => by
  have hop : fldN (0x620#11 ++ q ++ 0x0#1 ++ s ++ u ++ t) 25 7 = 98 := by
    simp (disch := decide) only [fldN, BitVec.extractLsb'_append_eq_of_le, BitVec.extractLsb'_append_eq_of_add_le]
    rfl
  simp only [decodeElement, hop]
  simp (disch := decide) only [fldN, fld, BitVec.extractLsb'_append_eq_of_le, BitVec.extractLsb'_append_eq_of_add_le,
    BitVec.extractLsb'_eq_self]
  simp [checked, h]

theorem spadd : ∀ P q v u t, Statement (.spadd P q v u t) := fun P q v u t => of_element rfl rfl fun h => by
  have hop : fldN (0x63#7 ++ P ++ 0x0#1 ++ q ++ v ++ u ++ t) 25 7 = 99 := by
    simp (disch := decide) only [fldN, BitVec.extractLsb'_append_eq_of_le, BitVec.extractLsb'_append_eq_of_add_le]
    rfl
  simp only [decodeElement, hop]
  simp (disch := decide) only [fldN, fld, BitVec.extractLsb'_append_eq_of_le, BitVec.extractLsb'_append_eq_of_add_le,
    BitVec.extractLsb'_eq_self]
  simp [checked, h]

theorem topkIns : ∀ q u t, Statement (.topkIns q u t) := fun q u t => of_element rfl rfl fun h => by
  have hop : fldN (0x640#11 ++ q ++ 0x0#2 ++ u ++ t) 25 7 = 100 := by
    simp (disch := decide) only [fldN, BitVec.extractLsb'_append_eq_of_le, BitVec.extractLsb'_append_eq_of_add_le]
    rfl
  simp only [decodeElement, hop]
  simp (disch := decide) only [fldN, fld, BitVec.extractLsb'_append_eq_of_le, BitVec.extractLsb'_append_eq_of_add_le,
    BitVec.extractLsb'_eq_self]
  simp [checked, h]

theorem topkDrn : ∀ q u t, Statement (.topkDrn q u t) := fun q u t => of_element rfl rfl fun h => by
  have hop : fldN (0x650#11 ++ q ++ 0x0#2 ++ u ++ t) 25 7 = 101 := by
    simp (disch := decide) only [fldN, BitVec.extractLsb'_append_eq_of_le, BitVec.extractLsb'_append_eq_of_add_le]
    rfl
  simp only [decodeElement, hop]
  simp (disch := decide) only [fldN, fld, BitVec.extractLsb'_append_eq_of_le, BitVec.extractLsb'_append_eq_of_add_le,
    BitVec.extractLsb'_eq_self]
  simp [checked, h]

theorem cumt : ∀ q u t, Statement (.cumt q u t) := fun q u t => of_element rfl rfl fun h => by
  have hop : fldN (0x660#11 ++ q ++ 0x0#2 ++ u ++ t) 25 7 = 102 := by
    simp (disch := decide) only [fldN, BitVec.extractLsb'_append_eq_of_le, BitVec.extractLsb'_append_eq_of_add_le]
    rfl
  simp only [decodeElement, hop]
  simp (disch := decide) only [fldN, fld, BitVec.extractLsb'_append_eq_of_le, BitVec.extractLsb'_append_eq_of_add_le,
    BitVec.extractLsb'_eq_self]
  simp [checked, h]

theorem rng : ∀ T q u t, Statement (.rng T q u t) := fun T q u t => of_element rfl rfl fun h => by
  have hop : fldN (0x67#7 ++ T ++ q ++ 0x0#2 ++ u ++ t) 25 7 = 103 := by
    simp (disch := decide) only [fldN, BitVec.extractLsb'_append_eq_of_le, BitVec.extractLsb'_append_eq_of_add_le]
    rfl
  simp only [decodeElement, hop]
  simp (disch := decide) only [fldN, fld, BitVec.extractLsb'_append_eq_of_le, BitVec.extractLsb'_append_eq_of_add_le,
    BitVec.extractLsb'_eq_self]
  simp [checked, h]

theorem resid : ∀ q u t, Statement (.resid q u t) := fun q u t => of_element rfl rfl fun h => by
  have hop : fldN (0x68a#11 ++ q ++ 0x0#2 ++ u ++ t) 25 7 = 104 := by
    simp (disch := decide) only [fldN, BitVec.extractLsb'_append_eq_of_le, BitVec.extractLsb'_append_eq_of_add_le]
    rfl
  simp only [decodeElement, hop]
  simp (disch := decide) only [fldN, fld, BitVec.extractLsb'_append_eq_of_le, BitVec.extractLsb'_append_eq_of_add_le,
    BitVec.extractLsb'_eq_self]
  simp [checked, h]

theorem seam : ∀ B K X F, Statement (.seam B K X F) := fun B K X F => of_element rfl rfl fun h => by
  have hop : fldN (0x6b#7 ++ B ++ K ++ 0x28#7 ++ X ++ 0x28#6 ++ F) 25 7 = 107 := by
    simp (disch := decide) only [fldN, BitVec.extractLsb'_append_eq_of_le, BitVec.extractLsb'_append_eq_of_add_le]
    rfl
  simp only [decodeElement, hop]
  simp (disch := decide) only [fldN, fld, BitVec.extractLsb'_append_eq_of_le, BitVec.extractLsb'_append_eq_of_add_le,
    BitVec.extractLsb'_eq_self]
  simp [checked, h]

theorem hold : ∀ q, Statement (.hold q) := fun q => of_element rfl rfl fun h => by
  have hop : fldN (0x6c0#11 ++ q ++ 0x0#20) 25 7 = 108 := by
    simp (disch := decide) only [fldN, BitVec.extractLsb'_append_eq_of_le, BitVec.extractLsb'_append_eq_of_add_le]
    rfl
  simp only [decodeElement, hop]
  simp (disch := decide) only [fldN, fld, BitVec.extractLsb'_append_eq_of_le, BitVec.extractLsb'_append_eq_of_add_le,
    BitVec.extractLsb'_eq_self]
  simp [checked, h]

theorem phase : ∀ u t, Statement (.phase u t) := fun u t => of_element rfl rfl fun h => by
  have hop : fldN (0x3680#14 ++ u ++ t) 25 7 = 109 := by
    simp (disch := decide) only [fldN, BitVec.extractLsb'_append_eq_of_le, BitVec.extractLsb'_append_eq_of_add_le]
    rfl
  simp only [decodeElement, hop]
  simp (disch := decide) only [fldN, fld, BitVec.extractLsb'_append_eq_of_le, BitVec.extractLsb'_append_eq_of_add_le,
    BitVec.extractLsb'_eq_self]
  simp [checked, h]

theorem mma : ∀ f, Statement (.mma f) := fun f => of_record rfl rfl fun h => by
  simp [decodeMtu, encodeFields_op, mtuFields_encodeFields, checked, h]

theorem mmas : ∀ f, Statement (.mmas f) := fun f => of_record rfl rfl fun h => by
  simp [decodeMtu, encodeFields_op, mtuFields_encodeFields, checked, h]

theorem tadd : ∀ f, Statement (.tadd f) := fun f => of_record rfl rfl fun h => by
  simp [decodeMtu, encodeFields_op, mtuFields_encodeFields, checked, h]

theorem tscl : ∀ f, Statement (.tscl f) := fun f => of_record rfl rfl fun h => by
  simp [decodeMtu, encodeFields_op, mtuFields_encodeFields, checked, h]

theorem tcvt : ∀ f, Statement (.tcvt f) := fun f => of_record rfl rfl fun h => by
  simp [decodeMtu, encodeFields_op, mtuFields_encodeFields, checked, h]

theorem ttrn : ∀ f, Statement (.ttrn f) := fun f => of_record rfl rfl fun h => by
  simp [decodeMtu, encodeFields_op, mtuFields_encodeFields, checked, h]

theorem mtuReleasePoint : ∀ x0, Statement (.mtuReleasePoint x0) := fun _ => of_event rfl rfl
theorem mtuResult : ∀ x0, Statement (.mtuResult x0) := fun _ => of_event rfl rfl
theorem asyncDelivery : ∀ x0, Statement (.asyncDelivery x0) := fun _ => of_event rfl rfl
theorem hostLaunch : Statement (.hostLaunch) := of_event rfl rfl
theorem place : ∀ x0, Statement (.place x0) := fun _ => of_event rfl rfl
theorem recordAged : ∀ x0 x1 x2, Statement (.recordAged x0 x1 x2) := fun _ _ _ => of_event rfl rfl
theorem leaveGrant : Statement (.leaveGrant) := of_event rfl rfl
theorem arm : ∀ x0, Statement (.arm x0) := fun _ => of_event rfl rfl
theorem threadStart : ∀ x0, Statement (.threadStart x0) := fun _ => of_event rfl rfl
theorem taskStart : ∀ x0 x1, Statement (.taskStart x0 x1) := fun _ _ => of_event rfl rfl
theorem firingStart : ∀ x0, Statement (.firingStart x0) := fun _ => of_event rfl rfl
theorem planeDrain : ∀ x0, Statement (.planeDrain x0) := fun _ => of_event rfl rfl
theorem cutTake : ∀ x0, Statement (.cutTake x0) := fun _ => of_event rfl rfl
theorem portHeadToken : ∀ x0 x1, Statement (.portHeadToken x0 x1) := fun _ _ => of_event rfl rfl
theorem tokenHop : ∀ x0, Statement (.tokenHop x0) := fun _ => of_event rfl rfl
theorem creditReturn : ∀ x0 x1, Statement (.creditReturn x0 x1) := fun _ _ => of_event rfl rfl
theorem rateWindow : ∀ x0, Statement (.rateWindow x0) := fun _ => of_event rfl rfl
theorem planeSwitch : ∀ x0, Statement (.planeSwitch x0) := fun _ => of_event rfl rfl
theorem seqSwitch : ∀ x0, Statement (.seqSwitch x0) := fun _ => of_event rfl rfl
theorem spliceFeSwitch : ∀ x0, Statement (.spliceFeSwitch x0) := fun _ => of_event rfl rfl
theorem rotStep : ∀ x0 x1, Statement (.rotStep x0 x1) := fun _ _ => of_event rfl rfl
theorem slotFaultNotice : ∀ x0 x1, Statement (.slotFaultNotice x0 x1) := fun _ _ => of_event rfl rfl
theorem seamPkToken : ∀ x0 x1, Statement (.seamPkToken x0 x1) := fun _ _ => of_event rfl rfl
theorem memportIssue : ∀ x0, Statement (.memportIssue x0) := fun _ => of_event rfl rfl
theorem accessPerform : ∀ x0, Statement (.accessPerform x0) := fun _ => of_event rfl rfl
theorem waitsForChase : ∀ x0, Statement (.waitsForChase x0) := fun _ => of_event rfl rfl
theorem sporeTimeout : ∀ x0 x1 x2, Statement (.sporeTimeout x0 x1 x2) := fun _ _ _ => of_event rfl rfl
theorem l2Fill : ∀ x0 x1, Statement (.l2Fill x0 x1) := fun _ _ => of_event rfl rfl
theorem pageWalk : ∀ x0 x1 x2, Statement (.pageWalk x0 x1 x2) := fun _ _ _ => of_event rfl rfl
theorem peerDown : ∀ x0, Statement (.peerDown x0) := fun _ => of_event rfl rfl
theorem cxlPortLost : ∀ x0, Statement (.cxlPortLost x0) := fun _ => of_event rfl rfl
theorem streamBindingStart : ∀ x0, Statement (.streamBindingStart x0) := fun _ => of_event rfl rfl
theorem streamDeliver : ∀ x0 x1 x2, Statement (.streamDeliver x0 x1 x2) := fun _ _ _ => of_event rfl rfl
theorem streamTake : ∀ x0 x1, Statement (.streamTake x0 x1) := fun _ _ => of_event rfl rfl
theorem engineComplete : ∀ x0 x1 x2, Statement (.engineComplete x0 x1 x2) := fun _ _ _ => of_event rfl rfl
theorem waitqWake : ∀ x0, Statement (.waitqWake x0) := fun _ => of_event rfl rfl
theorem waitqTimeout : ∀ x0, Statement (.waitqTimeout x0) := fun _ => of_event rfl rfl
theorem guardTileIssue : ∀ x0 x1, Statement (.guardTileIssue x0 x1) := fun _ _ => of_event rfl rfl
theorem gangAllReady : ∀ x0, Statement (.gangAllReady x0) := fun _ => of_event rfl rfl
theorem gangStart : ∀ x0, Statement (.gangStart x0) := fun _ => of_event rfl rfl
theorem gangAbandon : ∀ x0, Statement (.gangAbandon x0) := fun _ => of_event rfl rfl
theorem cutComplete : ∀ x0, Statement (.cutComplete x0) := fun _ => of_event rfl rfl
theorem preemptSave : ∀ x0, Statement (.preemptSave x0) := fun _ => of_event rfl rfl
theorem preemptEscalate : ∀ x0, Statement (.preemptEscalate x0) := fun _ => of_event rfl rfl
theorem frqPost : ∀ x0, Statement (.frqPost x0) := fun _ => of_event rfl rfl
theorem uncorrectedError : ∀ x0 x1 x2, Statement (.uncorrectedError x0 x1 x2) := fun _ _ _ => of_event rfl rfl
theorem retire : ∀ x0, Statement (.retire x0) := fun _ => of_event rfl rfl
theorem scrubComplete : ∀ x0, Statement (.scrubComplete x0) := fun _ => of_event rfl rfl
theorem deviceFreeze : Statement (.deviceFreeze) := of_event rfl rfl
theorem deviceResume : Statement (.deviceResume) := of_event rfl rfl
theorem stepTimeout : Statement (.stepTimeout) := of_event rfl rfl
theorem debugCutWithdraw : Statement (.debugCutWithdraw) := of_event rfl rfl
theorem triggerApply : Statement (.triggerApply) := of_event rfl rfl
theorem capturePacketHead : ∀ x0 x1, Statement (.capturePacketHead x0 x1) := fun _ _ => of_event rfl rfl
theorem frqReplay : ∀ x0 x1, Statement (.frqReplay x0 x1) := fun _ _ => of_event rfl rfl
theorem frqAbort : ∀ x0 x1, Statement (.frqAbort x0 x1) := fun _ _ => of_event rfl rfl
theorem frqfatalClear : ∀ x0 x1, Statement (.frqfatalClear x0 x1) := fun _ _ => of_event rfl rfl
theorem dbgstatClear : ∀ x0, Statement (.dbgstatClear x0) := fun _ => of_event rfl rfl
theorem breakpointWrite : ∀ x0 x1, Statement (.breakpointWrite x0 x1) := fun _ _ => of_event rfl rfl
theorem registerWrite : ∀ x0 x1, Statement (.registerWrite x0 x1) := fun _ _ => of_event rfl rfl
theorem withdraw : Statement (.withdraw) := of_event rfl rfl
theorem kill : Statement (.kill) := of_event rfl rfl
theorem preempt : Statement (.preempt) := of_event rfl rfl
theorem asidroot : Statement (.asidroot) := of_event rfl rfl
theorem ctxarea : Statement (.ctxarea) := of_event rfl rfl
theorem parklim : Statement (.parklim) := of_event rfl rfl
theorem tracering : Statement (.tracering) := of_event rfl rfl
theorem triggerStart : Statement (.triggerStart) := of_event rfl rfl
theorem triggerStop : Statement (.triggerStop) := of_event rfl rfl
theorem triggerFreeze : Statement (.triggerFreeze) := of_event rfl rfl
theorem triggerResume : Statement (.triggerResume) := of_event rfl rfl
theorem tracepkt : Statement (.tracepkt) := of_event rfl rfl
theorem debugAttach : Statement (.debugAttach) := of_event rfl rfl
theorem debugDetach : Statement (.debugDetach) := of_event rfl rfl
theorem debugStep : Statement (.debugStep) := of_event rfl rfl
theorem debugCut : Statement (.debugCut) := of_event rfl rfl
theorem auditmir : Statement (.auditmir) := of_event rfl rfl
theorem auditsign : Statement (.auditsign) := of_event rfl rfl
theorem summary : Statement (.summary) := of_event rfl rfl
theorem linkcfg : Statement (.linkcfg) := of_event rfl rfl
theorem enrol : Statement (.enrol) := of_event rfl rfl
theorem enrolRemove : Statement (.enrolRemove) := of_event rfl rfl
theorem mrext : Statement (.mrext) := of_event rfl rfl
theorem sfill : Statement (.sfill) := of_event rfl rfl
theorem sfail : Statement (.sfail) := of_event rfl rfl
theorem hcqUnknownOp : Statement (.hcqUnknownOp) := of_event rfl rfl
theorem auditAppend : ∀ x0 x1 x2 x3, Statement (.auditAppend x0 x1 x2 x3) := fun _ _ _ _ => of_event rfl rfl
theorem boot : ∀ x0, Statement (.boot x0) := fun _ => of_event rfl rfl
theorem linkTimeout : ∀ x0, Statement (.linkTimeout x0) := fun _ => of_event rfl rfl
theorem idleFlit : ∀ x0, Statement (.idleFlit x0) := fun _ => of_event rfl rfl
theorem flitRetry : ∀ x0, Statement (.flitRetry x0) := fun _ => of_event rfl rfl
theorem ideIntegrityFail : ∀ x0 x1, Statement (.ideIntegrityFail x0 x1) := fun _ _ => of_event rfl rfl
theorem ideKm : ∀ x0 x1 x2, Statement (.ideKm x0 x1 x2) := fun _ _ _ => of_event rfl rfl
theorem getVersion : ∀ x0, Statement (.getVersion x0) := fun _ => of_event rfl rfl
theorem getCapabilities : ∀ x0, Statement (.getCapabilities x0) := fun _ => of_event rfl rfl
theorem negotiateAlgorithms : ∀ x0 x1, Statement (.negotiateAlgorithms x0 x1) := fun _ _ => of_event rfl rfl
theorem getDigests : ∀ x0, Statement (.getDigests x0) := fun _ => of_event rfl rfl
theorem getCertificate : ∀ x0 x1, Statement (.getCertificate x0 x1) := fun _ _ => of_event rfl rfl
theorem challenge : ∀ x0 x1 x2, Statement (.challenge x0 x1 x2) := fun _ _ _ => of_event rfl rfl
theorem getMeasurements : ∀ x0 x1, Statement (.getMeasurements x0 x1) := fun _ _ => of_event rfl rfl
theorem keyExchange : ∀ x0 x1 x2, Statement (.keyExchange x0 x1 x2) := fun _ _ _ => of_event rfl rfl
theorem finish : ∀ x0 x1, Statement (.finish x0 x1) := fun _ _ => of_event rfl rfl
theorem pwrstatUpdate : ∀ x0 x1, Statement (.pwrstatUpdate x0 x1) := fun _ _ => of_event rfl rfl
theorem powerLevelChange : ∀ x0, Statement (.powerLevelChange x0) := fun _ => of_event rfl rfl
theorem thermalPowerdown : Statement (.thermalPowerdown) := of_event rfl rfl
theorem illegal : ∀ x0, Statement (.illegal x0) := fun _ => of_event rfl rfl
theorem fetchFault : ∀ x0 x1, Statement (.fetchFault x0 x1) := fun _ _ => of_event rfl rfl
theorem frqconsWrite : ∀ x0 x1, Statement (.frqconsWrite x0 x1) := fun _ _ => of_event rfl rfl
theorem bar2Access : ∀ x0 x1 x2, Statement (.bar2Access x0 x1 x2) := fun _ _ _ => of_event rfl rfl
theorem zilostLinkMessage : ∀ x0 x1, Statement (.zilostLinkMessage x0 x1) := fun _ _ => of_event rfl rfl
theorem zilostPortUp : ∀ x0 x1 x2, Statement (.zilostPortUp x0 x1 x2) := fun _ _ _ => of_event rfl rfl
theorem backOffRetry : ∀ x0, Statement (.backOffRetry x0) := fun _ => of_event rfl rfl

end Sys2Proof.Laws.RoundTrip
end

