-- ==== Sys2Proof/Tests/Slice0.lean ====
section
/-! SUPPORT. Tests: ill-formed terms are refused, the manual's words decode, small steps give the manual's values, and
every statement's hypotheses are met by a concrete state (its witness). Expected values are computed from the rules by
hand; each test cites its rule. -/

set_option Elab.async false

namespace Sys2Proof.Tests

open Sys2Proof.Machine

/-! ### Helpers -/

/-- The instruction answers a next state that passes the check. -/
def runs (i : Instr) (s : State) (P : State → Bool) : Bool :=
  match exec i s with
  | .next t => P t
  | .fault _ => false
  | .refused _ => false

def okIs {ε α : Type} [DecidableEq α] (e : Except ε α) (x : α) : Bool :=
  match e with
  | .ok y => decide (y = x)
  | .error _ => false

theorem ok_of {ε α : Type} [DecidableEq α] {e : Except ε α} {x : α} (h : okIs e x = true) : e = .ok x := by
  cases e with
  | ok y => simp only [okIs, decide_eq_true_eq] at h; rw [h]
  | error y => simp [okIs] at h

def errIs {α : Type} (e : Except Code α) (x : Code) : Bool :=
  match e with
  | .ok _ => false
  | .error y => decide (y = x)

def quiet (s : State) : Bool :=
  s.front.dbg.attached.isEmpty && s.dies.toList.all fun d => d.trace.log.isEmpty && d.trace.door.isEmpty

theorem unobserved_of {s : State} (h : quiet s = true) : s.unobserved := by
  simp only [quiet, Bool.and_eq_true, List.all_eq_true, List.isEmpty_iff] at h
  refine ⟨h.1, fun d => ?_⟩
  rcases Nat.lt_or_ge d s.dies.toList.length with hd | hd
  · have hm : s.die d ∈ s.dies.toList := by
      simp only [State.die, vget, List.getD_eq_getElem?_getD, List.getElem?_eq_getElem hd, Option.getD_some]
      exact List.getElem_mem hd
    exact h.2 _ hm
  · have he : s.die d = default := by
      simp only [State.die, vget, List.getD_eq_getElem?_getD, List.getElem?_eq_none hd, Option.getD_none]
    rw [he]; exact ⟨rfl, rfl⟩

def calmB (s : State) (ag : Agent) (line : Nat) : Bool :=
  (s.l2Bring line).isSome && (s.rdcFind ag.die line none).isNone && (s.l2Find line).all fun x => !x.peerBit
theorem calm_of {s : State} {ag : Agent} {line : Nat} (h : calmB s ag line = true) : s.calmLine ag line := by
  simp only [calmB, Bool.and_eq_true, Option.isNone_iff_eq_none] at h
  refine ⟨h.1.1, fun c hc => ?_, fun x hx => ?_⟩
  · rw [h.1.2] at hc; cases hc
  · simpa [hx] using h.2

def plainB (s : State) (ag : Agent) (va n : Nat) (l : Leaf) : Bool :=
  decide (va % n = 0 ∧ 0 < n ∧ n ≤ 64 ∧ 64 % n = 0 ∧ va < 0x80000000000000 ∧ va + n ≤ 0x80000000000000 ∧
    l.pa % 64 = va % 64 ∧ l.p = false ∧ s.portGone l.pa = false ∧
    (l.t = true → s.tag (l.pa / 64) = 0 ∧ s.parkedAt ag.who (l.pa / 64) = false) ∧ s.bankServes ag.res l va = none ∧ s.tentReads ag.res = none ∧ s.tentWrites ag.res = none ∧
    s.poisoned (l.pa / 64) = false ∧ s.returns = []) && okIs (s.translate ag.die ag.asid va) l && quiet s &&
  calmB s ag (l.pa / 64) && decide (s.sent = [] ∧ s.passesBank ag.res = false)

theorem plain_of {s : State} {ag : Agent} {va n : Nat} {l : Leaf} (h : plainB s ag va n l = true) :
    s.plainAt ag va n l := by
  simp only [plainB, Bool.and_eq_true, decide_eq_true_eq] at h
  obtain ⟨⟨⟨⟨⟨h1, h2, h3, h4, h5, h6, h7, h9, h10, h11, h12, h13, h14, h15, h16⟩, h8⟩, h17⟩, h18⟩, h19, h20⟩ := h
  exact ⟨h1, h2, h3, h4, h5, h6, h7, ok_of h8, h9, h10, h11, h12, h13, h14, h15, h16, unobserved_of h17, calm_of h18, h19, h20⟩

/-! ### States -/

/-- Thread 1 of page 0 of die 0. -/
def q0 : ThreadId := ⟨0, 0, 1⟩
def r0 : ResId := ⟨0, 0⟩
def f0 : FeId := ⟨0, 0, 0⟩
/-- A translation of the first 512 MiB onto themselves, with every permission. -/
def leaf0 : Leaf := { pa := 0, r := true, w := true, x := true }
def leafAt (a : Nat) : Leaf := { leaf0 with pa := a }
def tlb0 : List TlbEntry := [{ die := 0, tile := 0, asid := 7, vpn := 0, block := true, leaf := leaf0, made := [] }]
def regs0 : Vector Word 32 := Vector.ofFn fun k => BitVec.ofNat 64 (0x40 * k.val)
def thr0 : Thread := { status := .ready, asid := 7, pc := 0x1000, tvec := 0x2000, g := regs0 }
/-- The current thread is `x`, its first 512 MiB are mapped, and memory holds `m`. -/
def ctl (x : Thread) (m : Memory := []) : State :=
  { booted := true, curThread := q0, threads := [(q0, x)], tlb := tlb0, mem := m }
def sA : State := ctl thr0 [(0x40, 0x80), (0x41, 0x12), (0x80, 0x05), (0x88, 0x01)]

/-- `n` bytes at `a` hold `v`. -/
def put (m : Memory) (a n v : Nat) : Memory := m.writeBytes a (leBytes n v)
def words (m : Memory) (a : Nat) : List Nat → Memory
  | [] => m
  | w :: ws => words (put m a 8 w) (a + 8) ws
def mtu0 : MtuFields :=
  { dst := 2, sa := 0, sb := 1, sc := 0, ka := 1, kb := 1, kc := 0, ta := 8, tb := 9, tc := 0, td := 10, rm := 0, sr := 0
    nsp := 0, mw := 0, bcol := 0, cuse := 0 }
/-- A residency on page 0 of die 0, armed, with thread 1 as its control thread. -/
def res0 : Residency := { state := .armed, asid := 7, thread := some q0 }
def pages0 : Vector PageEntry 48 := vset (.replicate 48 {}) 0 { state := .held }
def dies0 (d : Die) : Vector Die 4 := #v[d, {}, {}, {}]
/-- The current thread is `y`, which controls residency `x`; die 0 has what `d` has besides. -/
def ctlR (x : Residency) (m : Memory := []) (y : Thread := { thr0 with role := .control r0 }) (d : Die := {}) : State :=
  { ctl y m with dies := dies0 { d with res := [(0, x)], pages := pages0 } }

theorem vget_zero {n : Nat} {v : Vector Nat n} (h : (v.toList.all fun x => decide (x = 0)) = true) (i : Nat) :
    vget v i = 0 := by
  simp only [List.all_eq_true, decide_eq_true_eq] at h
  rw [vget, List.getD_eq_getElem?_getD]
  rcases Nat.lt_or_ge i v.toList.length with hd | hd
  · rw [List.getElem?_eq_getElem hd]; exact h _ (List.getElem_mem hd)
  · rw [List.getElem?_eq_none hd]; rfl

def okAnd {ε α : Type} (e : Except ε α) (P : α → Bool) : Bool :=
  match e with
  | .ok y => P y
  | .error _ => false
def errAnd {ε α : Type} (e : Except ε α) (P : ε → Bool) : Bool :=
  match e with
  | .ok _ => false
  | .error y => P y

theorem ok_and {ε α : Type} {e : Except ε α} {P : α → Bool} (h : okAnd e P = true) : ∃ x, e = .ok x ∧ P x = true := by
  cases e with
  | ok y => exact ⟨y, rfl, h⟩
  | error y => simp [okAnd] at h
theorem err_and {ε α : Type} {e : Except ε α} {P : ε → Bool} (h : errAnd e P = true) : ∃ x, e = .error x ∧ P x = true := by
  cases e with
  | ok y => simp [errAnd] at h
  | error y => exact ⟨y, rfl, h⟩

/-- A firing of plane 0, block 0 at slot 0 of FE 0, whose operands have arrived as listed; the block's words are `ws`. -/
def firing0 (ds : List (Opnd × Arrived)) : Firing := { plane := 0, block := 0, dels := ds.map fun d => ((0, d.1), d.2) }
def plane0 (ws : List (BitVec 32)) : Plane := { blocks := vset (.replicate 8 none) 0 (some { words := ws }) }
def fe0 (g : Firing) (p : Plane) : Fe := { firing := some g, planes := vset (.replicate 6 {}) 0 p }
def elm (g : Firing) (p : Plane := plane0 [0]) : State := { curFe := f0, fes := [(f0, fe0 g p)] }
/-- FE 0 has operands `.a`, `.b`, `.c`. -/
def abc (A B C : Line) : State := elm (firing0 [(.a, .value A), (.b, .value B), (.c, .value C)])
/-- A token of type `T` with the listed leading elements. -/
def tok (T : Nat) (xs : List Nat) : Line := ofElems T xs
/-- Element register 3 (target 0x183) then holds the listed leading elements of type `T`, and the next slot follows. -/
def e3 (i : Instr) (s : State) (T : Nat) (xs : List Nat) : Bool := runs i s fun t =>
  ((List.range xs.length).map (elem T (vget (t.plane f0 0).e 3)) = xs) && ((t.fe f0).firing.map (·.slot)) = some 1

theorem some_and {α : Type} {o : Option α} {P : α → Bool} (h : (o.any P) = true) : ∃ x, o = some x ∧ P x = true := by
  cases o with
  | none => simp at h
  | some y => exact ⟨y, rfl, by simpa using h⟩

def okSome {ε α : Type} (e : Except ε (Option α)) (P : α → Bool) : Bool :=
  match e with
  | .ok (some y) => P y
  | _ => false
theorem ok_some {ε α : Type} {e : Except ε (Option α)} {P : α → Bool} (h : okSome e P = true) :
    ∃ x, e = .ok (some x) ∧ P x = true := by
  cases e with
  | error y => simp [okSome] at h
  | ok y => cases y with
    | none => simp [okSome] at h
    | some z => exact ⟨z, rfl, h⟩


/-! ### Ill-formed terms (04 R81-R102) -/

/-- One term for each check of a control word: size codes 7 and 3, a scope above 4, and clauses naming their own unit or a
code above 4. -/
theorem test_wf_control : [Instr.ld 1 2 7 0, .st 1 2 7 0, .ldAcq 1 2 3, .stRel 1 2 3, .fence 5 0 0, .bar 1 0, .tokw 0 1,
    .spat 1 0 2 0, .strmIn 1 0 0 2, .tfetch 1 2 3 0, .trel 1 0 3, .copy 1 2 3 4 0, .pref 1 2 0 4, .disc 1 2 5 0,
    .cfgLoad 1 2 1 0, .splice 1 0 5, .launch 1 1 0, .kvt 1 2 0 1, .pwrGive 1 0 6].all (fun i => !i.wf) = true := by decide
/-- The same for an element word: targets with reserved bits or beyond the ports, registers and selectors; types, variants,
widths, kinds and chain numbers that are not admitted. -/
theorem test_wf_element : [Instr.pin 0 0 0x001 0, .pkind 0 0 0x148, .mov 0 0 0x1A0, .const 0 0 0x1C3, .pout 0 6,
    .const 0 12 0, .constw 12 0 0, .laneid 8 0 0, .addE 8 0 0 0 0, .subE 0 0 3 0 0, .mulhE 9 0 0 0, .andE 10 0 0 0,
    .shlE 0 0 3 0 0, .sel 12 0 0 0, .dot4 6 0 0 0 0, .dot4 4 0 3 0 0, .fadd 7 0 0 0 0, .fclass 12 0 0 0, .cvt 0 3 3 0 0,
    .cvt 0 8 0 3 0, .cvtsr 0 8 9 0, .qbfp 0 1 8 0 0, .dqbfp 0 4 11 0 0, .red 12 0 0 0 0, .scan 4 0 3 0 0, .shuf 13 0 0 0,
    .bcst 8 6 0, .rotl 15 11 0, .ldE 7 0 0 0 0, .stE 0 15 0 0, .amoAddE 15 0 0 0, .ldt 15 0 0 0, .stt 15 0 0,
    .fenceE 5 0 0 0, .rng 6 0 0 0, .bitx 0 0 0x001 0].all (fun i => !i.wf) = true := by decide
/-- The same for a record: a destination that is an operand, types that do not fit, a mantissa width where none is admitted,
a C operand of another type, slots of a sparse operand that overlap, stochastic rounding where none is admitted. -/
theorem test_wf_record : [Instr.mma { mtu0 with dst := 0 }, .mma { mtu0 with td := 11 }, .mma { mtu0 with mw := 4 },
    .mma { mtu0 with cuse := 1, tc := 8, sc := 5 }, .mma { mtu0 with nsp := 1 }, .mmas mtu0,
    .mmas { mtu0 with nsp := 2, sb := 14 }, .mmas { mtu0 with nsp := 2, dst := 3 }, .tadd mtu0, .tscl { mtu0 with tb := 8 },
    .tcvt { mtu0 with sb := 0, kb := 0, tb := 0, td := 8 }, .tcvt { mtu0 with sb := 0, kb := 0, tb := 0, sr := 1 },
    .ttrn { mtu0 with sb := 0, kb := 0, tb := 0, td := 8, rm := 1 }].all (fun i => !i.wf) = true := by decide
theorem test_wf_records_admitted : [Instr.mma mtu0, .mma { mtu0 with cuse := 1, tc := 10, sc := 5 },
    .mmas { mtu0 with nsp := 2, dst := 4 }, .tadd { mtu0 with tb := 8, td := 8 },
    .tcvt { mtu0 with sb := 0, kb := 0, tb := 0, ta := 10, td := 8, sr := 1 },
    .ttrn { mtu0 with sb := 0, kb := 0, tb := 0, td := 8 }].all (·.wf) = true := by decide
/-- An event names a unit that exists (01 R13-R20). -/
theorem test_wf_event : [Instr.mtuReleasePoint ⟨0, 48, 0⟩, .mtuResult ⟨0, 0, 24⟩, .asyncDelivery ⟨4, 0, 1⟩, .place 4,
    .recordAged 0 16 0, .arm ⟨0, 48⟩, .taskStart 0 48, .portHeadToken f0 8, .rotStep r0 8, .sporeTimeout 0 192 0,
    .pageWalk 4 0 0, .peerDown 64, .cxlPortLost 24, .guardTileIssue 0 16, .capturePacketHead 0 16, .linkTimeout 12,
    .getVersion 2, .ideKm 0 4 0, .zilostPortUp 0 64 1].all (fun i => !i.wf) = true := by decide

/-! ### Words written out from the manual's encodings -/

def isCtl (w : BitVec 32) (i : Instr) : Bool := (decodeControl w).toOption == some i && encodeWord i == some w
def isElem (w : BitVec 32) (i : Instr) : Bool := (decodeElement w).toOption == some i && encodeWord i == some w

/-- INT and immediate words (09). -/
theorem test_decode_int : (isCtl 0x04611000 (.add 3 1 2) && isCtl 0x04432318 (.lea 2 3 4 3) &&
    isCtl 0x0861FFFB (.addi 3 1 0xFFFB) && isCtl 0x18E78003 (.shiRa 7 7 3) && isCtl 0x1D22BEEF (.insi 9 2 0xBEEF)) = true := by
  decide
/-- Branches: BEQ g5, g6, -3; JAL g31, +10; JR g0, g31 (09 R190, R191). -/
theorem test_decode_branch : (isCtl 0x40A6FFFD (.beq 5 6 0xFFFD) && isCtl 0x5BE0000A (.jal 31 10) &&
    isCtl 0x5C1F0000 (.jr 0 31)) = true := by decide
/-- Memory words (13). -/
theorem test_decode_memory : (isCtl 0x30A4A008 (.ld 5 4 5 8) && isCtl 0x34C4DFF8 (.st 6 4 6 0x1FF8) &&
    isCtl 0x38E40098 (.ldAcq 7 4 2) && isCtl 0x38042869 (.stRel 4 5 1) && isCtl 0x38642892 (.amoCas 3 4 5 2 1) &&
    isCtl 0x3C000312 (.fence 3 1 2)) = true := by decide
/-- Queue, token, task words (08, 09). -/
theorem test_decode_wait : (isCtl 0x60042800 (.waitq 4 5 0) && isCtl 0x60042801 (.waitq 4 5 1) && isCtl 0x64000000 (.bar 0 0) &&
    isCtl 0x68000002 (.tokw 0 2) && isCtl 0x68000018 (.tokw 3 0) && isCtl 0x6C042800 (.spawn 4 5)) = true := by decide
/-- Engine words (13, 14). -/
theorem test_decode_engine : (isCtl 0x800400C0 (.spat 4 3 0 0) && isCtl 0x88042800 (.tfetch 4 5 0 0) &&
    isCtl 0x8C040000 (.trel 4 0 0) && isCtl 0x90042980 (.copy 4 5 6 0 0) && isCtl 0x94042800 (.pref 4 5 0 0) &&
    isCtl 0x98042800 (.disc 4 5 0 0)) = true := by decide
/-- Launch, guard, length and power words (06, 07, 16). -/
theorem test_decode_launch : (isCtl 0xA4060000 (.splice 6 0 0) && isCtl 0xA8060000 (.launch 6 0 0) &&
    isCtl 0xAC0428C0 (.gsl 4 5 3 0 0) && isCtl 0xB8042800 (.kvt 4 5 0 0) && isCtl 0xBC083800 (.pwrAsk 8 7 0 0) &&
    isCtl 0xBC280000 (.pwrGive 8 0 0)) = true := by decide
/-- System words (09, 18). -/
theorem test_decode_system : (isCtl 0xC0A00004 (.mfs 5 4) && isCtl 0xC4060010 (.mts 6 0x10) && isCtl 0xC8000021 (.trap 0x21) &&
    isCtl 0xCC000000 .rte && isCtl 0xD0000000 .halt && isCtl 0xD4000007 (.brk 7) && isCtl 0xD8000005 (.mark 5)) = true := by
  decide
/-- Element words (10, 05): a port, a firing's end, integer, dot product, fused multiply-add, island. -/
theorem test_decode_element : (isElem 0x04D40000 (.pout 3 5) && isElem 0x06000000 (.pctlKeep 0) && isElem 0x16010000 (.exitc 2) &&
    isElem 0x20440141 (.addE 2 0 1 0 0x141) && isElem 0x4C840183 (.dot4 4 0 1 0 0x183) &&
    isElem 0x67400141 (.fma 10 0 0 0 0x141) && isElem 0x90256142 (.qbfp 0 4 10 0 0x142) &&
    isElem 0xC4040140 (.bitx 0 1 0 0x140)) = true := by decide
/-- Element memory, tile, sampling and guard words (13, 14, 16, 07). -/
theorem test_decode_element_units : (isElem 0xA7443C00 (.stE 5 1 0 15) && isElem 0xB4940000 (.tfill 2 5) &&
    isElem 0xB64C0000 (.tout 1 3) && isElem 0xB8038000 (.tclr 7) && isElem 0xAA03C584 (.ldt 0 15 1 0x184) &&
    isElem 0xAC043C00 (.stt 1 0 15) && isElem 0xC6400140 (.spadd 1 0 0 0 0x140) && isElem 0xC8000142 (.topkIns 0 0 0x142) &&
    isElem 0xCA000143 (.topkDrn 0 0 0x143) && isElem 0xCC000184 (.cumt 0 0 0x184) && isElem 0xCF400185 (.rng 10 0 0 0x185) &&
    isElem 0xD14001C0 (.resid 0 0 0x1C0)) = true := by decide
/-- Rotation words, bit by bit: SEAM back 1, K 2, pX 3, fwd 4 with the fixed fields 0x28; HOLD; PHASE to p0 and e1
(11 R227-R232, 04 Table 4-9). -/
theorem test_decode_rotation : (isElem (0b1101011#7 ++ 1#3 ++ 2#3 ++ 0b0101000#7 ++ 3#3 ++ 0b101000#6 ++ 4#3) (.seam 1 2 3 4) &&
    isElem (0b1101100#7 ++ 0#4 ++ 1#1 ++ 0#20) (.hold 1) && isElem (0b1101101#7 ++ 0#7 ++ 0x141#9 ++ 0x181#9) (.phase 0x141 0x181)) =
    true := by decide
/-- An MTU record, field by field: MMA of slots 0 (.f16) and 1 (.bf16) into slot 2, one more reading of each (04 Table 4-11). -/
theorem test_decode_record : (decodeMtu (1#6 ++ 0#2 ++ 0#1 ++ 0#1 ++ 0#4 ++ 0#3 ++ 0#1 ++ 0#2 ++ 10#4 ++ 0#4 ++ 9#4 ++ 8#4 ++
    0#4 ++ 1#4 ++ 1#4 ++ 0#4 ++ 1#4 ++ 0#4 ++ 2#4)).toOption = some (.mma mtu0) ∧ (decodeMtu 0).toOption = none := by decide
/-- Rotation, spore and configuration words by their fields (04 Table 4-6): ROT.JOIN, ROT.STAT, SPORE.PEEK, CFG.SWAP. -/
theorem test_decode_cfg : (decodeControl (0b101000#6 ++ 0#5 ++ 4#5 ++ 5#5 ++ 0#5 ++ 0#6)).toOption = some (.cfgLoad 4 5 0 0) ∧
    ((decodeControl 0).toOption, (decodeControl 0x5C1F0001).toOption, (decodeControl 0xFC000000).toOption,
      (decodeElement 0).toOption) = (none, none, none, none) := by decide
/-- The table's numbering: a word alone, or a record of two words (04, opening). -/
theorem test_decode_table : decodeTableWord 32 0x04611000 = some (.add 3 1 2) ∧
    decodeTableWord 64 (((1#6 ++ 0#2 ++ 0#1 ++ 0#1 ++ 0#4 ++ 0#3 ++ 0#1 ++ 0#2 ++ 10#4 ++ 0#4 ++ 9#4 ++ 8#4 ++
      0#4 ++ 1#4 ++ 1#4 ++ 0#4 ++ 1#4 ++ 0#4 ++ 2#4) : BitVec 64).toNat) = some (.mma mtu0) := by decide +kernel

/-! ### INT, immediates, branches (09 R186-R191) -/

def ab (a b : Word) : State := ctl { thr0 with g := vset (vset regs0 1 a) 2 b }
def gives (i : Instr) (s : State) (v : Word) : Bool := runs i s fun t => t.rd 3 = v && t.cur.pc = 0x1004 && t.rd 4 = 0x100
/-- Sums wrap; a shift takes the low six bits of its count; the arithmetic shift keeps the sign. -/
theorem test_int : (gives (.add 3 1 2) (ab (-1) 1) 0 && gives (.sub 3 1 2) (ab 0 1) (-1) && gives (.and 3 1 2) (ab 12 10) 8 &&
    gives (.or 3 1 2) (ab 12 10) 14 && gives (.xor 3 1 2) (ab 12 10) 6 && gives (.andn 3 1 2) (ab 12 10) 4 &&
    gives (.shl 3 1 2) (ab 1 65) 2 && gives (.shr 3 1 2) (ab (-1) 63) 1 && gives (.shra 3 1 2) (ab (-2) 127) (-1)) = true := by
  decide +kernel
/-- The borderline cases 09 R186 names: DIV of -2^63 by -1 with its REM, REM by zero; and the high products. -/
theorem test_mul_div : (gives (.mul 3 1 2) (ab (-3) 5) (-15) && gives (.mulh 3 1 2) (ab (-1) (-1)) 0 &&
    gives (.mulhZ 3 1 2) (ab (-1) (-1)) (-2) && gives (.div 3 1 2) (ab 0x8000000000000000 (-1)) 0x8000000000000000 &&
    gives (.rem 3 1 2) (ab 0x8000000000000000 (-1)) 0 && gives (.div 3 1 2) (ab (-7) 2) (-3) && gives (.rem 3 1 2) (ab (-7) 2) (-1) &&
    gives (.div 3 1 2) (ab 5 0) (-1) && gives (.rem 3 1 2) (ab 5 0) 5 && gives (.divZ 3 1 2) (ab (-1) 2) 0x7FFFFFFFFFFFFFFF &&
    gives (.remZ 3 1 2) (ab 7 0) 7) = true := by decide +kernel
theorem test_min_max : (gives (.min 3 1 2) (ab (-1) 1) (-1) && gives (.max 3 1 2) (ab (-1) 1) 1 && gives (.minZ 3 1 2) (ab (-1) 1) 1 &&
    gives (.maxZ 3 1 2) (ab (-1) 1) (-1) && gives (.slt 3 1 2) (ab (-1) 1) 1 && gives (.sltZ 3 1 2) (ab (-1) 1) 0) = true := by
  decide +kernel
theorem test_count : (gives (.clz 3 1) (ab 0 0) 64 && gives (.clz 3 1) (ab 1 0) 63 && gives (.popc 3 1) (ab 0x8000000000000003 0) 3 &&
    gives (.lea 3 1 2 3) (ab 0x1000 (-1)) 0xFF8) = true := by decide +kernel
/-- Register 0 discards what is written to it and reads as zero; a source may be the destination. -/
theorem test_int_registers : (runs (.add 0 1 2) (ab 1 2) (fun t => t.rd 0 = 0 && t.rd 1 = 1) &&
    runs (.sub 1 1 1) (ab 9 2) (fun t => t.rd 1 = 0 && t.rd 2 = 2)) = true := by decide +kernel
/-- ADDI g3, g1, -5; the logical immediates are zero-extended; INSI keeps the other parts. -/
theorem test_immediates : (gives (.addi 3 1 0xFFFB) (ab 3 0) (-2) && gives (.andi 3 1 0xFFFF) (ab (-1) 0) 0xFFFF &&
    gives (.ori 3 1 0x8000) (ab 1 0) 0x8001 && gives (.xori 3 1 0xFFFF) (ab (-1) 0) 0xFFFFFFFFFFFF0000 &&
    gives (.shiL 3 1 63) (ab 3 0) 0x8000000000000000 && gives (.shiR 3 1 63) (ab (-1) 0) 1 && gives (.shiRa 3 1 3) (ab (-9) 0) (-2) &&
    gives (.slti 3 1 0xFFFF) (ab (-2) 0) 1 && gives (.sltiZ 3 1 0xFFFF) (ab (-2) 0) 0 &&
    gives (.insi 3 2 0xBEEF) (ctl thr0) 0xBEEF000000C0) = true := by decide +kernel
def goes (i : Instr) (s : State) (pc : Word) : Bool := runs i s fun t => t.cur.pc = pc && t.rd 1 = s.rd 1
/-- BEQ three words back; signed and unsigned conditions differ at -1 and 1. -/
theorem test_branches : (goes (.beq 1 2 0xFFFD) (ab 5 5) 0xFF4 && goes (.bne 1 2 0xFFFD) (ab 5 5) 0x1004 &&
    goes (.blt 1 2 4) (ab (-1) 1) 0x1010 && goes (.bge 1 2 4) (ab (-1) 1) 0x1004 && goes (.bltZ 1 2 4) (ab (-1) 1) 0x1004 &&
    goes (.bgeZ 1 2 4) (ab (-1) 1) 0x1010) = true := by decide +kernel
/-- JAL ten words ahead links the next address; JR reads its target before it links, here in the same register. -/
theorem test_jumps : (runs (.jal 31 10) (ab 0 0) (fun t => t.cur.pc = 0x1028 && t.rd 31 = 0x1004) &&
    runs (.jr 1 1) (ab 0x4000 0) (fun t => t.cur.pc = 0x4000 && t.rd 1 = 0x1004)) = true := by decide +kernel
theorem witness_branches_and_jumps : ((ab 0x4000 0).rd 1).toNat % 4 = 0 ∧ ((ab 0x4001 0).rd 1).toNat % 4 ≠ 0 ∧
    (ab 0x4001 0).canTrap := ⟨by decide +kernel, by decide +kernel, by unfold State.canTrap; decide +kernel⟩

/-! ### Loads, stores, atomics, fences (13 R289-R291) -/

def mA : Memory := put (put [] 0x40 8 0xFFFFFFFF80001280) 0x80 8 5
def sM : State := ctl thr0 mA
theorem witness_loads : sM.plainAt sM.curAgent ((sM.rd 1 + (0 : BitVec 13).signExtend 64).toNat) 2 (leafAt 0x40) ∧
    (leafAt 0x40).r = true ∧ sM.cur.sbuf = [] ∧ (2 : BitVec 3).toNat < 7 ∧
    sM.plainAt sM.curAgent (sM.rd 1).toNat 8 (leafAt 0x40) ∧ (2 : BitVec 2).toNat < 3 :=
  ⟨plain_of (by decide +kernel), by decide +kernel, by decide +kernel, by decide, plain_of (by decide +kernel), by decide⟩
/-- A byte and a half-word with and without sign, a word at a negative offset, a doubleword. -/
theorem test_ld : (gives (.ld 3 1 0 0) sM (-128) && gives (.ld 3 1 1 0) sM 0x80 && gives (.ld 3 1 2 0) sM 0x1280 &&
    gives (.ld 3 2 4 0x1FC0) sM 0xFFFFFFFF80001280 && gives (.ld 3 1 5 0) sM 0x80001280 && gives (.ld 3 2 6 0) sM 5) = true := by
  decide +kernel
theorem test_ld_acq : (gives (.ldAcq 3 1 0) sM 0xFFFFFFFF80001280 && gives (.ldAcq 3 1 1) sM 0x80001280) = true := by decide +kernel
theorem witness_stores : ((sM.rd 1 + (8 : BitVec 13).signExtend 64).toNat % 2 ^ ((6 : BitVec 3).toNat / 2) = 0) ∧
    (sM.rd 1 + (8 : BitVec 13).signExtend 64).toNat < 0x80000000000000 ∧
    sM.translate sM.curThread.die sM.cur.asid (sM.rd 1 + (8 : BitVec 13).signExtend 64).toNat = .ok (leafAt 0x48) ∧
    (leafAt 0x48).w = true ∧ (leafAt 0x48).r = true ∧ sM.returns = [] ∧
    sM.gone (leafAt 0x48) (sM.rd 1 + (8 : BitVec 13).signExtend 64).toNat = none :=
  ⟨by decide +kernel, by decide +kernel, ok_of (by decide +kernel), by decide, by decide, by decide, by decide +kernel⟩
/-- A store changes no byte as it retires; a load of the thread sees it, also in part and where it covers another store. -/
theorem test_st : (runs (.st 2 1 6 8) sM (fun t => t.mem = mA && t.cur.sbuf.length = 1 && t.cur.pc = 0x1004 &&
      runs (.ld 3 1 5 8) t (fun u => u.rd 3 = 0x80) && runs (.st 3 1 0 8) t fun u =>
        runs (.ld 3 1 6 8) u fun v => v.rd 3 = 0xC0)) = true := by decide +kernel
theorem test_st_rel : runs (.stRel 1 2 1) sM (fun t => t.mem = mA && t.cur.sbuf.map (·.len) = [4] &&
    t.cur.sbuf.map (·.data) = [0x80]) = true := by decide +kernel
theorem witness_atomics : sM.plainAt sM.curAgent (sM.rd 2).toNat 8 (leafAt 0x80) ∧ (leafAt 0x80).w = true ∧ sM.cur.sbuf = [] ∧
    sM.plainAt sM.curAgent (sM.rd 2).toNat 4 (leafAt 0x80) :=
  ⟨plain_of (by decide +kernel), by decide, by decide +kernel, plain_of (by decide +kernel)⟩
def amo (i : Instr) (v : Nat) : Bool := runs i sM fun t => t.rd 3 = 5 && leNat (t.mem.readBytes 0x80 8) = v && t.rd 4 = 0x100
/-- The word 5 at [g2], g1 = 0x40, g4 = 0x100: the old word is returned, the new one stands in memory. CAS compares g[d]. -/
theorem test_amo : (amo (.amoAdd 3 2 1 2 0) 0x45 && amo (.amoSwap 3 2 1 2 0) 0x40 && amo (.amoMin 3 2 1 2 0) 5 &&
    amo (.amoMax 3 2 1 2 0) 0x40 && amo (.amoAnd 3 2 1 2 0) 0 && amo (.amoOr 3 2 1 2 0) 0x45 && amo (.amoXor 3 2 1 2 0) 0x45 &&
    amo (.amoCas 3 2 1 2 0) 5 && runs (.amoCas 3 2 1 2 0) (ctl { thr0 with g := vset regs0 3 5 } mA) (fun t =>
      t.rd 3 = 5 && leNat (t.mem.readBytes 0x80 8) = 0x40)) = true := by decide +kernel
theorem witness_fence : sM.cur.sbuf = [] ∧ sM.performedAt (.thread sM.curThread) 4 = true ∧ sM.cur.enginesSettled = true ∧
    sM.cur.mcBusy = false := by decide +kernel
/-- FENCE with ST forgets the words fetched before (09 R178); at ELEM scope it does not wait for the buffered stores (17 R348). -/
theorem test_fence : (runs (.fence 3 0 2) (ctl { thr0 with fetched := [(0, 1)] }) (fun t => t.cur.fetched = [] && t.cur.pc = 0x1004) &&
    runs (.fence 0 0 2) (ctl { thr0 with sbuf := [⟨.glob 0x40 (leafAt 0x40) 0x40, 2, 0x2345, 0x40, 0x1000, 0, false⟩] })
      (fun t => t.cur.pc = 0x1004 && t.cur.sbuf.length = 1)) = true := by decide +kernel
theorem witness_misaligned : (ab 0x41 0).canTrap ∧ ((ab 0x41 0).rd 1 + (0 : BitVec 13).signExtend 64).toNat % 2 ≠ 0 ∧
    ((ab 0x41 0).rd 1).toNat % 4 ≠ 0 ∧ ((ab 0x44 0).rd 1).toNat % 8 ≠ 0 :=
  ⟨by unfold State.canTrap; decide +kernel, by decide +kernel, by decide +kernel, by decide +kernel⟩
def trapsWith (i : Instr) (s : State) (c : Code) (w1 ret : Word) : Bool := runs i s fun t =>
  t.cur.pc = 0x2000 && t.cur.intrap && t.cur.tpc = ret && fldN (vget t.cur.trec 0) 0 8 = codeNum c && vget t.cur.trec 1 = w1
theorem test_misaligned : (trapsWith (.ld 3 1 2 0) (ab 0x41 0) .misaligned 0x41 0x1000 &&
    trapsWith (.st 3 1 6 0) (ab 0x44 0) .misaligned 0x44 0x1000 && trapsWith (.amoAdd 3 1 2 0 0) (ab 0x42 0) .misaligned 0x42 0x1000 &&
    trapsWith (.ldAcq 3 1 2) (ab 0x44 0) .misaligned 0x44 0x1000 && trapsWith (.jr 3 1) (ab 0x42 0) .misaligned 0x42 0x1000) = true := by
  decide +kernel

/-! ### Waits, tokens, tasks, engines (08 R168-R172, 09 R183-R185, 13 R272) -/

/-- A queue record at 0x80: head 5, tail 6, size 1. -/
def mQ : Memory := put (put (put [] 0x80 4 5) 0x84 4 6) 0x88 4 1
def sQ : State := ctl thr0 mQ
theorem witness_waitq : sQ.plainAt sQ.curAgent (sQ.rd 2).toNat 64 (leafAt 0x80) ∧ (leafAt 0x80).r = true ∧ sQ.cur.sbuf = [] ∧
    (sQ.rd 0).toNat < 2 ^ 48 ∧ leNat (sQ.mem.readBytes 0x88 4) = 1 ∧ sQ.rd 0 = 0 :=
  ⟨plain_of (by decide +kernel), by decide, by decide +kernel, by decide +kernel, by decide +kernel, by decide +kernel⟩
/-- One entry is in the full queue: a taker passes, a giver waits. -/
theorem test_waitq : (runs (.waitq 2 0 0) sQ (fun t => t.cur.pc = 0x1004) &&
    runs (.waitq 2 0 1) sQ (fun t => t.cur.pc = 0x1000 && t.cur.status = .stalled)) = true := by decide +kernel
/-- The thread is stalled in WAITQ g2, g3, 1 since cycle 0; its limit 0xC0 passes now. -/
def sQw (c : Nat) : State :=
  { ctl { thr0 with status := .stalled, word := 0x60021800#32 + BitVec.ofNat 32 c, waitFrom := some 0 } mQ with cyc := 0xC0 }
theorem witness_waitq_wakes : ∀ c ∈ [0, 1], (sQw c).plainAt (sQw c).curAgent ((sQw c).rd 2).toNat 64 (leafAt 0x80) ∧
    ((sQw c).rd 3).toNat < 2 ^ 48 ∧ (sQw c).cur.status = .stalled ∧ (sQw c).cur.paused = none ∧ (sQw c).cur.held = [] ∧ (sQw c).cur.ending = none ∧
    (sQw c).stoppedThread q0 = false ∧ (decodeControl (sQw c).cur.word).toOption = some (.waitq 2 3 (BitVec.ofNat 1 c)) ∧
    ((sQw c).rd 3).toNat ≠ 0 ∧ ((sQw c).rd 3).toNat ≤ (sQw c).cyc - (sQw c).cur.waitFrom.getD (sQw c).cyc := by
  intro c hc
  have h : c = 0 ∨ c = 1 := by simpa using hc
  rcases h with rfl | rfl <;> exact ⟨plain_of (by decide +kernel), by decide +kernel⟩
theorem test_waitq_wakes : (runs (.waitqWake q0) (sQw 0) (fun t => t.cur.pc = 0x1004 && t.cur.status = .ready) &&
    runs (.waitqTimeout q0) (sQw 1) (fun t => t.cur.intrap && vget t.cur.trec 1 = 0x80 && vget t.cur.trec 2 = 5 + 6 * 2 ^ 32 &&
      vget t.cur.trec 3 = 1 + 0xC0 * 2 ^ 16)) = true := by decide +kernel

/-- FIFO SE to CP holds one token; FIFO CP to TF holds `n`. -/
def sTok (n : Nat) : State := ctl { thr0 with fifo := vset (vset (.replicate 12 0) (fifoIdx 1 0) 1) (fifoIdx 0 2) n }
theorem witness_tokens : (Instr.tokw 3 2).wf = true ∧ (∀ n, (sTok n).cur.popTaken = none) ∧
    (∀ n, ∀ i, vget (sTok n).cur.returned i = 0) ∧ 0 < vget (sTok 15).cur.fifo (fifoIdx 1 0) ∧
    vget (sTok 15).cur.fifo (fifoIdx 0 2) < 16 ∧ vget (sTok 16).cur.fifo (fifoIdx 0 2) = 16 :=
  ⟨by decide, fun _ => rfl, fun _ => vget_zero (v := .replicate 12 0) (by decide +kernel), by decide +kernel, by decide +kernel,
    by decide +kernel⟩
theorem test_tokw : (runs (.tokw 3 2) (sTok 15) (fun t => vget t.cur.fifo (fifoIdx 1 0) = 0 && vget t.cur.fifo (fifoIdx 0 2) = 16 &&
      t.cur.status = .ready) &&
    runs (.tokw 3 2) (sTok 16) (fun t => t.cur.pc = 0x1004 && t.cur.status = .stalled && t.cur.pushOwed = some (fifoIdx 0 2))) =
    true := by decide +kernel
theorem witness_empty_pop : (2 : BitVec 3) ≠ 0 ∧ sM.cur.popTaken = none ∧ ∀ u, u < 4 → vget sM.cur.fifo (fifoIdx 1 u) = 0 := by decide +kernel
theorem test_empty_pop : (runs (.tokw 0 2) sM (fun t => t.cur.status = .stalled && t.cur.pc = 0x1000) &&
    runs (.launch 6 0 2) sM (fun t => t.cur.status = .stalled && t.cur.pc = 0x1000 && t.dies = sM.dies)) = true := by decide +kernel
/-- FE 0 has an access of its plane 0 that has reached the port and not performed. -/
def sBar : State := { ctlR res0 with fes := [(f0, { port := [{ id := 1, plane := 0, block := 0, slot := 0, ordinal := 0, own := 0, pred := 0, succ := 0, kind := .load 2 }] })] }
theorem witness_bar : sM.canPop 0 ∧ sM.curRes = none ∧ (ctlR res0).canPop 0 ∧ (ctlR res0).curRes = some r0 ∧
    (ctlR res0).hasRes r0 = true ∧ (ctlR res0).cur.bar = none ∧ (ctlR res0).barDone ((ctlR res0).barSet r0) = true ∧
    (ctlR res0).pitchStored r0 = true ∧ sBar.barDone (sBar.barSet r0) = false :=
  ⟨.inl rfl, by decide +kernel, .inl rfl, by decide +kernel⟩
/-- BAR's own wait is over; a store that issued since has not performed (17 R352). -/
def sBarHeld : State := { ctlR res0 [] { thr0 with role := .control r0, bar := some { cmds := [], eos := [], ops := [] } } with
  fes := [(f0, { port := [{ id := 1, plane := 0, block := 0, slot := 0, ordinal := 0, own := 0, pred := 0, succ := 0, kind := .store 2 0, stage := .issued }] })] }
theorem witness_bar_stores : sBarHeld.curRes = some r0 ∧ sBarHeld.hasRes r0 = true ∧ sBarHeld.cur.bar = some { cmds := [], eos := [], ops := [] } ∧
    sBarHeld.barDone { cmds := [], eos := [], ops := [] } = true ∧ sBarHeld.pitchStored r0 = false ∧
    ((sBarHeld.threadsOf r0).all fun h => sBarHeld.drained h) = true ∧ (sBarHeld.issue 0).isSome = true ∧
    (sBarHeld.drainPitch r0).pitchStored r0 = false ∧ (sBarHeld.drainPitch r0).curThread = q0 := by decide +kernel
theorem test_bar_stores : runs (.bar 0 0) sBarHeld (fun t => t.cur.pc = 0x1000 && t.cur.status = .stalled && (t.res r0).phase.seq = 0) = true := by
  decide +kernel
theorem test_bar : runs (.bar 0 0) (ctlR res0) (fun t => t.cur.pc = 0x1004 && (t.res r0).phase.seq = 1) = true := by decide +kernel

/-- The packet at 0x80: entry 0x4000, arguments 1 to 6, DONE 0x200. -/
def mPkt : Memory :=
  put (put (put (put (put (put (put (put [] 0x80 8 0x4000) 0x88 8 1) 0x90 8 2) 0x98 8 3) 0xA0 8 4) 0xA8 8 5) 0xB0 8 6) 0xB8 8 0x200
def sPkt : State := ctlR res0 mPkt
theorem witness_spawn : sPkt.curThread.tid ≠ 0 ∧ sPkt.cur.copied = none ∧ okIs (sPkt.spawnTarget (sPkt.rd 0)) (0, 0) = true ∧ sPkt.cur.sbuf = [] ∧ sPkt.plainAt sPkt.curAgent (sPkt.rd 2).toNat 64 (leafAt 0x80) ∧
    fldN (sPkt.line 2) 0 2 = 0 ∧ fldN (sPkt.line 2) 448 3 = 0 ∧ (mapGet [] (sPkt.die 0).taskq 0).length < 32 ∧
    sPkt.curRes = some r0 ∧ sPkt.hasRes r0 = true :=
  ⟨by decide +kernel, by decide +kernel, by decide +kernel, by decide +kernel, plain_of (by decide +kernel), by decide +kernel⟩
theorem test_spawn : runs (.spawn 0 2) sPkt (fun t =>
    (mapGet [] (t.die 0).taskq 0).map (fun k => (k.entry, k.named, k.args.toList, k.done, k.owner)) =
      [(0x4000, 0, [1, 2, 3, 4, 5, 6], 0x200, some r0)] && (t.res r0).tasks = 1 && t.cur.pc = 0x1004) = true := by decide +kernel
/-- FIFO CC to CE holds one token. -/
def sPop : State := ctl { thr0 with fifo := vset (.replicate 12 0) 2 1 }
theorem witness_engines : (∀ u, sM.canPop 0 (unitNum u)) ∧ (∀ u, (unitQueue u sM.cur).waiting.length < 16) ∧
    sPop.canPop 1 (unitNum .ce) ∧ sPop.cur.popTaken = none ∧ vget sPop.cur.returned 2 = 0 :=
  ⟨fun _ => .inl rfl, fun u => by cases u <;> decide +kernel, .inr (.inr (by decide +kernel)), by decide +kernel⟩
/-- COPY pops from CC to CE; with that FIFO empty it waits. -/
theorem test_engine_pops : (runs (.copy 1 2 3 0 1) sPop (fun t => vget t.cur.fifo 2 = 0 && t.cur.ce.waiting.length = 1 && t.cur.pc = 0x1004) &&
    runs (.copy 1 2 3 0 1) sM (fun t => t.cur.status = .stalled && t.cur.pc = 0x1000)) = true := by decide +kernel
theorem test_engine_queues : (runs (.strmIn 1 3 0 0) sM (fun t => t.cur.se.waiting.map (fun c => (c.op, c.va, c.pat)) = [(.strmIn, 0x40, 3)]) &&
    runs (.copy 1 2 3 0 0) sM (fun t => t.cur.ce.waiting.map (fun c => (c.op, c.va, c.vb, c.vq)) = [(.copy, 0x40, 0x80, 0xC0)]) &&
    runs (.tfetch 1 2 1 0) sM (fun t => t.cur.tf.waiting.map (fun c => (c.op, c.push)) = [(.tfetch, 1)] && t.cur.se.waiting = [])) =
    true := by decide +kernel

/-! ### Special registers, traps, endings (09 R176-R182, R192-R197) -/

def sSp : State := { ctlR { res0 with gtol := vset (.replicate 8 0) 7 9, classLeave := 3, explicitLeave := 4, h := 1, w := 2, ringAt := 5, plane := 2, ringRun := true } with cyc := 77 }
/-- A task thread, which holds a token from CP to TF and two from CE to CP. -/
def sTaskR : State := ctlR res0 [] { thr0 with role := .task (some r0) 0x40, fifo := vset (vset (.replicate 12 0) 1 1) 9 2 }
theorem witness_specials : sSp.cur.role = .control r0 ∧ sSp.hasRes r0 = true ∧ sSp.canTrap ∧ (0x006 : BitVec 16).toNat < 0x010 ∧
    0x028 ≤ (0x02F : BitVec 16).toNat ∧ 0x033 ≤ (0xFFFF : BitVec 16).toNat :=
  ⟨by decide +kernel, by decide +kernel, by unfold State.canTrap; decide +kernel, by decide, by decide, by decide⟩
theorem test_mfs : (gives (.mfs 3 0x000) sSp 1 && gives (.mfs 3 0x001) sSp 0x11 && gives (.mfs 3 0x004) sSp 77 &&
    gives (.mfs 3 0x005) sSp 7 && gives (.mfs 3 0x010) sSp 0x2000 && gives (.mfs 3 0x027) sSp 9 && gives (.mfs 3 0x030) sSp 7 &&
    gives (.mfs 3 0x031) sSp (5 + 2 * 8 + 64) && gives (.mfs 3 0x032) sTaskR (wordN (2 ^ 5 + 2 * 2 ^ 45)) &&
    [0x001, 0x020, 0x027, 0x030, 0x031].all fun n => gives (.mfs 3 n) sTaskR 0) = true := by
  decide +kernel
/-- MTS keeps bits [1:0] of an address clear, and writes the low half of a tolerance. -/
theorem test_mts : (runs (.mts 1 0x010) (ab 0x4007 0) (fun t => t.cur.tvec = 0x4004 && t.cur.pc = 0x1004) &&
    runs (.mts 1 0x012) (ab 3 0) (fun t => t.cur.intrap) && runs (.mts 1 0x01F) (ab 5 0) (fun t => vget t.cur.trec 7 = 5) &&
    runs (.mts 1 0x020) sSp (fun t => vget (t.res r0).gtol 0 = 0x40)) = true := by decide +kernel
theorem witness_task_specials : sTaskR.canTrap ∧ (∃ r w, sTaskR.cur.role = .task r w) ∧
    ((List.range 12).all fun i => decide (vget sTaskR.cur.fifo i ≤ 16)) = true :=
  ⟨by unfold State.canTrap; decide +kernel, ⟨some r0, 0x40, rfl⟩, by decide +kernel⟩
theorem test_task_specials : trapsWith (.mts 3 0x020) sTaskR .access 0 0x1000 = true := by decide +kernel
theorem test_specials_trap : ([0x006, 0x00F, 0x013, 0x017, 0x028, 0x02F, 0x033, 0xFFFF].all (fun n =>
      trapsWith (.mfs 3 n) sM .illegal 0 0x1000) &&
    [0x000, 0x00F, 0x013, 0x017, 0x028, 0x030, 0xFFFF].all fun n => trapsWith (.mts 3 n) sM .illegal 0 0x1000) = true := by
  decide +kernel
theorem witness_traps : sM.canTrap ∧ sM.front.dbg.attached.contains sM.cur.asid = false ∧
    ((ctl { thr0 with tvec := 0 }).cur.tvec = 0 ∧ (ctl { thr0 with tvec := 0 }).curThread.die < 4 ∧
      (ctl { thr0 with tvec := 0 }).cur.sbuf = [] ∧ (ctl { thr0 with tvec := 0 }).cur.role = .none) ∧
    (ctl { thr0 with intrap := true }).cur.intrap = true :=
  ⟨by unfold State.canTrap; decide +kernel, by decide +kernel, by decide +kernel, by decide +kernel⟩
/-- TRAP returns after itself, BRK and a word of no instruction to themselves; registers stay. -/
theorem test_traps : (trapsWith (.trap 0x21) sM .user 0x21 0x1004 && trapsWith (.brk 7) sM .brk 7 0x1000 &&
    trapsWith (.illegal 0) sM .illegal 0 0x1000 && trapsWith (.fetchFault .page 0x1000) sM .page 0x1000 0x1000) = true := by
  decide +kernel
/-- The thread's code is behind pool port 1, which is lost; it ends as a task, tracked by its residency. -/
def sGone : State := { sM with front := { lostPorts := [1] } }
theorem witness_lost_fetch : sGone.canTrap ∧ okIs (sGone.translate 0 7 0x1000) (leafAt 0x1000) = true ∧ sGone.portGone 0x1000 = true :=
  ⟨by unfold State.canTrap; decide +kernel, by decide +kernel⟩
theorem test_lost_fetch : runs (.fetchFault .peerGone 0x1000) sGone (fun t => vget t.cur.trec 1 = 0x1000 && vget t.cur.trec 2 = wordN (2 ^ 63)) = true := by
  decide +kernel
def sTaskEnd : State := ctlR { res0 with tasks := 2 } [] { thr0 with role := .task (some r0) 0x40, tvec := 0 }
theorem witness_task_ends : sTaskEnd.cur.tvec = 0 ∧ sTaskEnd.curThread.die < 4 ∧ sTaskEnd.cur.sbuf = [] ∧ sTaskEnd.cur.role = .task (some r0) 0x40 ∧
    sTaskEnd.hasRes r0 = true ∧ (sTaskEnd.res r0).freed = false ∧ (ctlR res0 [] { thr0 with role := .control r0, tvec := 0 }).cur.role = .control r0 := by
  decide +kernel
theorem test_task_ends : runs (.trap 1) sTaskEnd (fun t => (t.res r0).tasks = 1 && (t.res r0).status = codeNum .user + 0x100 && !(t.res r0).freed &&
    t.mem = []) = true := by decide +kernel
theorem test_trap_ends_thread : (runs (.trap 1) (ctl { thr0 with tvec := 0 }) (fun t => t.cur.status = .free &&
      (t.die 0).frq.due.map (fun d => (vget d.1 0, vget d.1 1)) = [(wordN (codeNum .user), 1)]) &&
    runs (.trap 1) (ctl { thr0 with intrap := true }) (fun t => t.cur.status = .free)) = true := by decide +kernel
def thrT : Thread := { thr0 with intrap := true, tpc := 0x3000, role := .control r0 }
def sFz : State := ctlR { res0 with freeze := 2 } [] { thrT with handlingFreeze := true }
theorem witness_returns : (ctl thrT).cur.intrap = true ∧ (ctl thrT).cur.handlingFreeze = false ∧
    (sFz.cur.intrap = true ∧ sFz.cur.handlingFreeze = true ∧ sFz.cur.role = .control r0 ∧ sFz.hasRes r0 = true ∧
      fldN (vget sFz.cur.trec 0) 17 2 = 0) ∧ (sM.cur.intrap = false ∧ sM.cur.tvec ≠ 0) := by decide +kernel
def cmd0 : EngineCmd := { op := .strmIn, word := 0, va := 0, vb := 0, vq := 0, pat := 0, push := 0, seq := 0, asid := 7, res := some r0 }
/-- An input binding to port 0 of FE 0. -/
def bind0 : Binding := { kind := .input, dest := .port f0 0, pat := 0, owner := q0, cmd := cmd0, ctr := .replicate 4 0 }
/-- The answer to a delivery is ACT `a`; the residency is SNAP, with a binding of its last cut, a copy of a store, and an FE whose element
register 3 held 9 at the cut. -/
def sAct (a : Nat) : State :=
  { ctlR { res0 with freeze := 2, snap := true, cutBinds := [(4, bind0)] } [] { thrT with handlingFreeze := true, trec := rec8 [0x30 + a * 2 ^ 17] } with
    tent := [{ owner := .snap r0, line := 2, data := 5, mask := 1 }]
    fes := [(f0, { tiles := vset (.replicate 16 {}) 2 { tag := .full }, cutShadow := { e := vset (.replicate 32 0) 3 9, sel := 6 } })] }
theorem witness_acts : (∀ a ∈ [0, 1, 2, 3], (sAct a).cur.intrap = true ∧ (sAct a).cur.handlingFreeze = true ∧ (sAct a).cur.role = .control r0 ∧
      (sAct a).hasRes r0 = true ∧ fldN (vget (sAct a).cur.trec 0) 17 2 = a ∧ ((sAct a).res r0).snap = true ∧ ((sAct a).res r0).cut = none ∧
      ((sAct a).res r0).freed = false) ∧
    (mapFind (sAct 1).fes f0).any (fun y => y.beneath.isNone && y.active = 0) = true ∧ f0.page ∈ ((sAct 1).res r0).pages ∧
    ¬(fldN (vget (sAct 2).cur.trec 0) 17 2 = 1 ∧ ((sAct 2).res r0).snap = true) := by decide +kernel
theorem test_rte_acts : (runs .rte (sAct 1) (fun t => t.cur.pc = 0x3000 && (t.res r0).freeze = 0 && t.tent = [] && (t.res r0).binds.map (·.1) = [4] &&
      vget (t.plane f0 0).e 3 = 9 && (t.plane f0 0).sel = 6 && (vget (t.fe f0).tiles 2).tag = .empty && t.mem = []) &&
    [2, 3].all (fun a => runs .rte (sAct a) fun t => (t.res r0).freed && (t.res r0).status = 0x130)) = true := by decide +kernel
theorem test_rte : (runs .rte (ctl thrT) (fun t => t.cur.pc = 0x3000 && !t.cur.intrap) &&
    runs .rte sFz (fun t => t.cur.pc = 0x3000 && (t.res r0).freeze = 1) && trapsWith .rte sM .illegal 0 0x1000) = true := by
  decide +kernel
def sHeld : State := ctl { thr0 with held := [{ words := rec8 [5, 6], freezes := true }] }
theorem witness_delivery : (sHeld.thr q0).held = { words := rec8 [5, 6], freezes := true } :: [] ∧ sHeld.mayDeliver q0 = true ∧
    (sHeld.thr q0).tvec ≠ 0 := by decide +kernel
theorem test_delivery : runs (.asyncDelivery q0) sHeld (fun t => t.cur.pc = 0x2000 && t.cur.tpc = 0x1000 && t.cur.trec = rec8 [5, 6] &&
    t.cur.handlingFreeze && t.cur.held = []) = true := by decide +kernel
def sTsk : State := ctlR { res0 with tasks := 2 } [] { thr0 with role := .task (some r0) 0 }
theorem witness_halt_brk : (ctlR res0).cur.sbuf = [] ∧ (ctlR res0).cur.enginesSettled = true ∧ (ctlR res0).cur.held = [] ∧
    (ctlR res0).cur.role = .control r0 ∧ (ctlR res0).hasRes r0 = true ∧ sTsk.cur.sbuf = [] ∧ sTsk.cur.enginesSettled = true ∧
    sTsk.cur.held = [] ∧ sTsk.cur.role = .task (some r0) 0 ∧ sTsk.hasRes r0 = true := by decide +kernel
theorem test_task_halts : runs .halt sTsk (fun t => t.cur.status = .free && (t.res r0).tasks = 1) = true := by decide +kernel
def sDbg : State := { sM with front := { dbg := { attached := [7] } } }
theorem witness_brk_attached : sDbg.front.dbg.attached.contains sDbg.cur.asid = true ∧ sDbg.front.dbg.frozen = false ∧
    sDbg.front.dbg.freezeAt = none := by decide +kernel
theorem test_halt_brk : (runs .halt (ctlR res0) (fun t => t.cur.status = .free && t.cur.role = .none && (t.res r0).halted) &&
    runs (.brk 7) sDbg (fun t => t.front.dbg.freezeAt = some 0 && t.front.dbg.brk = some (q0, 0x1000, 7) && t.cur.pc = 0x1004)) =
    true := by decide +kernel
def sMk : State := ctlR { res0 with binds := [(0, bind0)], nextBind := 1 }
theorem witness_mark : sMk.cur.role = .control r0 ∧ sMk.hasRes r0 = true ∧ (sMk.res r0).cut = none ∧
    (∃ b ∈ (sMk.res r0).binds, b.2.marks = true) ∧ (ctlR res0).cur.role = .control r0 ∧ ((ctlR res0).res r0).cut = none ∧
    ∀ b ∈ ((ctlR res0).res r0).binds, b.2.marks = false := by decide +kernel
theorem test_mark : (runs (.mark 5) sMk (fun t => ((t.res r0).cut.map (fun c => c.num)) = some 5 &&
      (t.res r0).binds.map (·.2.markDue) = [some (5, false)]) &&
    runs (.mark 5) (ctlR res0) (fun t => (t.res r0).cutCommitted = some 5 && t.cur.pc = 0x1004)) = true := by decide +kernel

/-! ### Configuration, launches, power (05, 06, 07) -/

/-- An image at 0x400 for a pitch of one page: a control section of one HALT (05 Tables 5-1 to 5-3). -/
def mImg : Memory := put (words (words [] 0x400 [0x474D495A + 2 ^ 32 + 2 ^ 40 + 2 ^ 43, 1, 0, 132]) 0x440 [9 + 4 * 2 ^ 32, 128]) 0x480 4 0xD0000000
def sImg : State := ctlR res0 mImg
/-- The same of an urgent residency, whose plane is in use. -/
def sBusy : State := ctlR { res0 with urgent := true } mImg
theorem witness_load_image : sImg.issue 0 = some sImg ∧ sImg.cfgRes = some r0 ∧ sImg.hasRes r0 = true ∧ sImg.cur.sbuf = [] ∧
    (sImg.res r0).freed = false ∧ (sImg.res r0).thread.isSome = true ∧
    (∃ g, checkImage sImg.cfgReader (sImg.rd 16).toNat 1 1 (sImg.pitchHeld r0 (sImg.res r0)) = .ok g ∧
      (!(sImg.res r0).loadBusy (g.1.staged r0 (sImg.res r0))) = true) ∧
    (∃ g, checkImage sBusy.cfgReader (sBusy.rd 16).toNat 1 1 (sBusy.pitchHeld r0 (sBusy.res r0)) = .ok g ∧
      (sBusy.res r0).loadBusy (g.1.staged r0 (sBusy.res r0)) = true) ∧
    ∃ y, checkImage sImg.cfgReader (sImg.rd 15).toNat 1 1 (sImg.pitchHeld r0 (sImg.res r0)) = .error y ∧
      (match y with | .refused _ => true | .unread _ => false) = true :=
  ⟨rfl, by decide +kernel, by decide +kernel, by decide +kernel, by decide +kernel, by decide +kernel,
    ok_and (by decide +kernel), ok_and (by decide +kernel), err_and (by decide +kernel)⟩
theorem test_load_image : (runs (.cfgLoad 16 3 0 0) sImg (fun t => t.rd 3 = 0 && t.cur.pc = 0x1004 && ((t.res r0).staged.map fun g => g.ctlBase) = some 0x480) &&
    runs (.cfgLoad 15 3 0 0) sImg (fun t => t.rd 3 = wordN (codeNum .cfgImage) && t.cur.pc = 0x1004 && (t.res r0).staged = none)) = true := by
  decide +kernel
/-- Planes staged that use power class 2 and a bank of 64 bytes at `b`; the residency's live image has one at 0x10000. -/
def sArm (b e : Nat) : State := ctlR { res0 with
  staged := some { power := 2, banks := [(f0, { n := 1, base := b, len := 64 })] }, explicitLeave := e, classLeave := 1
  image := { banks := [(f0, { n := 1, base := 0x10000, len := 64 })] } }
theorem witness_arm_staged : (sArm 0x10000 2).issue 0 = some (sArm 0x10000 2) ∧ (sArm 0x10000 2).cfgRes = some r0 ∧
    (sArm 0x10000 2).bankBusy [(f0, { n := 1, base := 0x10000, len := 64 })] = true ∧ (sArm 0x20000 2).hasRes r0 = true ∧
    (sArm 0x20000 2).bankBusy [(f0, { n := 1, base := 0x20000, len := 64 })] = false ∧
    (2 + 1) * 1 * 1 - ((sArm 0x20000 2).res r0).classLeave ≤ ((sArm 0x20000 2).res r0).explicitLeave :=
  ⟨rfl, by decide +kernel, by decide +kernel, by decide +kernel, by decide +kernel, by decide +kernel⟩
theorem test_arm_staged : (runs (.cfgArm 3 0 0) (sArm 0x10000 2) (fun t => t.rd 3 = 11 && (t.res r0).staged.isSome) &&
    runs (.cfgArm 3 0 0) (sArm 0x20000 2) (fun t => t.rd 3 = 0 && (t.res r0).staged = none && (t.res r0).classLeave = 3 &&
      (t.res r0).explicitLeave = 0 && (t.res r0).power = 2)) = true := by decide +kernel
/-- A ring record at 0x40: entries (4, 23) and (1, 0), the first being entry 0. -/
def mRing : Memory := words [] 0x40 [1, 4 + 8 * 23, 1]
def sRing (st : Nat) : State := ctlR { res0 with plane := 0 } mRing { thr0 with role := .control r0, stage := st, g := vset regs0 5 4 }
def cfgOk (s : State) : Bool := decide (s.cfgRes = some r0 ∧ s.hasRes r0 = true)
theorem witness_switch : (∀ st, (sRing st).issue 0 = some (sRing st)) ∧ cfgOk (sRing 0) = true ∧
    (((sRing 0).res r0).switch = none ∧ ((sRing 0).res r0).urgent = false ∧ (sRing 0).cur.stage = 0 ∧ (sRing 1).cur.stage ≠ 0 ∧
      ((sRing 0).rd 5).toNat ≤ 4 ∧ (sRing 0).rd 1 ≠ 0 ∧ (sRing 0).cur.sbuf = [] ∧ (sRing 0).cur.copied = none) ∧
    (sRing 0).plainAt (sRing 0).curAgent ((sRing 0).rd 1).toNat 64 (leafAt 0x40) ∧
    seqRing ((sRing 0).line 1) 24 = some (0, [(4, 23), (1, 0)]) ∧ (sRing 0).rd 0 = 0 :=
  ⟨fun _ => rfl, rfl, by decide +kernel, plain_of (by decide +kernel), by decide +kernel⟩
theorem test_switch : (runs (.cfgSwap 5 0 0) (sRing 0) (fun t => ((t.res r0).switch.map (·.target)) = some 4 && t.cur.status = .stalled) &&
    runs (.cfgSwap 5 0 0) (sRing 1) (fun t => t.cur.pc = 0x1004 && (t.res r0).switch = none) &&
    runs (.cfgSeq 1 0 0) (sRing 0) (fun t => ((t.res r0).switch.map (·.target)) = some 4 && (t.res r0).ring = [(4, 23), (1, 0)]) &&
    runs (.cfgSeq 0 0 0) (sRing 0) (fun t => t.cur.pc = 0x1004 && !(t.res r0).ringRun)) = true := by decide +kernel
/-- The residency's FE has a bank of one line whose byte 3 is dirty, a latch stands on its track, and a token in an output register. -/
def sFree : State := { ctlR { res0 with plane := 0 } [(0x8001, 5)] with
  fes := [(f0, { fe0 (firing0 []) { plane0 [0] with outp := vset (.replicate 8 {}) 2 { reg := [{ data := 1 }] } } with
    firing := none, bank := some { n := 1, base := 0x8000, len := 64, lines := [(0, { va := 0x8000, pa := 0x8000, data := 7 * 2 ^ 24, dirty := 8 })] } })] }
theorem witness_free : sFree.issue 0 = some sFree ∧ cfgOk sFree = true ∧ (sFree.res r0).freed = false ∧
    (sFree.res r0).state = .armed ∧ (sFree.res r0).usesPlane 0 = true ∧
    ((sFree.fes.filter fun q => decide (q.1.die = 0) && (sFree.res r0).pages.contains q.1.page && q.2.bank.isSome).map (·.1)) = [f0] ∧
    sFree.tag 0x200 = 0 := ⟨rfl, rfl, by decide +kernel⟩
theorem test_free_discards : runs (.cfgFree 0 0) sFree (fun t => (t.res r0).freed && t.mem = [(0x8001, 5), (0x8003, 7)] &&
    (vget (t.plane f0 0).outp 2).reg = [] && ((t.fe f0).bank.map (·.lines)) = some []) = true := by decide +kernel
theorem test_free : runs (.cfgFree 0 0) (ctlR { res0 with status := 4 }) (fun t => (t.res r0).freed && (t.res r0).status = 4 && t.cur.pc = 0x1004) = true := by
  decide +kernel

/-- A launch record at 0x200: the image at `img`, `shape` pages, priority 2, the CP of the thread's own die, DONE at 0x300; SPLICE if
`sp`. -/
def mRec (img sp : Nat) (shape : Nat := 1 + 8) : Memory :=
  words mImg 0x200 [img, shape + 0x100 + 0x380000 + 0x2000 * sp, 0, 0, 0, 0x300]
def sRec (img sp : Nat) : State := ctlR res0 (mRec img sp)
def landsB (s : State) (die : Nat) (asid : BitVec 16) (done : Word) (l : Leaf) : Bool :=
  decide (done ≠ 0 ∧ windowOf done.toNat = some .glob ∧ l.p = false ∧ s.portGone l.pa = false ∧ s.poisoned (l.pa / 64) = false ∧
    (l.t = true → s.tag (l.pa / 64) = 0)) && okIs (s.translateFor die asid done.toNat .w) l
theorem lands_of {s : State} {die : Nat} {asid : BitVec 16} {done : Word} {l : Leaf} (h : landsB s die asid done l = true) :
    s.pairLands die asid done l := by
  simp only [landsB, Bool.and_eq_true, decide_eq_true_eq] at h
  obtain ⟨⟨h1, h2, h3, h4, h5, h6⟩, h7⟩ := h
  exact ⟨h1, h2, ok_of h7, h3, h4, h5, h6⟩
/-- The launches of a die that is out, of a shape of 6 by 8 pages of which page 0 is excluded, and with a full queue. -/
def sOut : State := ctlR res0 (mRec 0x400 0) { thr0 with role := .control r0 } { live := false }
def sBig : State := { sRec 0x400 0 with
  mem := mRec 0x400 0 (6 + 8 * 8)
  dies := dies0 { res := [(0, res0)], pages := vset pages0 1 { state := .excluded } } }
def sFullQ : State := ctlR res0 (mRec 0x400 0) { thr0 with role := .control r0 } { queues := vset (.replicate 16 []) 8 (List.replicate 64 { record := 0, asid := 7 }) }
def launchBase (s : State) : Prop := s.issue 0 = some s ∧ s.curThread.tid ≠ 0 ∧ s.cur.sbuf = [] ∧ s.cur.copied = none ∧
  s.plainAt s.curAgent (s.rd 8).toNat 64 (leafAt 0x200) ∧ deviceRecBad (s.line 8) false = false
def afterRec (s : State) : State := s.havingRead (s.rd 8) 64 (lineBytes (s.line 8))
theorem witness_launch : launchBase (sRec 0x400 0) ∧ ((sRec 0x400 0).die 0).live = true ∧
    ((sRec 0x400 0).die 0).everFits 1 1 = true ∧ (vget ((sRec 0x400 0).die 0).queues 8).length < 64 ∧
    launchBase sFullQ ∧ (sFullQ.die 0).live = true ∧ (sFullQ.die 0).everFits 1 1 = true ∧ 64 ≤ (vget (sFullQ.die 0).queues 8).length :=
  ⟨⟨rfl, by decide +kernel, by decide +kernel, by decide +kernel, plain_of (by decide +kernel), by decide +kernel⟩,
    by decide +kernel, by decide +kernel, by decide +kernel,
    ⟨rfl, by decide +kernel, by decide +kernel, by decide +kernel, plain_of (by decide +kernel), by decide +kernel⟩,
    by decide +kernel, by decide +kernel, by decide +kernel⟩
theorem witness_launch_ends : launchBase sOut ∧ (sOut.die 0).live = false ∧ (afterRec sOut).pairLands 0 7 0x300 (leafAt 0x300) ∧
    launchBase sBig ∧ (sBig.die 0).live = true ∧ (sBig.die 0).everFits 6 8 = false ∧ (afterRec sBig).pairLands 0 7 0x300 (leafAt 0x300) :=
  ⟨⟨rfl, by decide +kernel, by decide +kernel, by decide +kernel, plain_of (by decide +kernel), by decide +kernel⟩,
    by decide +kernel, lands_of (by decide +kernel),
    ⟨rfl, by decide +kernel, by decide +kernel, by decide +kernel, plain_of (by decide +kernel), by decide +kernel⟩,
    by decide +kernel, by decide +kernel, lands_of (by decide +kernel)⟩
/-- Status 13 for the die that is out, 2 for the shape that cannot fit; the full queue waits. -/
theorem test_launch_ends : (runs (.launch 8 0 0) sOut (fun t => t.cur.pc = 0x1004 && t.mem.readBytes 0x300 16 = leBytes 8 1 ++ leBytes 8 13) &&
    runs (.launch 8 0 0) sBig (fun t => t.mem.readBytes 0x300 16 = leBytes 8 1 ++ leBytes 8 2) &&
    runs (.launch 8 0 0) sFullQ (fun t => t.cur.status = .stalled && t.cur.pc = 0x1000)) = true := by decide +kernel
theorem test_launch : runs (.launch 8 0 0) (sRec 0x400 0) (fun t => t.cur.pc = 0x1004 &&
    (vget (t.die 0).queues 8).map (fun q => (fldN q.record 0 64, recAsid q.record)) = [(0x400, 7)]) = true := by decide +kernel
theorem witness_splice : (∀ a, (sRec a 1).issue 0 = some (sRec a 1)) ∧
    ((sRec 0x400 1).curThread.tid ≠ 0 ∧ (sRec 0x400 1).cur.sbuf = [] ∧ (sRec 0x400 1).cur.copied = none) ∧
    (sRec 0x400 1).plainAt (sRec 0x400 1).curAgent ((sRec 0x400 1).rd 8).toNat 64 (leafAt 0x200) ∧
    ((sRec 0x400 1).curRes = some r0 ∧ (sRec 0x400 1).hasRes r0 = true ∧
      deviceRecBad ((sRec 0x400 1).line 8) true = false ∧ ((sRec 0x400 1).die 0).freeIdx = some 1 ∧
      ((sRec 0x400 1).res r0).successor = none ∧ ((sRec 0x400 1).res r0).predecessor = none) ∧
    (∃ g, (afterRec (sRec 0x400 1)).spliceLoad r0 (putFld ((sRec 0x400 1).line 8) 88 16 7) 7 = .ok g ∧ true = true) ∧
    (∃ c, (afterRec (sRec 0x800 1)).spliceLoad r0 (putFld ((sRec 0x800 1).line 8) 88 16 7) 7 = .error c ∧ decide (c = 1) = true) ∧
    (afterRec (sRec 0x800 1)).pairLands 0 7 0x300 (leafAt 0x300) :=
  ⟨fun _ => rfl, by decide +kernel, plain_of (by decide +kernel), by decide +kernel,
    ok_and (P := fun _ => true) (by decide +kernel), err_and (by decide +kernel), lands_of (by decide +kernel)⟩
theorem test_splice : (runs (.splice 8 0 0) (sRec 0x400 1) (fun t => (t.res r0).successor = some 1 && (t.res ⟨0, 1⟩).predecessor = some 0 &&
      t.cur.pc = 0x1004) &&
    runs (.splice 8 0 0) (sRec 0x800 1) (fun t => (t.res r0).successor = none && t.cur.pc = 0x1004 &&
      t.mem.readBytes 0x300 16 = leBytes 8 1 ++ leBytes 8 1)) = true := by decide +kernel
/-- A guard record at 0x600: surrogate and exact images 0x400, one tile of 64 bytes at 0x10000, width 1. -/
def mGrd : Memory := words [] 0x600 [0x400, 0, 0x400, 0x10000, 64 * 2 ^ 32, 0, 0, 0x800000]
def sGrd : State := ctlR { res0 with gtol := vset (.replicate 8 0) 3 11 } mGrd
theorem witness_guard : sGrd.issue 0 = some sGrd ∧ sGrd.curThread.tid ≠ 0 ∧ sGrd.fromGuard = false ∧ sGrd.cur.sbuf = [] ∧ sGrd.cur.copied = none ∧
    sGrd.plainAt sGrd.curAgent (sGrd.rd 24).toNat 64 (leafAt 0x600) ∧ sGrd.rd 1 ≠ 0 ∧ (sGrd.rd 1).toNat % 16 = 0 ∧
    guardBad (sGrd.line 24) = false ∧ (sGrd.die 0).guardWait = [] ∧ vget (sGrd.die 0).guards 0 = none :=
  ⟨rfl, by decide +kernel, by decide +kernel, by decide +kernel, by decide +kernel, plain_of (by decide +kernel), by decide +kernel⟩
theorem test_gsl : runs (.gsl 24 1 3 0 0) sGrd (fun t => ((vget (t.die 0).guards 0).map fun g => (g.tol, g.pair, g.asid)) = some (11, 0x40, 7) &&
    t.cur.pc = 0x1004) = true := by decide +kernel
/-- The pool has `n` units, the residency 5 of its own; g1 asks for 64, g2 for 64 and waits. -/
def sPwr (n : Nat) : State :=
  { ctlR { res0 with explicitLeave := 5 } [] { thr0 with role := .control r0, g := vset regs0 2 0x1040 } with front := { poolFree := n } }
theorem witness_power : (∀ n, (sPwr n).issue 0 = some (sPwr n)) ∧ (sPwr 64).curThread.tid ≠ 0 ∧ (sPwr 64).curRes = some r0 ∧ (sPwr 64).hasRes r0 = true ∧
    fldN ((sPwr 64).rd 1) 0 12 ≠ 0 ∧ ((sPwr 64).rd 1).toNat < 2 ^ 12 ∧ (sPwr 64).front.leaveReqs = [] ∧ (sPwr 64).front.level < 2 ∧
    fldN ((sPwr 64).rd 1) 0 12 ≤ (sPwr 64).front.poolFree ∧ (sPwr 63).front.poolFree < fldN ((sPwr 63).rd 1) 0 12 ∧
    fldN ((sPwr 63).rd 2) 0 12 ≠ 0 ∧ 2 ^ 12 ≤ ((sPwr 63).rd 2).toNat ∧ ((sPwr 63).rd 2).toNat < 2 ^ 13 ∧ (sPwr 63).front.leaveReqs = [] ∧
    (sPwr 63).front.poolFree < fldN ((sPwr 63).rd 2) 0 12 :=
  ⟨fun _ => rfl, by decide +kernel⟩
theorem test_power : (runs (.pwrAsk 1 3 0 0) (sPwr 64) (fun t => t.rd 3 = 64 && t.front.poolFree = 0 && (t.res r0).explicitLeave = 69) &&
    runs (.pwrAsk 1 3 0 0) (sPwr 63) (fun t => t.rd 3 = 0 && t.front.poolFree = 63) &&
    runs (.pwrAsk 2 3 0 0) (sPwr 63) (fun t => t.cur.status = .stalled && t.front.leaveReqs.map (·.units) = [64]) &&
    runs (.pwrGive 1 0 0) (sPwr 63) (fun t => t.front.poolFree = 68 && (t.res r0).explicitLeave = 0)) = true := by decide +kernel

/-! ### Rotations and spores, as instructions (11, 15, 16) -/

/-- Rotation 1, of two slots of one state token; slot 0 is `z`. -/
def rotOf (z : Slot) (v : Option Saving := none) : Rotation :=
  { num := 1, plane := 0, seam := f0, block := 0, depth := 2, width := 1, k := false, chunk := 1, slots := [z, {}], saving := v }
/-- A slot record at 0x200 (LIVE, stream 9, phase 0) and an image at 0x600 of two slots, the first LIVE with stream 8. -/
def mRot : Memory := words (words (words [] 0x200 [1 + 9 * 2 ^ 32]) 0x600 [0x5A524F54 + 2 ^ 32 + 2 * 2 ^ 40, 2 ^ 32]) 0x640 [1 + 8 * 2 ^ 32]
def sRot (z : Slot) (v : Option Saving := none) : State := ctlR { res0 with rots := [rotOf z v] } mRot
def live0 : Slot := { status := .live, stream := 4, park := [7] }
def flt0 : Slot := { live0 with status := .faulted, fcode := 0x31, chunkLen := 1 }
def rotBase (s : State) (z : Slot) (v : Option Saving) : Prop :=
  s.issue 0 = some s ∧ s.cur.role = .control r0 ∧ s.hasRes r0 = true ∧ s.rot r0 1 = some (rotOf z v) ∧ s.cur.sbuf = [] ∧
    s.cur.copied = none ∧ (rotOf z v).slots.length = (rotOf z v).depth ∧ 0 < (rotOf z v).depth ∧ (rotOf z v).depth ≤ 256
theorem witness_rot_join : rotBase (sRot {}) {} none ∧ fldN ((sRot {}).rd 8) 0 6 = 0 ∧
    (∃ bs, ((sRot {}).recordRead (sRot {}).curAgent 0x200 128).1 = .ok (some bs) ∧
      (!slotRecBad (lineOf (bs.take 64)) && fldN (lineOf (bs.take 64)) 134 2 = 0 && !bitOf (lineOf (bs.take 64)) 136 &&
        fldN (lineOf (bs.take 64)) 0 3 = 1) = true) ∧ ((rotOf {}).slot 0).status = .empty :=
  ⟨⟨rfl, by decide +kernel⟩, by decide +kernel, ok_some (by decide +kernel), by decide +kernel⟩
theorem witness_rot_leave : rotBase (sRot live0) live0 none ∧ (((sRot live0).rd 0).toNat = 0 ∧ fldN ((sRot live0).rd 8) 0 6 = 0 ∧
      ((rotOf live0).slot 0).status = .live ∧ ((rotOf live0).slot 0).atRest 1 = true ∧ (sRot live0).slotBind r0 1 0 = none ∧
      ((sRot live0).slotRecord r0 (rotOf live0) 0).length = 128) ∧
    ∃ ps, (sRot live0).resolve (sRot live0).curAgent 0x200 128 .w = .ok ps ∧
      decide (((sRot live0).storePieces (sRot live0).curAgent ps ((sRot live0).slotRecord r0 (rotOf live0) 0)).1 = .done) = true :=
  ⟨⟨rfl, by decide +kernel⟩, by decide +kernel, ok_and (by decide +kernel)⟩
theorem witness_rot_stat_clr : (sRot live0).rd 4 = 256 ∧ rotBase (sRot flt0) flt0 none ∧ ((sRot flt0).rd 0).toNat = 0 ∧
    ((rotOf flt0).slot 0).status = .faulted ∧ (rotOf flt0).slots.length = (rotOf flt0).depth ∧ 0 < (rotOf flt0).depth ∧
    (rotOf flt0).depth ≤ 256 := ⟨by decide +kernel, ⟨rfl, by decide +kernel⟩, by decide +kernel⟩
def save0 : Saving := { who := q0, image := 0x200, p0 := some 0, done := 2, live := 1 }
theorem witness_rot_save : rotBase (sRot live0) live0 none ∧ (rotOf live0).saving = none ∧
    (∃ ps, (sRot live0).resolve (sRot live0).curAgent 0x200 (64 + 2 * 128) .w = .ok ps ∧ true = true) ∧
    rotBase (sRot live0 (some save0)) live0 (some save0) ∧ ((rotOf live0).depth ≤ save0.done ∧
      ((sRot live0 (some save0)).res r0).thread.isSome = true) ∧
    (∃ ps, (sRot live0 (some save0)).resolve (sRot live0 (some save0)).curAgent 0x200 (64 + 2 * 128) .w = .ok ps ∧ true = true) ∧
    ∃ ps, (sRot live0 (some save0)).resolve (sRot live0 (some save0)).curAgent 0x200 64 .w = .ok ps ∧
      decide (((sRot live0 (some save0)).storePieces
        (sRot live0 (some save0)).curAgent ps (lineBytes (rotHeader (rotOf live0 (some save0)) 0 1))).1 = .done) = true :=
  ⟨⟨rfl, by decide +kernel⟩, rfl, ok_and (P := fun _ => true) (by decide +kernel), ⟨rfl, by decide +kernel⟩, by decide +kernel,
    ok_and (P := fun _ => true) (by decide +kernel), ok_and (by decide +kernel)⟩
theorem test_rotation : (runs (.rotJoin 8 3 1 0 0) (sRot {}) (fun t => t.rd 3 = 0 &&
      ((t.rot r0 1).map fun q => ((q.slot 0).status, (q.slot 0).stream)) = some (.live, 9)) &&
    runs (.rotLeave 0 8 1 0 0) (sRot live0) (fun t => t.cur.pc = 0x1004 && ((t.rot r0 1).map fun q => (q.slot 0).status) = some .empty &&
      leNat (t.mem.readBytes 0x204 4) = 4 && leNat (t.mem.readBytes 0x240 8) = 7) &&
    runs (.rotClr 0 1 0 0) (sRot flt0) (fun t => ((t.rot r0 1).map fun q => ((q.slot 0).status, (q.slot 0).fcode)) = some (.live, 0)) &&
    runs (.rotSave 8 1 0 0) (sRot live0) (fun t => t.cur.status = .stalled && ((t.rot r0 1).map fun q => q.saving.isSome) = some true) &&
    runs (.rotSave 8 1 0 0) (sRot live0 (some save0)) (fun t => t.cur.pc = 0x1004 && leNat (t.mem.readBytes 0x200 4) = 0x5A524F54)) =
    true := by decide +kernel
/-- STAT: status, stream and fault code of slot 0 (11 Table 11-5); for the rotation D, the active plane and the slots used. -/
theorem test_rot_stat : (runs (.rotStat 0 3 1 0 0) (sRot live0) (fun t => t.rd 3 = 1 + 4 * 2 ^ 32) &&
    runs (.rotStat 0 3 1 0 0) (sRot flt0) (fun t => t.rd 3 = 3 + 0x31 * 2 ^ 16 + 4 * 2 ^ 32) &&
    runs (.rotStat 4 3 1 0 0) (sRot live0) (fun t => t.rd 3 = 2 + 2 ^ 25 + 2 ^ 26)) = true := by decide +kernel
def sRotM : State := (sRot {}).havingRead 0x600 64 (lineBytes ((sRot {}).line 24))
def sRotK : State := (sRotM.recordRead sRotM.curAgent 0x640 256).2
theorem witness_rot_load : rotBase (sRot {}) {} none ∧
    (sRot {}).plainAt (sRot {}).curAgent ((sRot {}).rd 24).toNat 64 (leafAt 0x600) ∧ (rotHeaderOk (rotOf {}) ((sRot {}).line 24) = true ∧
    (sRot {}).rd 0 = 0) ∧ (∃ bs, (sRotM.recordRead sRotM.curAgent 0x640 256).1 = .ok (some bs) ∧
      (decide (newPhases ((List.range 2).map fun k => lineOf (((bs.drop (k * 128)).take 128).take 64)) 2 none = some [some 0, none]) &&
        !(((List.range 2).map fun k => lineOf (((bs.drop (k * 128)).take 128).take 64)).any slotRecBad)) = true) ∧
    (∃ ps, sRotK.resolve sRotK.curAgent 0x740 2 .w = .ok ps ∧
      decide ((sRotK.storePieces sRotK.curAgent ps [0, 255]).1 = .done) = true) ∧ ∀ z ∈ (rotOf {}).slots, z.status = .empty :=
  ⟨⟨rfl, by decide +kernel⟩, plain_of (by decide +kernel), by decide +kernel, ok_some (by decide +kernel),
    ok_and (by decide +kernel), by decide +kernel⟩
theorem test_rot_load : runs (.rotLoad 24 0 1 0 0) (sRot {}) (fun t => t.cur.pc = 0x1004 &&
    ((t.rot r0 1).map fun q => q.slots.map fun z => (z.status, z.stream)) = some [(.live, 8), (.empty, 0)] &&
    (t.mem.readBytes 0x740 2) = [0, 255]) = true := by decide +kernel

/-- Cells at 0x40 and 0x80, mapped with T; the source at 0x80 and, for SET, at 0xC0. -/
def sCell (m : Memory) (tags : FMap Nat (BitVec 2) := []) : State :=
  { ctl thr0 m with tlb := [{ die := 0, tile := 0, asid := 7, vpn := 0, block := true, leaf := { leaf0 with t := true }, made := [] }]
                    tags := tags }
/-- A spore record at 0xC0 (15 Table 15-2) with entry 0x400, and 64 bytes of data at 0x80. -/
def mCell : Memory := words (words [] 0x80 [1, 2, 3, 4, 5, 6, 7, 8]) 0xC0 [0x400]
def tLeaf (a : Nat) : Leaf := { leafAt a with t := true }
def cellB (s : State) (c : Leaf) : Bool := okIs (s.translate s.curThread.die s.cur.asid (s.rd 1).toNat) c &&
  decide ((s.rd 1).toNat % 64 = 0 ∧ (s.rd 1).toNat < 0x80000000000000 ∧ c.t = true ∧ c.p = false ∧ s.portGone c.pa = false ∧
    s.foreign (c.pa / 64) = false ∧ s.cur.sbuf = [] ∧ s.cur.copied = none)
/-- The state after SET has read its source at 0xC0. -/
def afterSrc (s : State) : State := s.havingRead (s.rd 3) 64 (lineBytes (s.line 3))
/-- The same of FILL, whose source is at 0x80. -/
def afterDat (s : State) : State := s.havingRead (s.rd 2) 64 (lineBytes (s.line 2))
def calmSrc (m : State) : Prop := m.calmLine m.curAgent 1 ∧ m.sent = [] ∧ m.unobserved
theorem witness_spores : (sCell mCell).issue 0 = some (sCell mCell) ∧ cellB (sCell mCell) (tLeaf 0x40) = true ∧
    (sCell mCell).plainAt (sCell mCell).curAgent ((sCell mCell).rd 3).toNat 64 (tLeaf 0xC0) ∧
    (sCell mCell).plainAt (sCell mCell).curAgent ((sCell mCell).rd 2).toNat 64 (tLeaf 0x80) ∧
    ((sCell mCell).tag 1 = 0 ∧ sporeBad ((sCell mCell).line 3) = false) ∧ calmSrc (afterSrc (sCell mCell)) ∧
    (afterDat (sCell mCell)).plainAt (afterDat (sCell mCell)).curAgent 0x40 64 (tLeaf 0x40) ∧
    (sCell mCell).calmLine (sCell mCell).curAgent 1 ∧ (sCell mCell).unobserved :=
  ⟨rfl, by decide +kernel, plain_of (by decide +kernel), plain_of (by decide +kernel), by decide +kernel,
    ⟨calm_of (by decide +kernel), by decide +kernel, unobserved_of (by decide +kernel)⟩, plain_of (by decide +kernel),
    calm_of (by decide +kernel), unobserved_of (by decide +kernel)⟩
/-- A cell that holds tag `k`, of the thread's ASID. -/
def sTag (k : BitVec 2) : State := sCell (words mCell 0x40 [0x40000000 + 7 * 2 ^ 48, 0, 7 * 2 ^ 16]) [(1, k)]
theorem witness_spore_cells : ∀ k : BitVec 2, k = 1 ∨ k = 3 → cellB (sTag k) (tLeaf 0x40) = true ∧ (sTag k).tag 1 = k ∧
    (sTag k).plainAt (sTag k).curAgent ((sTag k).rd 2).toNat 64 (tLeaf 0x80) ∧ calmSrc (afterDat (sTag k)) := by
  intro k hk
  rcases hk with rfl | rfl <;>
    exact ⟨by decide +kernel, by decide +kernel, plain_of (by decide +kernel),
      ⟨calm_of (by decide +kernel), by decide +kernel, unobserved_of (by decide +kernel)⟩⟩
/-- A GROWING cell of the thread's ASID. -/
def sGrow : State := sTag 2
theorem witness_spore_busy : sGrow.issue 0 = some sGrow ∧ sGrow.tag 1 = 2 ∧ cellB sGrow (tLeaf 0x40) = true ∧ sGrow.canTrap ∧
    sporeBad (sGrow.line 3) = false ∧ sGrow.plainAt sGrow.curAgent (sGrow.rd 3).toNat 64 (tLeaf 0xC0) :=
  ⟨rfl, by decide +kernel, by decide +kernel, by unfold State.canTrap; decide +kernel, by decide +kernel, plain_of (by decide +kernel)⟩
theorem test_spore_busy : trapsWith (.sporeSet 1 3 0 0) sGrow .sporeBusy 0x40 0x1000 = true := by decide +kernel
theorem test_spores : (runs (.sporeSet 1 3 0 0) (sCell mCell) (fun t => t.tag 1 = 1 && leNat (t.mem.readBytes 0x40 8) = 0x400 &&
      leNat (t.mem.readBytes 0x52 2) = 7) &&
    runs (.sporeFill 1 2 0 0) (sCell mCell) (fun t => t.tag 1 = 0 && leNat (t.mem.readBytes 0x78 8) = 8) &&
    runs (.sporeFail 1 2 0 0) (sCell mCell) (fun t => t.tag 1 = 3 && leNat (t.mem.readBytes 0x46 2) = 7 && leNat (t.mem.readBytes 0x48 8) = 2) &&
    runs (.sporePeek 2 5 0 0) (sCell mCell) (fun t => fldN (t.rd 5) 0 2 = 0 && t.mem = mCell)) = true := by decide +kernel
/-- A length record at 0x80: NPOS 0x50, 0x20 positions a page, NENT 2 of 3 pages; the new length 0x40 keeps two pages. -/
def sKvt : State := ctl thr0 (words [] 0x80 [0x50 + 0x20 * 2 ^ 32, 2 + 3 * 2 ^ 32])
theorem witness_kvt : sKvt.issue 0 = some sKvt ∧ sKvt.cur.sbuf = [] ∧ sKvt.cur.copied = none ∧ sKvt.cur.stage = 0 ∧ sKvt.plainAt sKvt.curAgent (sKvt.rd 2).toNat 64 (leafAt 0x80) ∧
    (leafAt 0x80).r = true ∧ (leafAt 0x80).w = true ∧ fldN (sKvt.line 2) 48 16 = 0 ∧ fldN (sKvt.line 2) 128 384 = 0 ∧
    fldN (sKvt.line 2) 32 16 ≠ 0 ∧ fldN (sKvt.line 2) 64 32 ≤ fldN (sKvt.line 2) 96 32 ∧ (sKvt.rd 1).toNat ≤ fldN (sKvt.line 2) 0 32 ∧
    fldN (sKvt.line 2) 64 32 ≤ ((sKvt.rd 1).toNat + 0x20 - 1) / 0x20 :=
  ⟨rfl, by decide +kernel, by decide +kernel, by decide +kernel, plain_of (by decide +kernel), by decide, by decide, by decide +kernel⟩
theorem test_kvt : runs (.kvt 2 1 0 0) sKvt (fun t => leNat (t.mem.readBytes 0x80 4) = 0x40 && leNat (t.mem.readBytes 0x88 4) = 2 &&
    t.cur.pc = 0x1004) = true := by decide +kernel

/-! ### Element instructions (10, 02) -/

def sInt : State := abc (tok 0 [0x7F, 0x80, 5]) (tok 0 [1, 0xFF, 3]) (tok 0 [1, 0, 9])
theorem firingAt_of {s : State} {g : Firing} (h : (s.fe s.curFe).firing = some g ∧ (s.fe s.curFe).firingBelow = none ∧
    g.plane < 6 ∧ g.late = []) : s.firingAt g :=
  ⟨h.1, (fun b hb => by rw [h.2.1] at hb; cases hb), h.2.2⟩
theorem runs_unpredicated (g : Firing) : g.runs 0 := fun h => absurd h (by decide)
theorem runs_predicated : (firing0 [(.q, .value (ofLanes [1]))]).runs 1 := fun _ => ⟨ofLanes [1], by decide +kernel, by decide +kernel⟩
def gInt : Firing := firing0 [(.a, .value (tok 0 [0x7F, 0x80, 5])), (.b, .value (tok 0 [1, 0xFF, 3])), (.c, .value (tok 0 [1, 0, 9]))]
theorem witness_integers : sInt.firingAt gInt ∧ gInt.runs 0 ∧ (0 : BitVec 4).toNat < 8 ∧ (7 : BitVec 4).toNat < 8 ∧
    gInt.operand .a = .value (tok 0 [0x7F, 0x80, 5]) ∧ gInt.operand .b = .value (tok 0 [1, 0xFF, 3]) ∧
    gInt.operand .c = .value (tok 0 [1, 0, 9]) :=
  ⟨firingAt_of (by decide +kernel), runs_unpredicated _, by decide, by decide, by decide +kernel⟩
theorem witness_well_formed : [Instr.mulhE 4 0 0 0x183, .addE 4 0 1 0 0x183, .mad 4 0 0 0 0x183, .sel 10 0 0 0x183, .fma 10 0 2 0 0x183,
    .fclass 10 0 0 0x183, .red 10 0 2 0 0x183, .cvt 0 10 4 1 0x183, .qbfp 0 8 10 0 0x183, .bitx 0 1 0 0x183, .rotl 1 0 0x183].all (·.wf) = true :=
  by decide
/-- `.s8`: 127 + 1 wraps, 128 - 255, products, high products of signed bytes. -/
theorem test_element_sums : (e3 (.addE 0 0 0 0 0x183) sInt 0 [0x80, 0x7F, 8] && e3 (.subE 0 0 0 0 0x183) sInt 0 [0x7E, 0x81, 2] &&
    e3 (.mulE 0 0 0 0 0x183) sInt 0 [0x7F, 0x80, 15] && e3 (.mulhE 0 0 0 0x183) sInt 0 [0, 0, 0] &&
    e3 (.mulhE 1 0 0 0x183) sInt 1 [0, 0x7F, 0] && e3 (.mad 0 0 0 0 0x183) sInt 0 [0x80, 0x80, 24]) = true := by decide +kernel
theorem test_element_bits : (e3 (.andE 0 0 0 0x183) sInt 0 [1, 0x80, 1] && e3 (.orE 0 0 0 0x183) sInt 0 [0x7F, 0xFF, 7] &&
    e3 (.xorE 0 0 0 0x183) sInt 0 [0x7E, 0x7F, 6] && e3 (.andnE 0 0 0 0x183) sInt 0 [0x7E, 0, 4] &&
    e3 (.shlE 0 0 0 0 0x183) sInt 0 [0xFE, 0, 0x28] && e3 (.shrE 0 0 0 0x183) sInt 0 [0x3F, 1, 0] &&
    e3 (.shraE 0 0 0 0x183) sInt 0 [0x3F, 0xFF, 0] && e3 (.clzE 0 0 0 0x183) sInt 0 [1, 0, 5] &&
    e3 (.popcE 0 0 0 0x183) sInt 0 [7, 1, 2] && e3 (.abs 0 0 0 0 0x183) sInt 0 [0x7F, 0x80, 5]) = true := by decide +kernel
theorem test_element_compare : (e3 (.minE 0 0 0 0x183) sInt 0 [1, 0x80, 3] && e3 (.maxE 1 0 0 0x183) sInt 1 [0x7F, 0xFF, 5] &&
    e3 (.cmpeq 0 0 0 0x183) sInt 0 [0, 0, 0] && e3 (.cmpne 0 0 0 0x183) sInt 0 [0xFF, 0xFF, 0xFF] &&
    e3 (.cmplt 0 0 0 0x183) sInt 0 [0, 0xFF, 0] && e3 (.cmple 1 0 0 0x183) sInt 1 [0, 0xFF, 0] &&
    e3 (.sel 0 0 0 0x183) sInt 0 [0x7F, 0xFF, 5]) = true := by decide +kernel
/-- `.s8` saturation at both ends; a trapping variant passes values in range, here 5 + 3. -/
theorem test_element_variants : (e3 (.addE 0 0 1 0 0x183) sInt 0 [0x7F, 0x80, 8] && e3 (.subE 0 0 1 0 0x183) sInt 0 [0x7E, 0x81, 2] &&
    e3 (.abs 0 0 1 0 0x183) sInt 0 [0x7F, 0x7F, 5] && e3 (.shlE 0 0 1 0 0x183) sInt 0 [0x7F, 0x80, 0x28] &&
    e3 (.addE 0 0 2 0 0x183) (abc (tok 0 [5]) (tok 0 [3]) 0) 0 [8]) = true := by decide +kernel
/-- FE 0 works for an armed residency whose control thread is thread 1. -/
def owned (s : State) (x : Residency := res0) : State :=
  { s with dies := dies0 { res := [(0, x)], pages := pages0 }, threads := [(q0, { thr0 with role := .control r0 })] }
theorem witness_overflow : (owned sInt).faultsReach gInt r0 q0 ∧ (owned sInt).firingAt gInt ∧
    ¬(patInt 0 (elem 0 (tok 0 [0x7F, 0x80, 5]) 0) + patInt 0 (elem 0 (tok 0 [1, 0xFF, 3]) 0) ≤ 127) ∧
    ¬(patInt 0 (elem 0 (tok 0 [0x7F, 0x80, 5]) 0) + patInt 0 (elem 0 (tok 0 [0x7F, 0x80, 5]) 2) ≤ 127) :=
  ⟨by unfold State.faultsReach; decide +kernel, firingAt_of (by decide +kernel), by decide +kernel, by decide +kernel⟩
theorem test_overflow : runs (.addE 0 0 2 0 0x183) (owned sInt) (fun t => (t.res r0).freeze = 1 &&
    (t.thr q0).held.map (fun d => (vget d.words 0, d.freezes)) = [(0x10030, true)]) = true := by decide +kernel
/-- A sum of all elements, prefix sums and a conversion out of range fault too. -/
theorem test_overflow_lanes : ([Instr.red 0 0 2 0 0x183, .scan 0 0 2 0 0x183].all (fun i =>
      runs i (owned (abc (tok 0 [0x7F, 0x7F]) 0 0)) fun t => (t.res r0).freeze = 1 && vget (t.plane f0 0).e 3 = 0) &&
    runs (.cvt 0 4 0 2 0x183) (owned (abc (tok 4 [200]) 0 0)) (fun t => (t.res r0).freeze = 1 && vget (t.plane f0 0).e 3 = 0)) = true := by decide +kernel
/-- DOT4.s32: 10 + 1·2 + (-1)·3 + 0 + 4·5; with `.z32` the byte 0xFF is 255. -/
theorem test_dot4 : (e3 (.dot4 4 0 0 0 0x183) (abc (ofLanes [0x0400FF01]) (ofLanes [0x05000302]) (ofLanes [10])) 4 [29] &&
    e3 (.dot4 5 0 0 0 0x183) (abc (ofLanes [0x0400FF01]) (ofLanes [0x05000302]) (ofLanes [10])) 5 [797]) = true := by decide +kernel
theorem witness_dot4 : (4 : BitVec 4) = 4 ∨ (4 : BitVec 4) = 5 := .inl rfl

def fl (xs ys zs : List Nat) : State := abc (tok 10 xs) (tok 10 ys) (tok 10 zs)
/-- 1.0, 2.0, 3.0 in `.f32`. -/
def sFl : State := fl [0x3F800000, 0xC0000000, 0x7F800000] [0x40000000, 0x40000000, 0xFF800000] [0x40400000, 0x3F800000, 0]
theorem witness_floats : 8 ≤ (8 : BitVec 4).toNat ∧ (11 : BitVec 4).toNat ≤ 11 ∧
    sFl.firingAt (firing0 [(.a, .value (tok 10 [0x3F800000, 0xC0000000, 0x7F800000])),
      (.b, .value (tok 10 [0x40000000, 0x40000000, 0xFF800000])), (.c, .value (tok 10 [0x40400000, 0x3F800000, 0]))]) :=
  ⟨by decide, by decide, firingAt_of (by decide +kernel)⟩
/-- 1+2, -2+2 = +0, inf - inf is the NaN of 02 R39; 1·2+3; the signs. -/
theorem test_float_sums : (e3 (.fadd 10 0 0 0 0x183) sFl 10 [0x40400000, 0, 0x7FC00000] && e3 (.fsub 10 0 0 0 0x183) sFl 10 [0xBF800000, 0xC0800000, 0x7F800000] &&
    e3 (.fmul 10 0 0 0 0x183) sFl 10 [0x40000000, 0xC0800000, 0xFF800000] && e3 (.fma 10 0 0 0 0x183) sFl 10 [0x40A00000, 0xC0400000, 0xFF800000] &&
    e3 (.fabs 10 0 0 0x183) sFl 10 [0x3F800000, 0x40000000, 0x7F800000] && e3 (.fneg 10 0 0 0x183) sFl 10 [0xBF800000, 0x40000000, 0xFF800000]) = true := by
  decide +kernel
/-- The sum 1 + 2^-24 lies halfway: RNE gives 1, RUP (variant 3) the next number. -/
theorem test_float_rounding : (e3 (.fadd 10 0 0 0 0x183) (fl [0x3F800000] [0x33800000] []) 10 [0x3F800000] &&
    e3 (.fadd 10 0 3 0 0x183) (fl [0x3F800000] [0x33800000] []) 10 [0x3F800001] &&
    e3 (.fadd 8 0 0 0 0x183) (abc (tok 8 [0x7BFF]) (tok 8 [0x7BFF]) 0) 8 [0x7C00] &&
    e3 (.fadd 8 0 1 0 0x183) (abc (tok 8 [0x7BFF]) (tok 8 [0x7BFF]) 0) 8 [0x7BFF]) = true := by decide +kernel
theorem test_float_compare : (e3 (.fmin 10 0 0 0x183) sFl 10 [0x3F800000, 0xC0000000, 0xFF800000] &&
    e3 (.fmax 10 0 0 0x183) sFl 10 [0x40000000, 0x40000000, 0x7F800000] && e3 (.fcmplt 10 0 0 0x183) sFl 10 [0xFFFFFFFF, 0xFFFFFFFF, 0] &&
    e3 (.fcmple 10 0 0 0x183) sFl 10 [0xFFFFFFFF, 0xFFFFFFFF, 0] && e3 (.fcmpeq 10 0 0 0x183) sFl 10 [0, 0, 0]) = true := by decide +kernel
/-- 1/2, 1/sqrt 4, 2^3, log2 8: values that are exact. -/
theorem test_float_functions : (e3 (.frcp 10 0 0 0 0x183) (fl [0x40000000] [] []) 10 [0x3F000000] &&
    e3 (.frsq 10 0 0 0 0x183) (fl [0x40800000] [] []) 10 [0x3F000000] && e3 (.fexp2 10 0 0 0 0x183) (fl [0x40400000] [] []) 10 [0x41000000] &&
    e3 (.flog2 10 0 0 0 0x183) (fl [0x41000000] [] []) 10 [0x40400000]) = true := by decide +kernel
/-- Conversions: `.f32` 2.5 to `.s32` rounds to 2; -1 in `.s8` to `.s16`; 3 in `.s32` to `.f32`; `.f32` to `.bf16`. -/
theorem test_convert : (e3 (.cvt 0 10 4 0 0x183) (fl [0x40200000] [] []) 4 [2] && e3 (.cvt 0 0 2 0 0x183) (abc (tok 0 [0xFF]) 0 0) 2 [0xFFFF] &&
    e3 (.cvt 0 4 10 0 0x183) (abc (tok 4 [3]) 0 0) 10 [0x40400000] && e3 (.cvt 0 10 9 0 0x183) (fl [0x3F808000] [] []) 9 [0x3F80]) = true := by
  decide +kernel
theorem witness_convert : 8 ≤ (8 : BitVec 4).toNat ∧ (11 : BitVec 4).toNat ≤ 11 ∧ (7 : BitVec 4).toNat < 8 := ⟨by decide, by decide, by decide⟩
/-- CVTSR of exact values draws nothing. QBFP then DQBFP return values that their mantissas hold. -/
theorem test_convert_units : (runs (.cvtsr 0 10 9 0x183) (fl [0x3F800000] [] []) (fun t => (t.plane f0 0).genCtr = 0 && elem 9 (vget (t.plane f0 0).e 3) 0 = 0x3F80) &&
    runs (.qbfp 0 8 10 0 0x183) (fl [0x3F800000, 0x40000000] [] []) (fun t =>
      e3 (.dqbfp 0 8 10 0 0x183) (abc (vget (t.plane f0 0).e 3) 0 0) 10 [0x3F800000, 0x40000000, 0])) = true := by decide +kernel
/-- `.s8` cross-lane: sums 1+2+3, prefix sums; element b of a; broadcast; rotation by one. -/
def sLane : State := abc (tok 0 [1, 2, 3]) (tok 0 [2, 0, 1]) 0
theorem test_lanes : (e3 (.red 0 0 0 0 0x183) sLane 0 [6, 6] && e3 (.scan 0 0 0 0 0x183) sLane 0 [1, 3, 6, 6] &&
    e3 (.shuf 0 0 0 0x183) sLane 0 [3, 1, 2, 1] && e3 (.bcst 2 0 0x183) sLane 0 [3, 3, 3] && e3 (.rotl 1 0 0x183) sLane 0 [2, 3, 0]) = true := by
  decide +kernel
/-- In `.f64`, eight elements: 1 + 2 everywhere; the sums up to each. -/
theorem test_float_lanes : (e3 (.red 11 0 0 0 0x183) (abc (tok 11 [0x3FF0000000000000, 0x4000000000000000]) 0 0) 11 [0x4008000000000000, 0x4008000000000000] &&
    e3 (.scan 11 0 0 0 0x183) (abc (tok 11 [0x3FF0000000000000, 0x4000000000000000]) 0 0) 11 [0x3FF0000000000000, 0x4008000000000000, 0x4008000000000000]) =
    true := by decide +kernel

/-! ### Ports and data (10 R204-R214, 05 R120, R121, 16 R339-R341) -/

def tk (d : Nat) (k : BitVec 3 := 0) : Token := { data := BitVec.ofNat 512 d, kind := k }
def portAt (q : InPort) : Plane := { plane0 [0] with inp := vset (.replicate 8 {}) 2 q }
def pins (q : InPort) : State := elm (firing0 []) (portAt q)
theorem witness_ports : (pins {}).firingAt (firing0 []) ∧ (pins {}).loopPort f0 0 2 = false ∧
    ((vget ((pins { resident := some (tk 9, 0) }).plane f0 0).inp 2).resident = some (tk 9, 0)) ∧
    ((vget ((pins { resident := some (tk 9, 1) }).plane f0 0).inp 2).resident = some (tk 9, 1)) ∧
    ((vget ((pins { resident := some (tk 9, 2) }).plane f0 0).inp 2).resident = some (tk 9, 0 + 2)) ∧
    ((vget ((pins { fifo := [tk 9 4] }).plane f0 0).inp 2).fifo.head? = some (tk 9 4)) ∧ (4 : BitVec 3) ≠ 5 ∧ (firing0 []).kind ≠ .cut :=
  ⟨firingAt_of (by decide +kernel), by decide +kernel⟩
/-- An EOS stays at the head of its port; so does the MARK in a cut. -/
theorem witness_stays : (vget ((pins { fifo := [tk 9 5] }).plane f0 0).inp 2).fifo.head? = some (tk 9 5) ∧ (tk 9 5).kind = 5 ∧
    (elm { firing0 [] with kind := .cut } (portAt { fifo := [tk 9 6] })).firingAt { firing0 [] with kind := .cut } ∧ (tk 9 6).kind = 6 :=
  ⟨by decide +kernel, by decide, firingAt_of (by decide +kernel), by decide⟩
def leaves (k : BitVec 4) (q q' : InPort) : Bool := runs (.pin 2 k 0 0x183) (pins q) fun t =>
  vget (t.plane f0 0).e 3 = 9 && vget (t.plane f0 0).inp 2 = q'
theorem test_pin : (leaves 0 { resident := some (tk 9, 0) } { resident := some (tk 9, 0) } && leaves 0 { resident := some (tk 9, 1) } {} &&
    leaves 0 { resident := some (tk 9, 2) } { resident := some (tk 9, 1) } && leaves 1 { fifo := [tk 9, tk 8] } { fifo := [tk 8] } &&
    leaves 0 { fifo := [tk 9] } { resident := some (tk 9, 0) } && leaves 15 { fifo := [tk 9] } { resident := some (tk 9, 14) } &&
    leaves 15 { fifo := [tk 9 4] } {} && leaves 1 { fifo := [tk 9 5] } { fifo := [tk 9 5] }) = true := by decide +kernel
def sPout : State := elm (firing0 [(.a, .value 5)]) { plane0 [0] with outp := vset (.replicate 8 {}) 1 { free := 3, count := 6 } }
theorem witness_pout : sPout.firingAt (firing0 [(.a, .value 5)]) ∧ sPout.unobserved ∧ lane (5 : Line) 0 ≠ 0 ∧ lane (0 : Line) 0 = 0 :=
  ⟨firingAt_of (by decide +kernel), unobserved_of (by decide +kernel), by decide +kernel⟩
theorem test_pout_after_eos : (runs (.pout 1 5) sPout (fun t => (vget (t.plane f0 0).outp 1).reg.map (·.late) = [false] &&
      (vget (t.plane f0 0).outp 1).eos) &&
    runs (.pout 1 4) (elm (firing0 [(.a, .value 5)]) { plane0 [0] with outp := vset (.replicate 8 {}) 1 { free := 3, eos := true } })
      (fun t => (vget (t.plane f0 0).outp 1).reg.map (·.late) = [true])) = true := by decide +kernel
theorem test_pout : (runs (.pout 1 4) sPout (fun t => (vget (t.plane f0 0).outp 1).reg.map (fun w => (w.data, w.kind, w.ord)) = [(5, 4, 6)] &&
      (vget (t.plane f0 0).outp 1).free = 2 && (vget (t.plane f0 0).outp 1).count = 7) &&
    runs (.pctlKeep 3) sPout (fun t => ((t.fe f0).firing.map (·.keeps)) = some [3]) &&
    runs (.pctlRelease 3) sPout (fun t => ((t.fe f0).firing.map (·.releases)) = some [3]) &&
    runs (.pctlKeep 3) (elm (firing0 [(.a, .value 0)])) (fun t => ((t.fe f0).firing.map (·.keeps)) = some []) &&
    runs (.pkind 2 0 0x183) (pins { fifo := [tk 9 4] }) (fun t => vget (t.plane f0 0).e 3 = ofLanes (List.replicate 16 4))) = true := by
  decide +kernel
theorem witness_pkind : ((firing0 []).pins.find? (fun r => decide (r.port = 2)) = none) ∧
    (vget ((pins { fifo := [tk 9 4] }).plane f0 0).inp 2).resident = none := by decide +kernel
theorem test_data : (e3 (.mov 0 0 0x183) (abc (tok 4 [6]) 0 0) 4 [6] && e3 (.const 0x3FF 2 0x183) (elm (firing0 [])) 2 [0xFFFF, 0xFFFF] &&
    e3 (.const 3 10 0x183) (elm (firing0 [])) 10 [0x40400000] && e3 (.laneid 4 0 0x183) (elm (firing0 [])) 4 [0, 1, 2] &&
    e3 (.getr 4 0x183) (elm (firing0 []) { plane0 [0] with e := vset (.replicate 32 0) 4 (tok 4 [8]) }) 4 [8]) = true := by decide +kernel
/-- CONSTW of the next word -2: 32 bits, sign-extended to `.s64`, or 1.5 widened to `.f64`; the literal is passed over. -/
def constw (T : BitVec 4) (w : BitVec 32) (x : Nat) : Bool := runs (.constw T 0 0x183) (elm (firing0 []) (plane0 [0x0E000000, w])) fun t =>
  elem T.toNat (vget (t.plane f0 0).e 3) 1 = x && ((t.fe f0).firing.map (·.slot)) = some 2
theorem test_constw : (constw 4 0xFFFFFFFE 0xFFFFFFFE && constw 6 0xFFFFFFFE 0xFFFFFFFFFFFFFFFE && constw 11 0x3FC00000 0x3FF8000000000000) = true := by
  decide +kernel
theorem witness_constants : (0 : BitVec 4) ≠ 6 ∧ (0 : BitVec 4) ≠ 11 ∧ 8 ≤ (8 : BitVec 4).toNat ∧ (7 : BitVec 4).toNat < 8 := by decide
/-- Table 0 is the AND of operand bit 0 with itself; table 1 is constantly 1 and passes its flip-flop (05 Table 5-6). -/
def sIsl : State :=
  { abc (tok 5 [1, 2]) 0 0 with
    islands := [((0, 0, 1, 0), { luts := vset (vset (.replicate 64 0) 0 0x8000) 1 (0xFFFF + 2 ^ 56) })] }
theorem test_islands : (runs (.bitx 0 1 0 0x183) sIsl (fun t => vget (t.plane f0 0).e 3 = 1 && (mapGet {} t.islands (0, 0, 1, 0)).ff = 2) &&
    runs (.rng 7 0 0 0x183) sIsl (fun t => (t.plane f0 0).genKey = 1 && (t.plane f0 0).genCtr = 2 && vget (t.plane f0 0).e 3 = 0) &&
    e3 (.resid 0 0 0x183) sIsl 5 [1, 2]) = true := by decide +kernel
def gd0 : GuardEntry := { record := 0, asid := 7, tol := 0, pair := 0, tiles := [(0, { state := .running })] }
def sRes : State := let s := owned sIsl { res0 with guard := .surrogate 2 0 }
  { s with dies := dies0 { s.die 0 with guards := vset (.replicate 16 none) 2 (some gd0) } }
theorem witness_islands : sIsl.planeOwner f0 0 = none ∧ sRes.planeOwner f0 0 = some r0 ∧ (sRes.res r0).guard = .surrogate 2 0 ∧
    sRes.guardTile 0 2 0 = some { state := .running } := by decide +kernel
theorem test_resid : runs (.resid 0 0 0x183) sRes (fun t => ((t.guardTile 0 2 0).map fun z => z.deliv) = some true) = true := by decide +kernel
def sExit (k : Option (BitVec 3)) : State := elm { firing0 [] with selp := k, pins := [⟨2, 0, some (tk 9)⟩] } { plane0 [0] with sel := 5, inp := vset (.replicate 8 {}) 2 { owed := 1 } }
theorem witness_exit : (sExit none).firingAt { firing0 [] with selp := none, pins := [⟨2, 0, some (tk 9)⟩] } ∧
    ((sExit none).fe f0).firingQuiet { firing0 [] with selp := none, pins := [⟨2, 0, some (tk 9)⟩] } = true ∧
    (vget ((sExit (some 0)).plane f0 0).blocks ((some (0 : BitVec 3)).getD 3).toNat).isSome = true :=
  ⟨firingAt_of (by decide +kernel), by decide +kernel⟩
theorem test_exit : (runs (.exit 4) (sExit none) (fun t => (t.fe f0).firing = none && (t.plane f0 0).sel = 4 && (t.plane f0 0).fired &&
      (vget (t.plane f0 0).inp 2).owed = 2) &&
    runs (.exitc 3) (sExit (some 0)) (fun t => (t.fe f0).firing = none && (t.plane f0 0).sel = 0)) = true := by decide +kernel
/-- A cut and a drain with a port in and a port out; a firing whose EXITC names an absent block. -/
def uni : Plane :=
  { plane0 [0] with blocks := vset (.replicate 8 none) 0 (some { header := 0x202, words := [0] }), outp := vset (.replicate 8 {}) 1 { free := 1 }
                    inp := vset (.replicate 8 {}) 1 { fifo := [tk 9 6] } }
def gKind (k : FireKind) : Firing := { firing0 [] with kind := k }
theorem witness_exit_kinds : (elm (gKind .cut) uni).firingAt (gKind .cut) ∧ ((elm (gKind .cut) uni).fe f0).firingQuiet (gKind .cut) = true ∧
    uni.room uni.unionOut = true ∧ uni.unionIn.head? = some 1 ∧ (vget uni.inp 1).fifo.head? = some (tk 9 6) ∧
    (elm (gKind .drain) uni).firingAt (gKind .drain) ∧ ((elm (gKind .drain) uni).fe f0).firingQuiet (gKind .drain) = true ∧
    uni.room (uni.eosLeft (gKind .drain)) = true ∧ (owned (elm (firing0 []))).planeOwner f0 0 = some r0 ∧
    (vget ((owned (elm (firing0 []))).plane f0 0).blocks 3) = none ∧ (owned (elm (firing0 []))).hasRes r0 = true :=
  ⟨firingAt_of (by decide +kernel), by decide +kernel, by decide +kernel, by decide +kernel, by decide +kernel,
    firingAt_of (by decide +kernel), by decide +kernel⟩
theorem test_exit_kinds : (runs (.exit 4) (elm (gKind .cut) uni) (fun t => (vget (t.plane f0 0).outp 1).reg.map (·.kind) = [6] &&
      (t.fe f0).cutTaken.isSome) &&
    runs (.exit 4) (elm (gKind .drain) uni) (fun t => (vget (t.plane f0 0).outp 1).reg.map (·.kind) = [5] && (t.plane f0 0).drained) &&
    runs (.exitc 3) (owned (elm (firing0 []))) (fun t => (t.fe f0).firing = none && (t.res r0).freeze = 1)) = true := by decide +kernel
def gSkip (d : Arrived) (q : Line) : Firing := firing0 [(.a, d), (.b, d), (.q, .value q)]
theorem witness_skip : (elm (gSkip .never 1)).firingAt (gSkip .never 1) ∧ (gSkip .never 1).operand .a = .never ∧
    (gSkip (.value 3) 0).operand .q = .value 0 ∧ lane (0 : Line) 0 = 0 ∧ (firing0 [(.a, .pending), (.b, .pending), (.q, .pending)]).operand .q = .pending :=
  ⟨firingAt_of (by decide +kernel), by decide +kernel⟩
theorem test_skip : (runs (.addE 4 1 0 0 0x183) (elm (gSkip (.value 3) 0)) (fun t => vget (t.plane f0 0).e 3 = 0 && ((t.fe f0).firing.map (·.slot)) = some 1) &&
    runs (.addE 4 1 0 0 0x183) (elm (gSkip .pending 1)) (fun t => t = elm (gSkip .pending 1))) = true := by decide +kernel
/-- A word of AND whose target is operand q of slot 1 makes an `LD` there predicated (10 R203); the FE stands at slot 1. -/
def wPred : BitVec 32 := 0x26#7 ++ 4#4 ++ 0#1 ++ 0#2 ++ 0#9 ++ 0x0C1#9
def gMemQ (q : Arrived) : Firing := { firing0 [] with slot := 1, dels := [((1, .a), .value 0x40), ((1, .b), .value 7), ((1, .q), q)] }
def sMemQ (q : Arrived) : State := elm (gMemQ q) (plane0 [wPred, 0])
theorem witness_skip_memory : (∀ q ∈ [Arrived.never, .pending, .value 0], ((sMemQ q).blockOf f0 (gMemQ q)).predicated 1 = true ∧ (gMemQ q).operand .q = q) ∧
    (sMemQ .never).firingAt (gMemQ .never) := ⟨by decide +kernel, firingAt_of (by decide +kernel)⟩
theorem test_skip_memory : ([Arrived.never, .value 0].all (fun q => [Instr.fenceE 3 1 0 15, .stE 4 1 0 15, .ldt 1 0 15 0x183].all fun i =>
      runs i (sMemQ q) fun t => (t.fe f0).port.map (·.kind) = [.null] && ((t.fe f0).firing.map (·.slot)) = some 2) &&
    runs (.amoAddE 1 0 15 0x183) (sMemQ .pending) (fun t => t = sMemQ .pending)) = true := by decide +kernel

/-! ### Element memory (13 R293-R295, 14 R314, 17 R349) -/

/-- FE 0's firing has address 0x40, lane 2 being 15, data and a third operand; its residency's thread can take a record. -/
def gMem (a : Nat) : Firing := firing0 [(.a, .value (ofLanes [a, 0, 15])), (.b, .value (ofLanes [7, 8])), (.c, .value 9)]
def sMem (a : Nat) : State := owned (elm (gMem a))
theorem witness_port : (sMem 0x40).firingAt (gMem 0x40) ∧ ((sMem 0x40).blockOf f0 (gMem 0x40)).predicated (gMem 0x40).slot ≠ true ∧
    (gMem 0x40).operand .a = .value (ofLanes [0x40, 0, 15]) ∧ (gMem 0x40).operand .b = .value (ofLanes [7, 8]) ∧
    (gMem 0x40).operand .c = .value 9 ∧ (lane64 (ofLanes [0x40, 0, 15])).toNat % 64 = 0 ∧ lane (ofLanes [0x40, 0, 15]) 2 < 16 ∧
    (lane64 (ofLanes [0x42, 0, 15])).toNat % 4 ≠ 0 ∧ (sMem 0x42).planeOwner f0 0 = some r0 ∧ (sMem 0x42).loopOf f0 0 = none ∧
    (sMem 0x42).hasRes r0 = true ∧ ((sMem 0x42).res r0).freed = false ∧ ((sMem 0x42).res r0).thread = some q0 :=
  ⟨firingAt_of (by decide +kernel), by decide +kernel⟩
def port (i : Instr) (s : State) (k : MemKind) (a : Word) : Bool := runs i s fun t =>
  (t.fe f0).port.map (fun o => (o.kind, o.addr, o.own, o.pred, o.succ)) = [(k, a, 1, 0, 15)] && ((t.fe f0).firing.map (·.slot)) = some 1
theorem test_port : (port (.ldE 4 1 0 15 0x183) (sMem 0x40) (.load 4) 0x40 && port (.stE 4 1 0 15) (sMem 0x40) (.store 4 (ofLanes [7, 8])) 0x40 &&
    port (.amoCasE 1 0 15 0x183) (sMem 0x40) (.amo 2 (ofLanes [7, 8]) 9) 0x40 && port (.amoXorE 1 0 15 0x183) (sMem 0x40) (.amo 7 (ofLanes [7, 8]) 0) 0x40 &&
    port (.ldt 1 0 15 0x183) (sMem 0x40) (.ldt 15) 0x40 && port (.fenceE 3 1 0 15) (sMem 0x40) (.fence 3) 0) = true := by decide +kernel
theorem test_port_misaligned : (runs (.ldE 4 1 0 15 0x183) (sMem 0x42) (fun t => (t.res r0).freeze = 1 &&
    (t.thr q0).held.map (fun d => (vget d.words 1, d.freezes)) = [(0x42, true)] && (t.fe f0).port.map (·.kind) = [.null])) = true := by
  decide +kernel
/-- `LD.s32` of wave order 0 alone in its chain. -/
def wLd : BitVec 32 := 0x52#7 ++ 4#3 ++ 0#4 ++ 15#4 ++ 15#4 ++ 0#1 ++ 0x183#9
def op0 (k : MemKind) (st : MemStage) (t : BitVec 9) : MemOp :=
  { id := 5, plane := 0, block := 0, slot := 0, ordinal := 0, own := 0, pred := 15, succ := 15, kind := k, addr := 0x40, tgt := t, stage := st }
def mLd : Memory := words [] 0x40 [0x200000001, 3]
def sPort (o : MemOp) (g : Firing := firing0 []) : State :=
  { owned (elm g (plane0 [wLd])) with tlb := tlb0, mem := mLd
                                      fes := [(f0, { fe0 g (plane0 [wLd]) with port := [o] })] }
theorem witness_issue : ((sPort (op0 (.load 4) .reached 0x183)).fe f0).firing = some (firing0 []) ∧
    ((sPort (op0 (.load 4) .reached 0x183)).fe f0).firingBelow = none ∧ ((sPort (op0 (.load 4) .reached 0x183)).fe f0).chainHeld 0 = false ∧
    ((sPort (op0 (.load 4) .reached 0x183)).blockOf f0 (firing0 [])).chain[0]? = some 0 ∧
    (((sPort (op0 (.load 4) .reached 0x183)).fe f0).port.find? fun y =>
      decide (y.plane = 0 ∧ y.ordinal = 0 ∧ y.own = 0 ∧ y.stage = .reached)) = some (op0 (.load 4) .reached 0x183) := by decide +kernel
theorem witness_perform_load : ((sPort (op0 (.load 4) .issued 0x045)).fe f0).port = op0 (.load 4) .issued 0x045 :: [] ∧
    (4 : BitVec 3).toNat < 7 ∧ tgtOpnd 0x045 = some .a ∧
    ((sPort (op0 (.load 4) .issued 0x045)).fe f0).firing = some (firing0 []) ∧ (firing0 []).plane = (op0 (.load 4) .issued 0x045).plane ∧
    (sPort (op0 (.load 4) .issued 0x045)).plainAt ((sPort (op0 (.load 4) .issued 0x045)).feAgent f0 (op0 (.load 4) .issued 0x045)) 0x40 64 (leafAt 0x40) :=
  ⟨by decide +kernel, by decide, by decide, by decide +kernel, by decide, plain_of (by decide +kernel)⟩
theorem witness_perform_store : ((sPort (op0 (.store 0 5) .issued 0)).fe f0).port = op0 (.store 0 5) .issued 0 :: [] ∧
    (sPort (op0 (.store 0 5) .issued 0)).plainAt ((sPort (op0 (.store 0 5) .issued 0)).feAgent f0 (op0 (.store 0 5) .issued 0)) 0x40 16 (leafAt 0x40) ∧
    (leafAt 0x40).w = true := ⟨by decide +kernel, plain_of (by decide +kernel), by decide⟩
theorem test_fe_accesses : (runs (.memportIssue f0) (sPort (op0 (.load 4) .reached 0x183)) (fun t => (t.fe f0).port.map (·.stage) = [.issued]) &&
    runs (.accessPerform (.fePort f0 0)) (sPort (op0 (.load 4) .issued 0x045)) (fun t => (t.fe f0).port = [] &&
      ((t.fe f0).firing.map fun g => mapFind g.dels (5, Opnd.a)) = some (some (.value (ofLanes [1, 2, 3])))) &&
    runs (.accessPerform (.fePort f0 0)) (sPort (op0 (.store 0 (tok 0 [1, 2, 255])) .issued 0)) (fun t => (t.fe f0).port = [] &&
      t.mem.readBytes 0x40 4 = [1, 2, 255, 0])) = true := by decide +kernel
def sBuf : State := ctl { thr0 with sbuf := [⟨.glob 0x40 (leafAt 0x40) 0x40, 2, 0x12345, 0x40, 0x1000, 0, false⟩] }
theorem witness_buffer : (sBuf.thr q0).sbuf = [⟨.glob 0x40 (leafAt 0x40) 0x40, 2, 0x12345, 0x40, 0x1000, 0, false⟩] ∧
    sBuf.plainAt { sBuf.agent q0 with since := sBuf.cyc } 0x40 2 (leafAt 0x40) := ⟨by decide +kernel, plain_of (by decide +kernel)⟩
theorem test_buffer : runs (.accessPerform (.storeBuffer q0)) sBuf (fun t => t.mem = [(0x40, 0x45), (0x41, 0x23)] && (t.thr q0).sbuf = []) = true := by
  decide +kernel

/-! ### Tiles, sampling, rotation words (14, 16, 11) -/

/-- The header of a dense tile with scale 1, and the edge declaration of a 1 × 2 `.f32` tile (02 Table 2-6, 05 Table 5-5). -/
def hd (fmt r c : Nat) : Line := BitVec.ofNat 512 (fmt + (r - 1) * 2 ^ 16 + (c - 1) * 2 ^ 24 + 0x3F800000 * 2 ^ 32)
def edge0 : Edge := { id := 0, plane := 0, src := ⟨0, 0, 1⟩, srcp := 0, dst := f0, dstp := 2, net := true, pdecl := 0x80015, cdecl := 0x80015 }
def full0 : TileSlot := { tag := .full, tile := { header := hd 10 1 2, payload := [tok 10 [0x3F800000, 0x40000000]] } }
def sTile (fifo : List Token) (z : TileSlot) : State :=
  { owned (elm (firing0 [])) { res0 with edges := [edge0, { edge0 with id := 1, src := f0, srcp := 1, dst := ⟨0, 0, 1⟩, dstp := 0 }] } with
    fes := [(f0, { fe0 (firing0 []) { plane0 [0] with inp := vset (.replicate 8 {}) 2 { fifo }, outp := vset (.replicate 8 {}) 1 { free := 2 } } with
      hasTiles := true, tiles := vset (.replicate 16 {}) 3 z })] }
def pkt : List Token := [{ data := hd 10 1 2 }, { data := 5 }, { data := 6 }]
/-- The same with no edge at the ports. -/
def sBare (fifo : List Token) (z : TileSlot) : State := owned { sTile fifo z with dies := dies0 { res := [(0, res0)], pages := pages0 } }
theorem witness_tfill : (sTile pkt {}).firingAt (firing0 []) ∧ (firing0 []).filling = none ∧ (sTile pkt {}).unobserved ∧
    (sTile pkt {}).heldHead f0 2 = false ∧ (vget ((sTile pkt {}).plane f0 0).inp 2).fifo = { data := hd 10 1 2 } :: ([{ data := 5 }] ++ [{ data := 6 }]) ∧
    (∀ t ∈ ({ data := hd 10 1 2 } : Token) :: [{ data := 5 }], t.made = false) ∧
    (vget ((sTile pkt {}).fe f0).tiles 3).tag = .empty ∧ (sTile pkt {}).edgeInto f0 0 2 = some edge0 ∧ hdrClean (hd 10 1 2) = true ∧
    hdrTile (hd 10 1 2) = declTile 0x80015 ∧ 1 = (declTile 0x80015).tokens :=
  ⟨firingAt_of (by decide +kernel), by decide, unobserved_of (by decide +kernel), by decide +kernel⟩
theorem witness_tfill_bare : (sBare pkt {}).edgeInto f0 0 2 = none ∧ hdrRefused ((vget ((sBare pkt {}).fe f0).planes 0).slotDecl 3) (hd 10 1 2) = false ∧
    1 = (hdrTile (hd 10 1 2)).tokens ∧ (sBare [{ data := 0x700 }] {}).edgeInto f0 0 2 = none ∧
    hdrRefused ((vget ((sBare [{ data := 0x700 }] {}).fe f0).planes 0).slotDecl 3) 0x700 = true ∧ (tk 9 5).kind = 5 ∧
    (tk 9 7).kind ∈ [(1 : BitVec 3), 2, 3, 4, 7] := by decide +kernel
theorem test_tfill_bare : runs (.tfill 2 3) (sBare pkt {}) (fun t => (vget (t.fe f0).tiles 3).tile = { header := hd 10 1 2, payload := [5] }) = true := by
  decide +kernel
def sDecl : State := (sBare [{ data := 0x700 }] {}).modFe f0 fun x =>
  let p := vget x.planes 0
  { x with planes := vset x.planes 0 { p with recs := vset (.replicate 8 0) 0 (encodeFields 6 { mtu0 with sa := 3, ta := 10, sb := 0, kb := 0, tb := 0 }) } }
theorem test_tfill_refused : runs (.tfill 2 3) sDecl (fun t => hdrVoid (vget (t.fe f0).tiles 3).tile.header && (t.fe f0).voidPackets = 1) = true := by
  decide +kernel
theorem test_tfill_control : (runs (.tfill 2 3) (sTile [tk 9 5] {}) (fun t => (vget (t.plane f0 0).inp 2).fifo = [tk 9 5] && (vget (t.fe f0).tiles 3).tag = .empty) &&
    runs (.tfill 2 3) (sTile [tk 9 7] {}) (fun t => (vget (t.plane f0 0).inp 2).fifo = [] && (vget (t.fe f0).tiles 3).tag = .empty)) = true := by
  decide +kernel
theorem witness_tout_tclr : (vget ((sTile [] full0).fe f0).tiles 3).tag = .full ∧ (vget ((sTile [] full0).fe f0).tiles 3).pins = [] ∧
    ((sTile [] full0).edgesFrom f0 0 1).head? = some { edge0 with id := 1, src := f0, srcp := 1, dst := ⟨0, 0, 1⟩, dstp := 0 } ∧
    (sBare [] full0).edgesFrom f0 0 1 = [] ∧ (declTile 0x80015).tokens < (vget ((sTile [] full0).plane f0 0).outp 1).free ∧
    ((sTile [] full0).fe f0).mtu = none := by decide +kernel
theorem test_tiles : (runs (.tfill 2 3) (sTile pkt {}) (fun t => (vget (t.fe f0).tiles 3).tile = { header := hd 10 1 2, payload := [5] } &&
      (vget (t.fe f0).tiles 3).tag = .full && (vget (t.plane f0 0).inp 2).fifo = [{ data := 6 }] && (vget (t.plane f0 0).inp 2).owed = 2) &&
    runs (.tout 1 3) (sTile [] full0) (fun t => (vget (t.plane f0 0).outp 1).reg.map (·.data) = [hd 10 1 2, tok 10 [0x3F800000, 0x40000000]] &&
      (vget (t.fe f0).tiles 3).tag = .empty && (vget (t.plane f0 0).outp 1).free = 0) &&
    runs (.tclr 3) (sTile [] full0) (fun t => (vget (t.fe f0).tiles 3).tag = .empty)) = true := by decide +kernel
/-- Eight candidates of values 1.0 to 8.0 (`.f32`), indices 0 to 7. -/
def cands : Line := ofLanes [0x3F800000, 0, 0x40000000, 1, 0x40400000, 2, 0x40800000, 3, 0x40A00000, 4, 0x40C00000, 5, 0x40E00000, 6, 0x41000000, 7]
def gSmp (a b : Line) : Firing := firing0 [(.a, .value a), (.b, .value b)]
def sSmp (a b : Line) (p : Sampling) (fifo : List Token := []) : State :=
  { elm (gSmp a b) with fes := [(f0, { fe0 (gSmp a b) { plane0 [0] with inp := vset (.replicate 8 {}) 2 { fifo } } with samp := p })] }
theorem witness_sampling : (sSmp cands (ofLanes [0, 0, 0, 9]) {}).firingAt (gSmp cands (ofLanes [0, 0, 0, 9])) ∧
    (((sSmp cands 0 {}).fe f0).samp.cells.Pairwise fun a b => b.above a = false) ∧ ((candsOf cands).filterMap id).length = 8 ∧
    0 + 8 < min (max (lane (ofLanes [0, 0, 0, 9]) 3) 1) 256 ∧ min (max (lane (ofLanes [0, 0, 0, 8]) 3) 1) 256 ≤ 0 + 8 :=
  ⟨firingAt_of (by decide +kernel), List.Pairwise.nil, by decide +kernel⟩
theorem test_topk : (runs (.topkIns 0 0 0x183) (sSmp cands 0 {}) (fun t => (t.fe f0).samp.cells.map (fun c => c.idx.toNat) = [7, 6, 5, 4, 3, 2, 1, 0]) &&
    runs (.topkDrn 0 0 0x183) (sSmp 0 0 { cells := [⟨0x40000000, 9⟩] }) (fun t => (t.fe f0).samp.cells = [] &&
      lane (vget (t.plane f0 0).e 3) 0 = 0x40000000 && lane (vget (t.plane f0 0).e 3) 1 = 9 && lane (vget (t.plane f0 0).e 3) 3 = 0xFFFFFFFF)) = true := by
  decide +kernel
theorem test_cumt : runs (.cumt 0 0 0x183) (sSmp cands (ofLanes [0, 0, 0, 9]) {}) (fun t => (t.fe f0).samp.buf.length = 8 &&
    vget (t.plane f0 0).e 3 = 0) = true := by decide +kernel
/-- The list entry (index 33, 2.0, next 0x1000) falls in the token of base 32; EOS ends the list. -/
def sSpd (k : BitVec 3) (l : Sampling := { lstate := .opened, lastBase := 16 }) : State := sSmp (tok 10 [0, 0x3F800000]) (ofLanes [32]) l
  [{ data := ofLanes [33, 0x40000000, 0x1000], kind := k }]
theorem witness_spadd : ((firing0 []).spadding = 0 ∧ ((sSpd 0).fe f0).samp.lstate = .opened ∧ ((sSpd 0).fe f0).samp.lastBase < 32 ∧
    ((sSpd 0).fe f0).samp.pr = none ∧ (sSpd 0).heldHead f0 2 = false ∧ ((sSpd 0 { lstate := .ended }).fe f0).samp.lstate = .ended ∧
    ((sSpd 5 {}).fe f0).samp.lstate = .start ∧ lane (ofLanes [32]) 0 = 32 ∧ 32 ≤ lane (ofLanes [33, 0x40000000, 0x1000]) 0 ∧
    lane (ofLanes [33, 0x40000000, 0x1000]) 0 < 32 + 16 ∧ 32 + 16 ≤ lane (ofLanes [33, 0x40000000, 0x1000]) 2) ∧ (sSpd 0).unobserved :=
  ⟨by decide +kernel, unobserved_of (by decide +kernel)⟩
theorem test_spadd : (runs (.spadd 2 0 0 0 0x183) (sSpd 0) (fun t => (t.fe f0).samp.prj = 1 && elem 10 (vget (t.plane f0 0).e 3) 1 = 0x40400000 &&
      elem 10 (vget (t.plane f0 0).e 3) 0 = 0) &&
    runs (.spadd 2 0 0 0 0x183) (sSpd 5) (fun t => (t.fe f0).samp.lstate = .ended && (vget (t.plane f0 0).inp 2).fifo.length = 1 && elem 10 (vget (t.plane f0 0).e 3) 1 = 0x3F800000)) = true := by
  decide +kernel
def sHold (em : List Nat) (tg : Option (BitVec 8)) : State :=
  elm { firing0 [] with emitted := em, tag := tg } { plane0 [0] with outp := vset (.replicate 8 {}) 1 { reg := [tk 9] } }
theorem witness_hold : (sHold [] none).firingAt { firing0 [] with emitted := [], tag := none } ∧
    (sHold [1] (some 4)).firingAt { firing0 [] with emitted := [1], tag := some 4 } ∧ (vget ((sHold [1] (some 4)).plane f0 0).outp 1).reg = [] ++ [tk 9] ∧
    (sHold [] none).loopOf f0 0 = none := ⟨firingAt_of (by decide +kernel), firingAt_of (by decide +kernel), by decide +kernel⟩
theorem test_hold : (runs (.hold 0) (sHold [] none) (fun t => ((t.fe f0).firing.map (·.sh)) = some true) &&
    runs (.hold 0) (sHold [1] (some 4)) (fun t => (vget (t.plane f0 0).outp 1).reg.map (fun w => (w.tag, w.sh)) = [(4, true)]) &&
    runs (.phase 0 0x183) (sHold [] (some 200)) (fun t => vget (t.plane f0 0).e 3 = 200) &&
    runs (.phase 0 0x183) (sHold [] none) (fun t => vget (t.plane f0 0).e 3 = 0)) = true := by decide +kernel

/-! ### The MTU (14 R303-R311) -/

def zt (h : Line) (p : List Line) : TileSlot := { tag := .full, tile := { header := h, payload := p } }
/-- FE 0's slots 0 to 3 hold tiles; its first record is of operation `op`. -/
def sMtu (op : BitVec 6) (f : MtuFields) (z0 z1 : TileSlot) : State :=
  { owned (elm (firing0 [])) with
    fes := [(f0, { planes := vset (.replicate 6 {}) 0 { recs := vset (.replicate 8 0) 0 (encodeFields op f) }, hasTiles := true
                   tiles := vset (vset (vset (vset (.replicate 16 {}) 0 z0) 1 z1) 6 z1) 7 z1 })], curMtu := 0 }
def readyB (s : State) : Bool :=
  decide (s.mayStart f0 false = some r0) && decide ((s.fe f0).mtu = none) && decide ((s.fe f0).nextEntry = some 0)
def f32 : MtuFields := { mtu0 with ta := 10, tb := 10 }
def one : MtuFields := { f32 with sb := 0, kb := 0, tb := 0 }
def v2 (a b : Nat) : TileSlot := zt (hd 10 1 2) [tok 10 [a, b]]
def sMmas : State :=
  let s := sMtu 2 { mtu0 with nsp := 2, sb := 5, dst := 4 } (zt (BitVec.ofNat 512 (8 + 2 * 2 ^ 8 + 15 * 2 ^ 16 + 47 * 2 ^ 24 + 0x3F800000 * 2 ^ 32)) [])
    (zt (hd 9 16 16) [])
  s.modFe f0 fun x => { x with tiles := vset x.tiles 5 (zt (hd 9 16 16) []) }
theorem witness_mtu : readyB (sMtu 1 mtu0 (zt (hd 8 16 16) []) (zt (hd 9 16 16) [])) = true ∧ readyB sMmas = true ∧
    readyB (sMtu 3 f32 (v2 0 0) (v2 0 0)) = true ∧ readyB (sMtu 4 f32 (v2 0 0) (v2 0 0)) = true ∧
    readyB (sMtu 5 { one with td := 8 } (v2 0 0) {}) = true ∧ readyB (sMtu 6 one (v2 0 0) {}) = true := by decide +kernel
/-- The instruction starts; at the release point the result is `h` with payload `p`. -/
def res (i : Instr) (s : State) (h : Line) (p : List Line) (wrong : Bool := false) : Bool := runs i s fun t =>
  (vget (t.fe f0).tiles 2).tag = .reserved && runs (.mtuReleasePoint f0) { t with cyc := 1000 } fun u =>
    (u.fe f0).mtuOut.map (fun o => (fldN o.result.header 0 32, o.result.payload, o.mismatch)) = [(fldN h 0 32, p, wrong)]
/-- 1 + 2 and 2 + 2; 1 · 2 and 2 · 2; the transpose is 2 × 1; conversion to `.f16`. -/
theorem test_mtu : (res (.tadd f32) (sMtu 3 f32 (v2 0x3F800000 0x40000000) (v2 0x40000000 0x40000000)) (hd 10 1 2) [tok 10 [0x40400000, 0x40800000]] &&
    res (.tscl f32) (sMtu 4 f32 (v2 0x3F800000 0x40000000) (v2 0x40000000 0x40000000)) (hd 10 1 2) [tok 10 [0x40000000, 0x40800000]] &&
    res (.ttrn one) (sMtu 6 one (v2 0x3F800000 0x40000000) {}) (hd 10 2 1) [tok 10 [0x3F800000, 0x40000000]] &&
    res (.tcvt { one with td := 8 }) (sMtu 5 { one with td := 8 } (v2 0x3F800000 0x40000000) {}) (hd 8 1 2) [ofLanes [0x40003C00]]) = true := by
  decide +kernel
/-- A VOID operand gives a VOID result; operands of different shapes too, which is a mismatch. -/
theorem test_mtu_void : (res (.tadd f32) (sMtu 3 f32 (zt (hd 10 1 2 ||| 0x800) []) (v2 0 0)) (hd 10 1 2 ||| 0x800) [0] &&
    runs (.tadd f32) (sMtu 3 f32 (v2 0 0) (zt (hd 10 2 1) [0])) fun t => runs (.mtuReleasePoint f0) { t with cyc := 1000 } fun u =>
      (u.fe f0).mtuOut.map (fun o => (hdrVoid o.result.header, o.mismatch)) = [(true, true)] && (u.fe f0).voidPackets = 1 &&
      vget (u.die 0).counters 5 = 1) = true := by decide +kernel
def op1 : MtuOp := { plane := 0, entry := 0, dst := 2, reads := [(0, 1), (1, 3)], op := 3, fields := f32, stages := 0, start := 5, busy := 2, result := default, mismatch := false, malformed := 0 }
def sRel (c : Nat) : State := { ({} : State) with cyc := c, fes := [(f0, { mtu := some op1, tiles := vset (vset (.replicate 16 {}) 0 full0) 1 full0 })] }
def sMtuOut (c : Nat) : State := { ({} : State) with cyc := c, fes := [(f0, { mtuOut := [{ op1 with result := { header := 1, payload := [2] } }] })] }
theorem witness_mtu_events : ((sRel 7).fe f0).mtu = some op1 ∧ op1.start + op1.busy ≤ (sRel 7).cyc ∧ (op1.reads.map (·.1)).Nodup ∧
    (∀ y ∈ op1.reads, y.1 < 16 ∧ (vget ((sRel 7).fe f0).tiles y.1).hold = .none ∧ (vget ((sRel 7).fe f0).tiles y.1).pins = []) ∧
    ((sMtuOut 17).fe f0).mtuOut = [{ op1 with result := { header := 1, payload := [2] } }] ∧ op1.start + op1.busy + 10 ≤ (sMtuOut 17).cyc ∧ op1.dst < 16 := by decide +kernel
theorem test_mtu_events : (runs (.mtuReleasePoint f0) (sRel 7) (fun t => (t.fe f0).mtu = none && (vget (t.fe f0).tiles 0).tag = .empty &&
      (vget (t.fe f0).tiles 1).hold = .count 2 && (t.fe f0).mtuOut.map (·.start) = [5]) &&
    runs (.mtuReleasePoint f0) (sRel 6) (fun t => (t.fe f0).mtu = some op1) &&
    runs (.mtuResult f0) (sMtuOut 17) (fun t => vget (t.fe f0).tiles 2 = { tag := .full, tile := { header := 1, payload := [2] } } && (t.fe f0).mtuOut = [])) =
    true := by decide +kernel

/-! ### Fabric events (10 R199-R210, 05 R113, 08 R165, 13 R277-R283, 11 R226-R240) -/

/-- FE 0 of the residency has plane 0 as given. -/
def sFab (p : Plane) (x : Residency := res0) : State :=
  owned { ({} : State) with fes := [(f0, { planes := vset (.replicate 6 {}) 0 p })], tlb := tlb0 } x
/-- `PIN p2` to e3; a block that reads port 2 and writes port 1, and beside it block 1 of a kind. -/
def wPin : BitVec 32 := 0x01#7 ++ 2#3 ++ 0#4 ++ 0#9 ++ 0x183#9
def fires (ts : List Token) (kind : Nat) (free : Nat := 1) : Plane :=
  { blocks := vset (vset (.replicate 8 none) 0 (some { header := 0x402, words := [wPin, 0x14000000] })) 1
      (if kind = 0 then none else some { header := BitVec.ofNat 32 (kind * 2 ^ 24), words := [0x14000000] })
    inp := vset (.replicate 8 {}) 2 { fifo := ts }, outp := vset (.replicate 8 {}) 1 { free } }
def common (i : State) : Bool :=
  let p := i.plane f0 0
  decide ((i.fe f0).active = 0) && decide ((i.fe f0).firing = none) && quiet i && !p.isSeam && !p.drained && decide (p.unionIn = [2]) && decide (p.unionOut = [1])
def hk (i : State) : Option (BitVec 3) := (vget (i.plane f0 0).inp 2).fifo.head?.map (·.kind)
theorem witness_firing_starts : ∃ i, (sFab (fires [tk 9] 0)).decides f0 = some i ∧ (common i && decide (hk i = some 0) &&
    (vget (i.plane f0 0).blocks (i.plane f0 0).sel).any fun b => i.consumes f0 0 b && i.produces f0 0 b) = true := some_and (by decide +kernel)
theorem witness_drains : (∃ i, (sFab (fires [tk 0 5] 2)).decides f0 = some i ∧ (common i && decide (hk i = some 5) &&
      ((i.plane f0 0).blockOfKind 2).any fun b => b.1 = 1 && i.produces f0 0 b.2) = true) ∧
    ∃ i, (sFab (fires [tk 0 5] 0)).decides f0 = some i ∧ (common i && decide (hk i = some 5) && decide ((i.plane f0 0).blockOfKind 2 = none) &&
      decide (0 < (vget (i.plane f0 0).outp 1).free)) = true := ⟨some_and (by decide +kernel), some_and (by decide +kernel)⟩
theorem witness_cuts : (∃ i, (sFab (fires [tk 3 6] 3)).decides f0 = some i ∧ (common i && decide (hk i = some 6) && !(i.plane f0 0).debugMark &&
      decide ((i.fe f0).port = []) && ((i.plane f0 0).blockOfKind 3).any fun b => b.1 = 1 && i.produces f0 0 b.2) = true) ∧
    ∃ i, (sFab (fires [tk 3 6] 0)).decides f0 = some i ∧ (common i && decide (hk i = some 6) && decide ((i.plane f0 0).blockOfKind 3 = none) &&
      decide (0 < (vget (i.plane f0 0).outp 1).free)) = true := ⟨some_and (by decide +kernel), some_and (by decide +kernel)⟩
theorem test_firing_starts : (runs (.firingStart f0) (sFab (fires [tk 9] 0)) (fun t => ((t.fe f0).firing.map fun g => (g.block, g.kind)) = some (0, .normal)) &&
    runs (.firingStart f0) (sFab (fires [] 0)) (fun t => (t.fe f0).firing = none) &&
    runs (.planeDrain f0) (sFab (fires [tk 0 5] 2)) (fun t => ((t.fe f0).firing.map fun g => (g.block, g.kind)) = some (1, .drain)) &&
    runs (.planeDrain f0) (sFab (fires [tk 0 5] 0)) (fun t => (t.plane f0 0).drained && (vget (t.plane f0 0).outp 1).reg.map (·.kind) = [5] &&
      (vget (t.plane f0 0).inp 2).fifo = []) &&
    runs (.cutTake f0) (sFab (fires [tk 3 6] 0)) (fun t => (t.fe f0).cutTaken = some (3, false) && (vget (t.plane f0 0).outp 1).reg.map (·.kind) = [6])) =
    true := by decide +kernel
def sHead (k : BitVec 3) : State := sFab { inp := vset (.replicate 8 {}) 2 { fifo := [tk 0 k], resident := some (tk 9, 0) } }
theorem witness_heads : (sHead 1).front.dbg.frozen = false ∧ ((sHead 1).fe f0).active = 0 ∧ ((sHead 1).fe f0).firing = none ∧ (sHead 1).unobserved ∧
    ((sHead 1).fe f0).holdsFor 2 = false ∧ (vget ((sHead 1).plane f0 0).inp 2).resident = some (tk 9, 0) ∧
    (vget ((sHead 1).plane f0 0).inp 2).fifo = [tk 0 1] ∧ (2 : BitVec 3) ∉ [0, 1, 6] :=
  ⟨by decide +kernel, by decide +kernel, by decide +kernel, unobserved_of (by decide +kernel), by decide +kernel⟩
theorem test_heads : (runs (.portHeadToken f0 2) (sHead 1) (fun t => (vget (t.plane f0 0).inp 2).fifo = [] && (vget (t.plane f0 0).inp 2).resident = some (tk 9, 0)) &&
    runs (.portHeadToken f0 2) (sHead 2) (fun t => (vget (t.plane f0 0).inp 2).fifo = [tk 0 2] && (vget (t.plane f0 0).inp 2).resident = none)) =
    true := by decide +kernel
def sLateNet : State := sFab {} { res0 with edges := [{ edge0 with netq := [{ tk 9 with late := true }] }] }
def sNet (c : BitVec 32 := 0) : State := sFab {} { res0 with edges := [{ edge0 with cdecl := c, netq := [tk 9, tk 8] }] }
theorem witness_net_hop : sNet.portPlane r0 f0 = 0 ∧ (((sNet.res r0).edges.find? fun y => decide (y.key = 0)).any fun e =>
    e.netq = [tk 9, tk 8] && e.dst = f0 && e.dstp = 2) = true ∧ sNet.portRoom f0 0 2 (tk 9) = true ∧ sNet.planeOwner f0 0 = some r0 ∧
    sNet.spliceWaits r0 f0 = false ∧ (sNet.fe f0).beneath = none := by decide +kernel
/-- A tile edge's port substitutes a VOID header for a bad one and counts it (02 R57). -/
theorem test_framed : runs (.tokenHop (.net r0 0)) (sNet 0x80015) (fun t => (vget (t.plane f0 0).inp 2).fifo.map (fun w => hdrVoid w.data) = [true] &&
    (vget (t.plane f0 0).inp 2).frame.isSome && (t.fe f0).voidPackets = 1) = true := by decide +kernel
/-- A token leaves box (0, 0) eastward on track 0; at box (0, 1) port 2 selects track 0 of side W. -/
def y0 : LatchKey := ⟨0, 0, 0, .e, 0, false⟩
def sLat : State := { sFab {} with latches := [(y0, { tk 9 with sf := true })], routes := [((0, 0, 1, 0), BitVec.ofNat 512 (49 * 2 ^ 398))] }
theorem witness_latch_hop : mapFind sLat.latches y0 = some { tk 9 with sf := true } ∧ sLat.boxOwner 0 0 0 false = some (r0, res0) ∧
    sLat.boxOwner 0 0 0 true = none ∧ boxAway 0 0 (sideNum .e) (trackLength 0) = some (0, 1) ∧ res0.covers 0 1 = true ∧
    feAt 0 0 1 = some ⟨0, 0, 1⟩ ∧ sLat.boxPlane 0 0 1 false res0 = 0 ∧
    (trackDests (mapGet 0 sLat.routes (0, 0, 1, 0)) true 3 0).ports = [2] ∧ (trackDests (mapGet 0 sLat.routes (0, 0, 1, 0)) true 3 0).tracks = [] ∧
    sLat.portRoom ⟨0, 0, 1⟩ 0 2 { tk 9 with sf := true } = true := by decide +kernel
/-- An edge from port 1 of FE 0 to port 0 of FE 1. -/
def edge1 : Edge := { edge0 with id := 1, src := f0, srcp := 1, dst := ⟨0, 0, 1⟩, dstp := 0 }
def sOutp : State := sFab { outp := vset (.replicate 8 {}) 1 { reg := [tk 9, tk 8] } } { res0 with edges := [edge1] }
theorem witness_out_hop : (sOutp.fe f0).beneath = none ∧ (sOutp.fe f0).switched = false ∧ (sOutp.boxOwner 0 (feRow f0) (feCol f0) false).isSome = true ∧
    (vget (sOutp.plane f0 0).outp 1).reg = [tk 9, tk 8] ∧ sOutp.edgesFrom f0 0 1 = [edge1] ∧ edge1.net = true ∧ edge1.netq.length < 15 ∧
    sOutp.loopOf f0 0 = none ∧ sOutp.stoppedFe f0 = false ∧ sOutp.stoppedPort f0 1 true = false ∧ sOutp.planeOwner f0 0 = some r0 ∧ sOutp.hasRes r0 = true := by decide +kernel
def sCred : State := sFab { inp := vset (.replicate 8 {}) 2 { owed := 2 } } { res0 with edges := [edge0] }
theorem witness_credit : (vget (sCred.plane f0 0).inp 2).owed ≠ 0 ∧ sCred.planeOwner f0 0 = some r0 ∧ sCred.edgeInto f0 0 2 = some edge0 ∧
    ((sCred.res r0).edges.filter fun y => decide (y.plane = 0 ∧ y.src = edge0.src ∧ y.srcp = 0)) = [edge0] := by decide +kernel
theorem witness_late_hop : sLateNet.portPlane r0 f0 = 0 ∧ (((sLateNet.res r0).edges.find? fun y => decide (y.key = 0)).any fun e =>
    e.netq = [{ tk 9 with late := true }] && e.dst = f0) = true ∧ sLateNet.portRoom f0 0 2 { tk 9 with late := true } = true := by decide +kernel
theorem test_late_hop : runs (.tokenHop (.net r0 0)) sLateNet (fun t => (vget (t.plane f0 0).inp 2).fifo = [] &&
    (vget (t.plane f0 0).inp 2).owed = 1 && (t.fe f0).voidPackets = 1 && vget (t.die 0).counters 5 = 1) = true := by decide +kernel
theorem test_hops : (runs (.tokenHop (.net r0 0)) sNet (fun t => (vget (t.plane f0 0).inp 2).fifo = [tk 9] && (t.res r0).edges.map (·.netq) = [[tk 8]]) &&
    runs (.tokenHop (.latch y0)) sLat (fun t => (vget (t.plane ⟨0, 0, 1⟩ 0).inp 2).fifo = [tk 9] && mapFind t.latches y0 = none) &&
    runs (.tokenHop (.outReg f0 1)) sOutp (fun t => (vget (t.plane f0 0).outp 1).reg = [tk 8] && (t.res r0).edges.map (·.netq) = [[tk 9]]) &&
    runs (.creditReturn f0 2) sCred (fun t => (vget (t.plane f0 0).inp 2).owed = 1 && (vget (t.plane ⟨0, 0, 1⟩ 0).outp 0).free = 1)) = true := by
  decide +kernel

/-- A pattern of two 64-byte tokens from 0x40 (13 Table 13-2), and an empty one; a command that binds port 1 of FE 2. -/
def pat0 : Line := BitVec.ofNat 512 (0x40 + 2 * 2 ^ 64 + 2 ^ 96 + 2 ^ 128 + 2 ^ 160 + 0x40 * 2 ^ 192 + 4 * 2 ^ 448)
def cmdB : EngineCmd := { cmd0 with va := BitVec.ofNat 64 (2 + 1 * 2 ^ 11) }
def sBs : State :=
  let s := sFab {}
  { s with threads := [(q0, { thr0 with role := .control r0, se := { waiting := [cmdB] }, pat := vset (.replicate 16 0) 0 pat0 })] }
theorem witness_binding_start : (sBs.thr q0).se.waiting = cmdB :: [] ∧ sBs.queueReady q0 .se = true ∧ (sBs.thr q0).sbuf = [] ∧ cmdB.res = some r0 ∧
    sBs.hasRes r0 = true ∧ sBs.selector r0 cmdB.va true = some (.port ⟨0, 0, 2⟩ 1) ∧ sBs.endBusy r0 true (.port ⟨0, 0, 2⟩ 1) = false ∧
    sBs.contextFree q0 = true := by decide +kernel
theorem test_binding_start : runs (.streamBindingStart q0) sBs (fun t => (t.thr q0).se.running = [cmdB] && (t.thr q0).se.waiting = [] &&
    (t.res r0).binds.map (fun b => (b.1, b.2.dest, b.2.pat)) = [(0, .port ⟨0, 0, 2⟩ 1, pat0)]) = true := by decide +kernel
def sBind (b : Binding) (p : Plane := {}) (m : Memory := []) : State := { sFab p { res0 with binds := [(4, b)] } with mem := m }
def bIn : Binding := { bind0 with pat := pat0 }
def tokR (d : Nat) : ReadTok := { tok := tk d, ctr := .replicate 4 0 }
theorem witness_deliver : (∀ b ∈ [{ bIn with buf := [tokR 9] }, { bIn with exhausted := true }], (mapFind ((sBind b).res r0).binds 4 = some b) ∧
      b.kind = .input ∧ b.dest = .port f0 0 ∧ b.owner.tid ≠ 8 ∧ (sBind b).engineLive b.owner = true ∧ (sBind b).streamsMove r0 f0 = true ∧ (sBind b).portPlane r0 f0 = 0 ∧
      (sBind b).inUsed f0 0 0 < 8 ∧ (vget ((sBind b).plane f0 0).inp 0).admitted < (sBind b).rateOf ((sBind b).res r0) ∧
      (sBind b).edgeInto f0 0 0 = none ∧ ((sBind b).res r0).preempt = none ∧ b.markDue = none) ∧
    (tokR 9).void = false ∧ ({ bIn with exhausted := true } : Binding).buf = [] ∧ bIn.stopping = false ∧ bIn.spill = [] ∧ bIn.endDue = none := by decide +kernel
theorem witness_read : (mapFind ((sBind bIn).res r0).binds 4 = some bIn ∧ (sBind bIn).engineLive bIn.owner = true ∧ bIn.exhausted = false ∧
      bIn.early = [] ∧ bIn.spill = [] ∧ bIn.stopping = false ∧ bIn.endDue = none ∧ (bIn.buf.filter fun w => decide (w.tok.kind = 0)).length < patPfw bIn.pat ∧
      patFmt bIn.pat ≠ 12 ∧ patEsz bIn.pat = 4 ∧ vget bIn.ctr 0 < patCnt bIn.pat 0) ∧
    (sBind bIn).plainAt (bindAgent r0 4 bIn bIn.ctr 0) (patAddr bIn.pat bIn.ctr) 64 (leafAt 0x40) := ⟨by decide +kernel, plain_of (by decide +kernel)⟩
theorem test_stream_deliver : (runs (.streamDeliver r0 4 .deliver) (sBind { bIn with buf := [tokR 9] }) (fun t => (vget (t.plane f0 0).inp 0).fifo = [tk 9] &&
      (vget (t.plane f0 0).inp 0).admitted = 1 && ((mapFind (t.res r0).binds 4).map (·.buf)) = some []) &&
    runs (.streamDeliver r0 4 .deliver) (sBind { bIn with exhausted := true }) (fun t => (vget (t.plane f0 0).inp 0).fifo.map (·.kind) = [5] && (t.res r0).binds = []) &&
    runs (.streamDeliver r0 4 .read) (sBind bIn {} (put [] 0x40 8 77)) (fun t =>
      ((mapFind (t.res r0).binds 4).map fun b => (b.buf.map (fun w => (w.tok.data, w.tok.kind)), vget b.ctr 0)) = some ([(77, 0)], 1))) = true := by
  decide +kernel
def bOut : Binding := { bIn with kind := .output, cmd := { cmd0 with op := .strmOut } }
def sTake (w : Token) : State := sBind bOut { outp := vset (.replicate 8 {}) 0 { reg := [w], free := 1 } }
theorem witness_take : (∀ w ∈ [tk 9, tk 0 5], mapFind ((sTake w).res r0).binds 4 = some bOut ∧ (sTake w).streamsMove r0 f0 = true ∧
      (sTake w).engineLive bOut.owner = true ∧ (sTake w).stoppedFe f0 = false ∧ (sTake w).stoppedPort f0 0 true = false ∧
      (vget ((sTake w).plane f0 0).outp 0).reg = w :: []) ∧ (bOut.list = [] ∧ bOut.discarding = false ∧ bOut.stopping = false ∧
      bOut.exhausted = false ∧ bOut.eosDone = false ∧ bOut.paused = false) ∧
    ∃ l, (sTake (tk 9)).takeStores (bindAgent r0 4 bOut bOut.ctr 0) pat0 (takenBytes pat0 bOut.ctr 9) = .ok l ∧ decide (l.length = 1) = true :=
  ⟨by decide +kernel, by decide, ok_and (by decide +kernel)⟩
theorem test_stream_take : (runs (.streamTake r0 4) (sTake (tk 9)) (fun t => vget (t.plane f0 0).outp 0 = { free := 2 } &&
      ((mapFind (t.res r0).binds 4).map fun b => (b.stores.map (·.va), vget b.ctr 0)) = some ([0x40], 1)) &&
    runs (.streamTake r0 4) (sTake (tk 0 5)) (fun t => ((mapFind (t.res r0).binds 4).map (·.eosDone)) = some true)) = true := by decide +kernel
def cmdS : EngineCmd := { cmd0 with op := .spat, va := 0x80, pat := 3 }
def sSpat (c : EngineCmd) (run : Bool := false) : State :=
  { sFab {} with mem := put (put [] 0x80 8 0x40) 0xB8 8 4,
                 threads := [(q0, { thr0 with role := .control r0, se := if run then { running := [c] } else { waiting := [c] } })] }
theorem witness_spat : ((sSpat cmdS).thr q0).se = { waiting := cmdS :: [], running := [] } ∧ (sSpat cmdS).queueReady q0 .se = true ∧
    ((sSpat cmdS).thr q0).sbuf = [] ∧ (sSpat cmdS).plainAt ((sSpat cmdS).engAgent q0 .se cmdS) 0x80 64 (leafAt 0x80) ∧
    patBad ((sSpat cmdS).line 2) = false := ⟨by decide +kernel, by decide +kernel, by decide +kernel, plain_of (by decide +kernel), by decide +kernel⟩
theorem witness_push : unitQueue .se ((sSpat { cmd0 with push := 1, done := true } true).thr q0) = { waiting := [], running := [{ cmd0 with push := 1, done := true }] } ∧
    fifoIdx (unitNum .se) (1 - 1) < 12 ∧ (sSpat { cmd0 with push := 1, done := true } true).engineLive q0 = true ∧
    vget ((sSpat { cmd0 with push := 1, done := true } true).thr q0).fifo (fifoIdx (unitNum .se) 0) < 16 ∧
    vget ((sSpat { cmd0 with push := 1, done := true } true).thr q0).returned (fifoIdx (unitNum .se) 0) = 0 := by decide +kernel
theorem test_engine_complete : (runs (.engineComplete q0 .se 0) (sSpat cmdS) (fun t => fldN (vget (t.thr q0).pat 3) 0 64 = 0x40 && (t.thr q0).se = {}) &&
    runs (.engineComplete q0 .se 0) (sSpat { cmd0 with push := 1, done := true } true) (fun t => vget (t.thr q0).fifo (fifoIdx 1 0) = 1 && (t.thr q0).se = {})) =
    true := by decide +kernel
/-- A residency of FE 0's page and one spliced onto it, whose port has admitted 5 too. -/
def sRate (c : Nat) : State :=
  let s := sFab { inp := vset (.replicate 8 {}) 2 { admitted := 5 } } res0
  { s with cyc := c, dies := dies0 { res := [(0, { res0 with successor := some 1 }), (1, { res0 with plane := 1, predecessor := some 0 })], pages := pages0 } }
theorem witness_rate : (sRate 1024).front.dbg.frozen = false ∧ ((sRate 1024).res r0).windowFrom + 1024 ≤ (sRate 1024).cyc ∧
    (∀ q ∈ (sRate 1024).pitchResidencies r0, (sRate 1024).hasRes q = true) ∧ (sRate 1024).pitchResidencies r0 = [r0, ⟨0, 1⟩] ∧
    f0 ∈ pitchFes r0 ((sRate 1024).res r0) ∧ ((sRate 1024).res r0).usesPlane 0 = true := by decide +kernel
theorem test_rate : (runs (.rateWindow r0) (sRate 1024) (fun t => (vget (t.plane f0 0).inp 2).admitted = 0 && (t.res r0).windowFrom = 1024 &&
      (t.res ⟨0, 1⟩).windowFrom = 1024) &&
    runs (.rateWindow r0) (sRate 1023) (fun t => (vget (t.plane f0 0).inp 2).admitted = 5)) = true := by decide +kernel

/-- The seam of rotation 1 at FE 0: state comes back on port 1, goes out on port 4, chunks on port 5, queue port 3. -/
def loopOfSlots (z : Slot) : Rotation := { rotOf z with back := 1, fwd := 4, px := 5, pk := 3 }
def backTok : Token := { tk 6 with tag := 0 }
def sSeam (z : Slot) (back : List Token := []) (pk : List Token := []) (ns : List Notice := []) : State :=
  sFab { inp := vset (vset (.replicate 8 {}) 1 { fifo := back }) 3 { fifo := pk }, outp := .replicate 8 { free := 2 } }
    { res0 with rots := [{ loopOfSlots z with notices := ns }] }
def held0 : Slot := { status := .held, park := [7], queue := [(11, none)] }
def flying0 : Slot := { status := .live, inflight := true, park := [7], chunkLen := 1 }
theorem witness_rotation_steps : (∀ z ∈ [({} : Slot), held0, { held0 with queue := [] }, flying0], (sSeam z [backTok]).rot r0 1 = some (loopOfSlots z) ∧
      (sSeam z [backTok]).stoppedFe f0 = false ∧ (loopOfSlots z).slots.length = 2 ∧ (sSeam z [backTok]).seamRuns r0 (loopOfSlots z) = true ∧
      (sSeam z [backTok]).entryOpen r0 (loopOfSlots z) = true ∧ (loopOfSlots z).phase = 0 ∧ (sSeam z [backTok]).seamOf f0 = some (r0, 1) ∧
      (vget ((sSeam z [backTok]).plane f0 0).inp 2).fifo = []) ∧ (sSeam {}).unobserved ∧ 1 + 1 ≤ 8 ∧ 4 + 1 ≤ 8 ∧ 5 < 8 ∧ (5 < 4 ∨ 4 + 1 ≤ 5) ∧
    1 ≤ (vget ((sSeam held0).plane f0 0).outp 4).free ∧ 1 ≤ (vget ((sSeam held0).plane f0 0).outp 5).free ∧
    (sSeam flying0 [backTok]).stoppedPort f0 1 false = false ∧ (vget ((sSeam flying0 [backTok]).plane f0 0).inp 1).fifo.head? = some backTok ∧
    backTok.kind = 0 ∧ backTok.sf = false ∧ flying0.notice = none :=
  ⟨by decide +kernel, unobserved_of (by decide +kernel), by decide +kernel⟩
theorem test_rotation_steps : (runs (.rotStep r0 1) (sSeam {}) (fun t => ((t.rot r0 1).map (·.p)) = some 1) &&
    runs (.rotStep r0 1) (sSeam held0) (fun t => (vget (t.plane f0 0).outp 4).reg.map (fun w => (w.data, w.tag)) = [(7, 0)] &&
      (vget (t.plane f0 0).outp 5).reg.map (fun w => (w.data, w.tag)) = [(11, 0)] &&
      ((t.rot r0 1).any fun q => (q.slot 0).status = .live && (q.slot 0).inflight && (q.slot 0).queue.isEmpty)) &&
    runs (.rotStep r0 1) (sSeam { held0 with queue := [] }) (fun t => ((t.rot r0 1).map fun q => (q.slot 0).status) = some .held) &&
    runs (.seam 1 2 5 4) { sSeam flying0 [backTok] with curFe := f0 } (fun t => ((t.rot r0 1).map fun q => ((q.slot 0).park, (q.slot 0).chunks, (q.slot 0).status, q.p)) =
      some ([6], 1, .held, 1) && (vget (t.plane f0 0).inp 1).fifo = [])) = true := by decide +kernel
def note0 : Notice := { phase := 0, code := .arithOvf, fe := 3, block := 0, slot := 0, ordinal := 0 }
theorem witness_pk_and_notices : (vget ((sSeam held0 [] [tk 9]).plane f0 0).inp 3).fifo = [tk 9] ∧ ((sSeam held0 [] [tk 9]).fe f0).active = 0 ∧
    (sSeam held0 [] [tk 9]).streamsMove r0 f0 = true ∧ (sSeam held0 [] [tk 9]).stoppedPort f0 3 false = false ∧ held0.status ≠ .empty ∧
    held0.queue.length < 2 * 1 ∧ (sSeam held0 [] [tk 9]).chunkStore f0 < 256 ∧
    ((sSeam flying0 [] [] [note0]).rot r0 1).map (·.notices) = some [note0] ∧ flying0.inflight = true ∧ held0.inflight = false := by decide +kernel
theorem test_pk_and_notices : (runs (.seamPkToken r0 1) (sSeam held0 [] [tk 9]) (fun t => ((t.rot r0 1).map fun q => (q.slot 0).queue) = some [(11, none), (9, none)] &&
      (vget (t.plane f0 0).inp 3).fifo = []) &&
    runs (.slotFaultNotice r0 1) (sSeam flying0 [] [] [note0]) (fun t => ((t.rot r0 1).map fun q => ((q.slot 0).notice, q.notices)) = some (some note0, [])) &&
    runs (.slotFaultNotice r0 1) (sSeam held0 [] [] [note0]) (fun t => ((t.rot r0 1).map fun q => ((q.slot 0).notice, q.notices)) = some (none, []))) = true := by
  decide +kernel

/-! ### A residency's life (06 R128-R142, 08 R158-R163, 18 R374, R375) -/

/-- The residency waits to switch to plane 2, asked by thread 1; FE 0 has a token and a resident in plane 0. -/
def sSwi (w : Switch) (c : Nat) : State := { sFab { inp := vset (.replicate 8 {}) 2 { fifo := [tk 9], resident := some (tk 8, 0) } }
  { res0 with switch := some w } with cyc := c }
/-- An access of plane 0 has not performed. -/
def sSwiP (w : Switch) : State := (sSwi w 7).modFe f0 fun y =>
  { y with port := [{ id := 1, plane := 0, block := 0, slot := 0, ordinal := 0, own := 0, pred := 0, succ := 0, kind := .store 2 0, stage := .issued }] }
theorem witness_switch_waits : (sSwiP { target := 2 }).pitchStored r0 = false ∧ (sSwiP { target := 2, ready := some 3 }).pitchStored r0 = false ∧
    (∀ h ∈ (sSwiP { target := 2 }).threadsOf r0, ((sSwiP { target := 2 }).thr h).sbuf = []) ∧
    (sSwi { target := 2, ready := some 4 } 7).cyc < 4 + 4 := by decide +kernel
theorem witness_plane_switch : ((sSwi { target := 2, asker := some q0 } 7).front.dbg.frozen = false ∧ (sSwi { target := 2, asker := some q0 } 7).hasRes r0 = true ∧
      (sSwi { target := 2, asker := some q0 } 7).switchReady r0 = true ∧ (sSwi { target := 2, asker := some q0 } 7).pitchStored r0 = true ∧
      (sSwi { target := 2, ready := some 3 } 7).pitchStored r0 = true ∧ ((sSwi { target := 2 } 7).res r0).switch = some { target := 2 } ∧
      (∀ h ∈ (sSwi { target := 2, ready := some 3 } 7).threadsOf r0, ((sSwi { target := 2, ready := some 3 } 7).thr h).sbuf = []) ∧
      f0 ∈ pitchFes r0 ((sSwi { target := 2, ready := some 3 } 7).res r0) ∧
      (pitchFes r0 ((sSwi { target := 2, ready := some 3 } 7).res r0)).Nodup ∧ ((sSwi { target := 2 } 7).fe f0).beneath = none) ∧
    (sSwi { target := 2, ready := some 3 } 7).unobserved := ⟨by decide +kernel, unobserved_of (by decide +kernel)⟩
theorem test_plane_switch : (runs (.planeSwitch r0) (sSwi { target := 2, asker := some q0 } 7) (fun t => ((t.res r0).switch.map (·.ready)) = some (some 7) && (t.thr q0).stage = 2) &&
    runs (.planeSwitch r0) (sSwi { target := 2, ready := some 3 } 7) (fun t => (t.fe f0).active = 2 && (t.res r0).plane = 2 && (t.res r0).switch = none &&
      (t.res r0).phase.seq = 1 && (vget (t.plane f0 2).inp 2).fifo = [tk 9] && (vget (t.plane f0 2).inp 2).resident = none) &&
    runs (.planeSwitch r0) (sSwiP { target := 2, ready := some 3 }) (fun t => (t.fe f0).active = 0) &&
    runs (.planeSwitch r0) (sSwi { target := 2, ready := some 4 } 7) (fun t => (t.fe f0).active = 0)) = true := by decide +kernel
def sSeq : State := sFab {} { res0 with ring := [(4, 23), (1, 0)], ringAt := 0, ringRun := true, drains := [5, 23] }
theorem witness_seq_switch : (sSeq.res r0).ringRun = true ∧ (sSeq.res r0).switch = none ∧ (sSeq.res r0).freed = false ∧
    ((sSeq.res r0).ring.getD 0 (0, 0)).2 ∈ (sSeq.res r0).drains := by decide +kernel
theorem test_seq_switch : runs (.seqSwitch r0) sSeq (fun t => (t.res r0).drains = [5] && ((t.res r0).switch.map fun w => (w.target, w.ring)) = some (1, some 1)) =
    true := by decide +kernel
def succ0 : Residency := { res0 with predecessor := some 0, plane := 2, start := 2, image := { planes := [2] } }
/-- FE 0 is done; port 2 of its plane has admitted 5 tokens, and a tile slot is FULL. -/
def sSpl (fr : Nat) : State :=
  let s : State := { sFab { drained := true, inp := vset (.replicate 8 {}) 2 { admitted := 5 } } with
    dies := dies0 { res := [(0, { res0 with successor := some 1, freeze := fr }), (1, succ0)], pages := pages0 } }
  s.modFe f0 fun x => { x with tiles := vset x.tiles 3 full0, voidPackets := 4 }
theorem witness_splice_switch : (((sSpl 0).die 0).res.find? fun p => p.2.pages.contains f0.page && p.2.successor.isSome).map (·.1) = some 0 ∧
    ((sSpl 0).fe f0).switched = false ∧ ((sSpl 0).res ⟨0, 1⟩).state = .armed ∧ ((sSpl 0).res r0).freeze = 0 ∧ (sSpl 0).spliceReady r0 f0 = true ∧ quiet (sSpl 0) = true ∧
    ((sSpl 0).fe f0).beneath = none ∧ ((sSpl 0).res ⟨0, 1⟩).plane < 6 := by decide +kernel
theorem test_splice_switch : (runs (.spliceFeSwitch f0) (sSpl 0) (fun t => (t.fe f0).active = 2 && (t.fe f0).switched && (vget (t.fe f0).tiles 3).tag = .empty &&
      (t.fe f0).voidPackets = 0 && (vget (t.plane f0 2).inp 2).admitted = 5) &&
    runs (.spliceFeSwitch f0) (sSpl 1) (fun t => (t.fe f0).active = 0)) = true := by decide +kernel

/-- The ring's entry, at 0x1000, is `ws`; its tag is 5 and it asks for vector 0, which function 1 has enabled. -/
def sHcq (op : Nat) (ws : List Nat) (m : Memory := []) (s : State := {}) : State :=
  { s with booted := true, mem := words m 0x1000 ((op + 0x500010000) :: ws), front := { s.front with hcqBase := 0x1000, hcqProd := 1, msixOn := #v[false, true] } }
def atCmd (s : State) (op : Nat) : Bool := decide (s.hcqEntry = some (0x1000, s.line 64)) && decide (cmdOp (s.line 64) = op) && s.mem.wf
theorem cmd_at {s : State} {op : Nat} (h : atCmd s op = true) : s.cmdAt op 0x1000 (s.line 64) := by
  simp only [atCmd, Bool.and_eq_true, decide_eq_true_eq] at h
  exact ⟨h.1.1, h.1.2, by decide, h.2⟩
def ans (i : Instr) (s : State) (status : Nat) (P : State → Bool := fun _ => true) : Bool := runs i s fun t =>
  decide (leNat (t.mem.readBytes 0x1038 8) = status + 0x500000000) && decide (t.front.hcqCons = 1) && decide (t.front.irqs.getLast? = some (1, 0)) && P t
/-- A record as the CP queues it: image, one page, priority 2, power class `p`, ASID 7. -/
def rl (img p age : Nat) : Line := BitVec.ofNat 512 (img + (0x109 + p * 2 ^ 15) * 2 ^ 64 + 7 * 2 ^ 88 + age * 2 ^ 480 + 2 ^ 496)
def qr (l : Line) : QRec := { record := l, asid := 7, since := some 0 }
def dieQ (qs : List QRec) : Die := { queues := vset (.replicate 16 []) 8 qs }
def sHl (qs : List QRec) : State := sHcq 1 [0x200] (mRec 0x400 0) { ({} : State) with dies := dies0 (dieQ qs) }
theorem witness_host_launch : (sHl []).front.hcqHeld = none ∧ (∀ n ∈ [0, 64], atCmd (sHl (List.replicate n (qr 0))) 1 = true ∧ physOk 0x200 64 = true ∧
    hostRecBad (lineOf ((sHl (List.replicate n (qr 0))).physRead 0x200 64)) = false ∧
    targetDie (lineOf ((sHl (List.replicate n (qr 0))).physRead 0x200 64)) (sHl (List.replicate n (qr 0))).freestDie = 0 ∧
    ((sHl (List.replicate n (qr 0))).die 0).live = true ∧ ((sHl (List.replicate n (qr 0))).die 0).everFits 1 1 = true) ∧
    ((sHl []).queued 0 8).length < 64 ∧ 64 ≤ ((sHl (List.replicate 64 (qr 0))).queued 0 8).length := by decide +kernel
theorem test_host_launch : (ans .hostLaunch (sHl []) 0 (fun t => (t.queued 0 8).map (fun q => (fldN q.1 0 64, q.2.2.1)) = [(0x400, 0x200)]) &&
    runs .hostLaunch (sHl (List.replicate 64 (qr 0))) (fun t => t.front.hcqCons = 0 && (t.front.hcqHeld.map (·.1)) = some 0 && (t.queued 0 8).length = 64)) = true := by decide +kernel
def sPl (l : Line) : State := { ctl thr0 mImg with dies := dies0 (dieQ [qr l]), cyc := 3001 }
/-- The heads of the die's queues have acted, and its reservation stands. -/
def iPl (l : Line) : State := ((sPl l).captureHeads 0).modDie 0 Die.reserve
def toLoad (l : Line) : State := ((iPl l).modDie 0 fun d => d.dropRec 8 0).modDie 0 fun d =>
  { d with lastPlace := some 3001, lastQueue := vset d.lastQueue 2 0 }
def placeable (l : Line) : Bool := let x := (iPl l).die 0
  ((sPl l).die 0).live && !((sPl l).die 0).cpLost && x.failedRec.isNone && x.lastPlace.isNone && x.savedFits.isNone &&
  decide (x.choose 3001 = some ((8, 0), (0, 0))) && decide (x.freeIdx = some 0) && decide (x.recAt (8, 0) = qr l)
theorem witness_place : (placeable (rl 0x400 0 0) && placeable (rl 0x400 1 0)) = true := by decide +kernel
theorem witness_headers : (iPl (rl 0x400 1 0)).headerCheck 0 (rl 0x400 1 0) 7 = 1 ∧ (iPl (rl 0x400 0 0)).headerCheck 0 (rl 0x400 0 0) 7 = 0 := by decide +kernel
theorem witness_cp_load : ∃ g, (toLoad (rl 0x400 0 0)).cpLoad 0 (rl 0x400 0 0) 7 1 1 = .ok g ∧ (!g.1.urgent) = true :=
  ok_and (P := fun (g : Image × Patches) => !g.1.urgent) (by decide +kernel)
theorem test_place : (runs (.place 0) (sPl (rl 0x400 0 0)) (fun t => (t.res r0).state = .loaded && (t.res r0).asid = 7 && t.queued 0 8 = [] &&
      (vget (t.die 0).pages 0).state = .held && (vget (t.die 0).pages 1).state = .free) &&
    runs (.place 0) (sPl (rl 0x400 1 0)) (fun t => !t.hasRes r0 && t.queued 0 8 = [])) = true := by decide +kernel
theorem witness_aged : ((sPl (rl 0x400 0 1)).die 0).recAt (8, 0) = qr (rl 0x400 0 1) ∧ (qr (rl 0x400 0 1)).eligible = true ∧
    (qr (rl 0x400 0 1)).old 3001 = true ∧ ((sPl (rl 0x400 0 1)).die 0).reservation = none ∧ ((sPl (rl 0x400 0 1)).die 0).agedRecs = [] ∧
    firstOrigin 1 1 ((sPl (rl 0x400 0 1)).die 0).pageLive = some (0, 0) := by decide +kernel
theorem test_aged : (runs (.recordAged 0 8 0) (sPl (rl 0x400 0 1)) (fun t => (vget (t.die 0).queues 8).map (·.aged) = [true] && (vget (t.die 0).pages 0).rsv &&
      !(vget (t.die 0).pages 1).rsv) &&
    runs (.recordAged 0 8 0) { sPl (rl 0x400 0 1) with cyc := 3000 } (fun t => (vget (t.die 0).queues 8).map (·.aged) = [false])) = true := by decide +kernel
def lreq (k u p : Nat) : LeaveReq := { who := LeaveFor.arm ⟨0, k⟩, units := u, prio := p }
def sLv : State := { ({} : State) with front := { poolFree := 8, leaveReqs := [lreq 0 9 1, lreq 1 5 3, lreq 2 6 2] } }
theorem witness_leave : sLv.front.dbg.frozen = false ∧ sLv.leaveNext = some (lreq 2 6 2) := by decide +kernel
theorem test_leave : runs .leaveGrant sLv (fun t => t.front.poolFree = 2 && t.front.leaveReqs.map (·.granted) = [false, false, true]) = true := by decide +kernel

def sArmQ (x : Residency) : State := { sFab {} x with front := { leaveReqs := [{ lreq 0 1 2 with granted := true }] } }
def resL : Residency := { res0 with state := .loaded, thread := none, start := 3, ctlBase := 0x1000, entry := 8 }
theorem witness_arm : (sArmQ resL).hasRes r0 = true ∧ ((sArmQ resL).res r0).state = .loaded ∧ ((sArmQ resL).res r0).freed = false ∧
    ((sArmQ resL).die 0).cpLost = false ∧ (sArmQ resL).bankBusy resL.image.banks = false ∧
    ((sArmQ resL).front.leaveReqs.find? fun y => y.who = LeaveFor.arm r0) = some { lreq 0 1 2 with granted := true } ∧
    mapFind ((sArmQ resL).die 0).context 0 = none ∧ resL.predecessor = none ∧ f0 ∈ pitchFes r0 resL ∧ (pitchFes r0 resL).Nodup ∧
    ((sArmQ resL).fe f0).beneath = none ∧ ((sArmQ { resL with urgent := true }).res r0).urgent = true ∧
    ((sArmQ { resL with urgent := true, gang := .placing }).res r0).gang = .placing := by decide +kernel
theorem test_arm : (runs (.arm r0) (sArmQ resL) (fun t => (t.res r0).state = .armed && (t.res r0).threadDue && (t.fe f0).active = 3 && t.front.leaveReqs = []) &&
    runs (.arm r0) (sArmQ { resL with urgent := true }) (fun t => (t.fe f0).active = 5 && (t.fe f0).beneath = some 0 && (t.thr ⟨0, 0, 0⟩).pc = 0x1008 &&
      (t.thr ⟨0, 0, 0⟩).status = .ready && (t.thr q0).paused = some 0) &&
    runs (.arm r0) (sArmQ { resL with urgent := true, gang := .placing }) (fun t => (t.res r0).gang = .ready && (t.res r0).thread = none)) = true := by decide +kernel
def sDue : State := sFab {} { resL with state := .armed, threadDue := true, record := BitVec.ofNat 512 (6 * 2 ^ 384) }
theorem witness_thread_start : (sDue.res r0).threadDue = true ∧ (sDue.res r0).state = .armed ∧ (∀ w ∈ sDue.threadWaiters 0 0, (sDue.res r0).armSeq ≤ w.1) ∧
    sDue.freeThread 0 0 = some ⟨0, 0, 2⟩ ∧ mapFind (sDue.die 0).context 0 = none := by decide +kernel
theorem test_thread_start : runs (.threadStart r0) sDue (fun t => (t.thr ⟨0, 0, 2⟩).pc = 0x1008 && vget (t.thr ⟨0, 0, 2⟩).g 1 = 6 &&
    (t.thr ⟨0, 0, 2⟩).role = .control r0 && (t.res r0).thread = some ⟨0, 0, 2⟩ && !(t.res r0).threadDue) = true := by decide +kernel
def pk0 : Packet := { entry := 0x800, named := 5, args := vset (.replicate 6 0) 5 77, done := 0x40, asid := 9, owner := some r0 }
def sTskq : State := { ({} : State) with dies := dies0 { taskq := [(3, [pk0])] } }
theorem witness_task_start : mapGet [] (sTskq.die 0).taskq 3 = [pk0] ∧ sTskq.threadWaiters 0 3 = [] ∧ sTskq.freeThread 0 3 = some ⟨0, 3, 1⟩ := by decide +kernel
theorem test_task_start : runs (.taskStart 0 3) sTskq (fun t => (t.thr ⟨0, 3, 1⟩).pc = 0x800 && (t.thr ⟨0, 3, 1⟩).asid = 9 && vget (t.thr ⟨0, 3, 1⟩).g 1 = 5 &&
    vget (t.thr ⟨0, 3, 1⟩).g 7 = 77 && (t.thr ⟨0, 3, 1⟩).role = .task (some r0) 0x40 && mapGet [] (t.die 0).taskq 3 = []) = true := by decide +kernel
/-- A gang slice to start at 100 ns, its slack 1 µs (record bits 511-496). -/
def sGang (g : GangState) (c : Nat) : State := { sFab {} { res0 with gang := g, gangT := 100, record := rl 0x400 0 0 } with cyc := c }
def sGangU : State := sFab {} { resL with state := .armed, urgent := true, gang := .waiting }
theorem witness_gangs : ((sGang .ready 0).res r0).gang = .ready ∧ ((sGang .waiting 300).res r0).gangT ≤ (sGang .waiting 300).gclk ∧
    ((sGang .waiting 3300).res r0).gangT + recSlack ((sGang .waiting 3300).res r0).record * 1000 ≤ (sGang .waiting 3300).gclk ∧
    ((sGang .placing 0).res r0).gang = .placing ∧ ((sGang .placing 0).res r0).gangLost = false ∧ (sGang .placing 0).hasRes r0 = true ∧
    ((sGang .placing 0).res r0).freed = false ∧ ((sGang .placing 0).res r0).scrubbing = false ∧ ((sGang .placing 0).queued 0 8).length < 64 ∧
    (sGangU.res r0).gang = .waiting ∧ (sGangU.res r0).urgent = true ∧ (sGangU.res r0).gangT ≤ sGangU.gclk := by decide +kernel
/-- The default quantum is 1 ms: 20 µs after 0, the next boundary is at 1 ms. -/
theorem test_gangs : (runs (.gangAllReady r0) (sGang .ready 3) (fun t => (t.res r0).gangT = 1000000 && (t.res r0).gang = .waiting) &&
    runs (.gangStart r0) (sGang .waiting 300) (fun t => (t.res r0).gang = .running && (t.res r0).threadDue) &&
    runs (.gangStart r0) sGangU (fun t => (t.res r0).gang = .running && (t.thr ⟨0, 0, 0⟩).pc = 0x1008 && !(t.res r0).threadDue) &&
    runs (.gangStart r0) (sGang .waiting 299) (fun t => (t.res r0).gang = .waiting) &&
    runs (.gangAbandon r0) (sGang .waiting 3300) (fun t => !t.hasRes r0 && (t.queued 0 8).map (·.1) = [rl 0x400 0 0] && vget (t.die 0).counters 15 = 1 &&
      (vget (t.die 0).pages 0).state = .free) &&
    runs (.gangAbandon r0) (sGang .waiting 3299) (fun t => t.hasRes r0)) = true := by decide +kernel

/-! ### The memory system (12 R259-R271, 15 R319-R326, 21 R405) -/

/-- A level 2 entry to the table at 0x20000, whose entry 0 maps the block at 0x20000000 for reading (12 R263). -/
def mPt : Memory := put (put [] 0x10000 8 0x20001) 0x20000 8 0x20000007
def sWalk : State := { ({} : State) with roots := [(7, 0x10000)], mem := mPt }
theorem witness_walk : (∃ w, sWalk.walk 7 0x40 = .ok w ∧
    (decide (w.leaf.pa = 0x20000040 ∧ w.leaf.r = true ∧ w.leaf.w = false) && (sWalk.walked (fillUnit 0) 7 w.made).1) = true) :=
  ok_and (P := fun w : Walk => decide (w.leaf.pa = 0x20000040 ∧ w.leaf.r = true ∧ w.leaf.w = false) && (sWalk.walked (fillUnit 0) 7 w.made).1)
    (by decide +kernel)
theorem test_walk : runs (.pageWalk 0 7 0x40) sWalk (fun t => t.tlb.map (fun e => (e.asid, e.block, e.leaf.pa)) = [(7, true, 0x20000000)]) = true := by
  decide +kernel
/-- Line 0 is at home in slice 0 of die 0; lines of the form 8193 k share its set (04 R105, 12 R260). -/
def sFull : State := { ({} : State) with l2 := [((0, 0), (List.range 16).map fun k => { line := 8193 * (k + 1), pins := 1 })] }
/-- A tile of die `die` has the translation of the first 512 MiB; with `p`, of peer 3's memory. -/
def sFil (die : Nat) (p : Bool := false) : State := { ({} : State) with
  mem := [(0, 5)], front := { peers := vset (.replicate 64 {}) 3 { up := true, enrolled := true, incarnation := 6 } }
  tlb := [{ die, tile := 0, asid := 7, vpn := 0, block := true, leaf := { leaf0 with p, peer := if p then 3 else 0 }, made := [], incarnation := 6 }] }
def sFul : State := { sFil 0 with l2 := sFull.l2 }
/-- The same with lines that are not pinned, and that peers may hold. -/
def sVic : State := { sFil 0 with l2 := [((0, 0), (List.range 16).map fun k => { line := 8193 * (k + 1), peerBit := true })] }
/-- A fill has asked peer 3 for line 0; with `d`, the peer has answered with it. -/
def sPeerFill (d : Option Line) : State := { sFil 1 true with
  sent := [{ who := some (fillUnit 1), peer := 3, line := 0, kind := .read, asks := true, answered := d.isSome, msg := .read 3 0 64, data := d.getD 0 }] }
def pLeaf : Leaf := { leaf0 with p := true, peer := 3 }
theorem witness_fill : windowOf 0 = some .glob ∧ okIs ((sFil 0).translate 0 7 0) leaf0 = true ∧ okIs ((sFil 1).translate 1 7 0) leaf0 = true ∧
    (sFil 1).gone leaf0 0 = none ∧ (sFil 1).recalling 0 = false ∧ (sFil 1).rdcFind 1 0 none = none ∧ ((sFil 1).l2For 0 7).isSome = true ∧
    (({} : State).homeSlice 0).1 ≠ 1 ∧ (sFil 1).tag 0 = 0 ∧ (sFil 1).tent = [] ∧ ((sFil 1).rdcBank 1 0).isSome = true := by decide +kernel
theorem witness_fill_waits : (∀ s ∈ [sFul, sVic], s.recalling 0 = false ∧ s.rdcFind 0 0 none = none ∧ s.l2For 0 7 = none) ∧ sFul.victim 0 = none ∧
    sFul.heldReqs = [] ∧ (sFul.homeSlice 0).1 < 4 ∧ ((sVic.victim 0).any fun v => v.peerBit) = true ∧ sVic.peerUp 3 = true := by decide +kernel
theorem witness_peer_fill : okIs ((sFil 1 true).translate 1 7 0) pLeaf = true ∧ (sFil 1 true).gone pLeaf 0 = none ∧ (sFil 1 true).sent = [] ∧
    (sFil 1 true).rdcFind 1 0 (some 3) = none ∧ (((sPeerFill (some 77)).askedFor (fillUnit 1) 3 0 .read).any fun x => x.answered && !x.stale) = true ∧
    ((sPeerFill (some 77)).rdcBank 1 0).isSome = true := by decide +kernel
theorem test_fill : (runs (.l2Fill 0 (7, 0)) (sFil 0) (fun t => (t.l2Find 0).isSome && t.rdc = []) &&
    runs (.l2Fill 1 (7, 0)) (sFil 1) (fun t => (t.l2Find 0).isSome && t.rdc.map (fun c => (c.die, c.line, c.data, c.peer)) = [(1, 0, 5, none)]) &&
    runs (.l2Fill 1 (7, 0)) (sFil 1 true) (fun t => t.rdc = [] && t.sent.map (fun x => (x.peer, x.line, x.kind)) = [(3, 0, .read)]) &&
    runs (.l2Fill 1 (7, 0)) (sPeerFill (some 77)) (fun t => t.rdc.map (fun c => (c.die, c.line, c.data, c.peer)) = [(1, 0, 77, some (3, 6))])) = true := by
  decide +kernel
theorem test_fill_waits : (runs (.l2Fill 0 (7, 0)) sFul (fun t => (t.l2Find 0).isNone && vget (t.die 0).counters 3 = 1 && t.heldReqs.length = 1) &&
    runs (.l2Fill 0 (7, 0)) sVic (fun t => (t.l2Find 0).isNone && t.sent.map (fun x => (x.peer, x.line, x.kind)) = [(3, 8193 * 16, .inv)])) = true := by
  decide +kernel
/-- Pool page 2 is behind port 2; its line 128 is dirty. -/
def sPort2 : State := { ({} : State) with l2 := [((0, 0), [{ line := 128, dirty := true }, { line := 128 + 64, dirty := true }])] }
theorem witness_port_lost : vget sPort2.front.cxl 2 = true ∧ 2 ∉ sPort2.front.lostPorts ∧ sPort2.portOf (128 * 64) = some 2 := by decide +kernel
theorem test_port_lost : runs (.cxlPortLost 2) sPort2 (fun t => t.poison = [128] && t.front.lostPorts = [2] && t.front.excludePorts = [2]) = true := by decide +kernel
/-- The host accesses by link 0, outside any stream, or in stream 3, whose keys are not programmed. -/
def via0 : Via := {}
def viaNo : Via := { stream := some 3 }
def sHwin : State := { ({} : State) with booted := true, front := { hwin := 0x1000000000, poolEnd := 2 ^ 40 }, tags := [(0x40000001, 1)] }
theorem witness_bar2 : sHwin.booted = true ∧ sHwin.front.hwin.toNat + 0x40 = 0x1000000040 ∧ sHwin.portGone 0x1000000040 = false ∧
    sHwin.offPool (0x1000000040 + 2 - 1) = false ∧ sHwin.hostReaches via0 = true ∧ sHwin.recalling 0x40000001 = false ∧
    (sHwin.l2Bring 0x40000001).isSome = true ∧ sFull.l2Bring 0 = none ∧ sHwin.hostReaches viaNo = false ∧
    ({ sHwin with recovery := true } : State).hostReaches via0 = false := by decide +kernel
theorem test_bar2 : (runs (.bar2Access (via0, 0x40) 2 (some 0x1234)) sHwin (fun t => t.mem = [(0x1000000040, 0x34), (0x1000000041, 0x12)] && t.tags = []) &&
    runs (.bar2Access (viaNo, 0x40) 2 (some 0x1234)) sHwin (fun t => t.mem = [] && t.tags.length = 1) &&
    runs (.bar2Access (via0, 0x40) 2 none) { sHwin with mem := [(0x1000000041, 9)] } (fun t => t.front.bar2 = [0, 9] && t.mem.length = 1 && t.tags.length = 1)) = true := by
  decide +kernel
/-- Thread 1 grows cell 5 and is parked on cell 3, whose grower waits for cell `x`. -/
def sChase (x : Nat) : State := { ctl { thr0 with status := .stalled, role := .evaluator 5 0x140, chases := [(.thread q0, 3)] } (put (put [] 0xC8 8 (64 * x)) 0x140 4 0x80000) with
  tags := [(3, 2), (5, 2)], dies := dies0 { waiters := [(4, [{ who := .thread q0, va := 0xC0, cell := 3, since := 0 }])] } }
theorem witness_chase : (∀ x ∈ [5, 6], ((sChase x).thr q0).chases = (.thread q0, 3) :: [] ∧ (sChase x).stoppedThread q0 = false ∧
      ((sChase x).thr q0).paused = none ∧ (sChase x).growsCell (.thread q0) = some 5 ∧ (sChase x).parkedOn (.thread q0) = some 3 ∧
      ((sChase x).thr q0).tvec ≠ 0 ∧ ((sChase x).thr q0).intrap = false) ∧ (sChase 5).chase 5 3 3 = some 3 ∧ (sChase 6).chase 5 3 3 = none := by
  decide +kernel
theorem test_chase : (runs (.waitsForChase q0) (sChase 5) (fun t => (t.thr q0).pc = 0x2000 && fldN (vget (t.thr q0).trec 0) 0 16 = codeNum .sporeCycle) &&
    runs (.waitsForChase q0) (sChase 6) (fun t => (t.thr q0).pc = 0x1000 && (t.thr q0).chases = [])) = true := by decide +kernel
def sPark (c : Nat) : State := { sChase 5 with cyc := c }
theorem witness_park : ((sPark 0).waitersAt (0, 4))[0]? = some { who := .thread q0, va := 0xC0, cell := 3, since := 0 } ∧ ((sPark 0).thr q0).status ≠ .saved ∧
    0 + ((sPark 0).die 0).parkLimit ≤ (sPark 16777216).cyc := by decide +kernel
theorem test_park : (runs (.sporeTimeout 0 4 0) (sPark 16777216) (fun t => (t.thr q0).pc = 0x2000 && fldN (vget (t.thr q0).trec 0) 0 16 = codeNum .sporeTimeout) &&
    runs (.sporeTimeout 0 4 0) (sPark 16777215) (fun t => (t.thr q0).pc = 0x1000)) = true := by decide +kernel
theorem test_back_off : runs (.backOffRetry (.thread q0)) sM (fun t => t.agenda = [.thread q0]) = true := by decide +kernel
theorem witness_back_off : (((sPort (op0 (.load 4) .issued 0x045)).fe f0).port.findIdx? fun o => decide (o.id = 5)) = some 0 := by decide +kernel

/-! ### Guards, cuts, ends (07 R145-R155, 18 R368-R372, 20 R396) -/

def gde (ts : FMap Nat GTile) : GuardEntry := { record := sGrd.line 24, asid := 7, tol := 0, pair := 0x40, tiles := ts }
def sGd (g : Option GuardEntry) (q : List (Line × BitVec 16 × Nat) := []) : State :=
  { ctl thr0 mImg with dies := dies0 { guards := vset (.replicate 16 none) 2 g, guardWait := q } }
theorem witness_guard_wait : vget ((sGd none [(8, 7, 3)]).die 0).guards 2 = none ∧ ((sGd none [(8, 7, 3)]).die 0).guardWait = (8, 7, 3) :: [] := by decide +kernel
theorem witness_guard_failed : (vget ((sGd (some (gde [(0, { state := .failed })]))).die 0).guards 2) = some (gde [(0, { state := .failed })]) ∧
    ((List.range (gde []).count).find? fun j => ((gde [(0, { state := .failed })]).tile j).state = .failed) = some 0 ∧
    ∀ j ∈ List.range (gde [(0, { state := .failed })]).count, ((gde [(0, { state := .failed })]).tile j).state ≠ .deciding := by decide +kernel
theorem witness_guard_run : (gde []).exactOrder = [] ∧ (gde []).paired = false ∧ (gde []).count = 1 ∧ ((gde []).tile 0).state = .queued ∧
    (sGd (some (gde []))).guardRoom 0 (gde []) 2 = true ∧ fldN (gde []).record 0 64 = 0x400 ∧ ((sGd (some (gde []))).die 0).everFits 1 1 = true ∧
    (((List.range 1).filter fun j => ((gde []).tile j).state = .running || ((gde []).tile j).state = .deciding).length ≤ fldN (gde []).record 464 6) := by
  decide +kernel
theorem witness_guard_header : ∃ bs, ((sGd (some (gde []))).modTile 0 2 0 fun x => { x with state := .running, due := 1 }).unitRead 0 7 0x400 64 .r = .ok bs ∧
    ({ addr := 0x400, header := lineOf bs } : Image).headerOk = true :=
  ok_and (P := fun bs => ({ addr := 0x400, header := lineOf bs } : Image).headerOk) (by decide +kernel)
theorem test_guard_tiles : (runs (.guardTileIssue 0 2) (sGd none [(8, 7, 3)]) (fun t => ((vget (t.die 0).guards 2).map fun g => (g.record, g.cell)) = some (8, some 3) &&
      (t.die 0).guardWait = []) &&
    runs (.guardTileIssue 0 2) (sGd (some (gde [(0, { state := .failed })]))) (fun t => ((vget (t.die 0).guards 2).map fun g => (g.tile 0).state) = some .exact) &&
    runs (.guardTileIssue 0 2) (sGd (some (gde []))) (fun t => ((vget (t.die 0).guards 2).map fun g => ((g.tile 0).state, (g.tile 0).due)) = some (.running, 1) &&
      (vget (t.die 0).queues 4).map (fun q => (q.guard, fldN q.record 0 64)) = [(.surrogate 2 0, 0x400)])) = true := by decide +kernel
def sCut (debug : Bool) (o : List Nat) : State := sFab {} { res0 with binds := [(4, bind0)], cut := some { num := 5, debug, since := 0, outPending := o, inPending := [], made := [(4, bind0)] } }
theorem witness_cut_complete : (sCut false []).hasRes r0 = true ∧ (∀ d ∈ [false, true], (sCut d []).cutIsDone r0 { num := 5, debug := d, since := 0, outPending := [], inPending := [], made := [(4, bind0)] } = true) ∧
    (sCut false [4]).cutIsDone r0 { num := 5, debug := false, since := 0, outPending := [4], inPending := [], made := [] } = false ∧
    (sCut true []).front.dbg.cut = none ∧ (sCut true []).front.dbg.freezeAt = none := by decide +kernel
theorem test_cut_complete : (runs (.cutComplete r0) (sCut false []) (fun t => (t.res r0).cut = none && (t.res r0).cutCommitted = some 5 && (t.res r0).cutBinds.map (·.1) = [4]) &&
    runs (.cutComplete r0) (sCut false [4]) (fun t => (t.res r0).cut.isSome) &&
    runs (.cutComplete r0) (sCut true []) (fun t => (t.res r0).cutCommitted = none && t.front.dbg.freezeAt = some 0)) = true := by decide +kernel
/-- A SNAP residency: byte 128 was stored before the MARK, byte 129 by an FE past it. -/
def sSnap : State := (sCut false []).modRes r0 fun x => { x with snap := true }
def snapPut (s : State) (past : Bool) (pa : Nat) (b : Byte) : State := s.tentPut (.snap r0) (.fePort f0 1) past false pa [b]
def sLate : State := snapPut ((snapPut sSnap false 128 5).modFe f0 fun y => { y with cutTaken := some (5, false) }) true 129 6
/-- The one copy holds byte 128; in `sOwed` its line is homed on peer 3, which is up. -/
def sKept : State := snapPut sSnap false 128 5
def sOwed : State := { sSnap with
  front := { peers := vset (.replicate 64 {}) 3 { up := true, enrolled := true, incarnation := 6 } }
  tent := [{ owner := .snap r0, line := 4 * 2 ^ 49 + 2, data := 5, mask := 1 }] }
def cut0 : Cut := { num := 5, debug := false, since := 0, outPending := [], inPending := [], made := [(4, bind0)] }
theorem witness_cut_snap : (sLate.res r0).snap = true ∧ sLate.pastCut (.fePort f0 1) = true ∧ sLate.tent.map (·.late) = [2] ∧
    (sKept.cutIsDone r0 cut0 = true ∧ sKept.commitOwed (.snap r0) = false ∧ sKept.tent.map (fun y => (y.line, y.held, y.mask)) = [(2, none, 1)] ∧
      sKept.mem.wf = true ∧ sKept.tag 2 = 0) ∧
    (sOwed.cutIsDone r0 cut0 = true ∧ (sOwed.res r0).snap = true ∧ sOwed.commitOwed (.snap r0) = true) := by decide +kernel
theorem test_cut_snap : (runs (.cutComplete r0) sLate (fun t => t.mem.readBytes 128 2 = [5, 0] && t.tent.map (fun y => (y.mask, y.late)) = [(2, 0)]) &&
    runs (.cutComplete r0) sKept (fun t => t.mem = [(128, 5)] && t.tent = [] && (t.res r0).cutCommitted = some 5) &&
    runs (.cutComplete r0) sOwed (fun t => (t.res r0).cut = some cut0 && t.mem = [] && t.sent.map (fun x => (x.peer, x.line, x.kind)) = [(3, 2, .write)])) = true := by
  decide +kernel
def sPre (ph : Nat) (c : Nat := 0) (freeze : Nat := 0) (snap : Bool := false) (most : Nat := 100) : State :=
  { sFab {} { res0 with preempt := some (0, ph), maxouter := most, freeze, snap } with cyc := c }
theorem witness_preempt : ((sPre 1).res r0).stopped = true ∧ (sPre 1).pitchPaused r0 = false ∧ (sPre 2).pitchRests r0 = true ∧
    (sPre 2).drainedOut r0 = true ∧ (sPre 2).saveable r0 = true ∧ ((sPre 2).thr q0).sbuf = [] ∧ (sPre 1 0 1).saveable r0 = true ∧
    ((sPre 1 101).res r0).preemptCount = (0, 0) ∧ ((sPre 1 101 0 true).res r0).cut = none ∧ (sPre 1 101 0 true).saveable r0 = true ∧ ((sPre 1 101 0 true).res r0).spliced = false ∧
    (sPre 3 0 0 true 0).saveable r0 = true ∧ (sPre 1 0 1 false 0).pitchPaused r0 = false := by
  decide +kernel
def savedNow (t : State) : Bool := (t.res r0).state = .retiring && (t.die 0).saved.map (fun v => (v.res.asid, v.thread.isSome)) = [(7, true)] &&
  (t.thr q0).status = .free
theorem test_preempt : (runs (.preemptSave r0) (sPre 1) (fun t => (t.res r0).preempt = some (0, 2)) &&
    runs (.preemptSave r0) (sPre 2) savedNow && runs (.preemptSave r0) (sPre 1 0 1) savedNow &&
    runs (.preemptEscalate r0) (sPre 1 101 0 true) savedNow && runs (.preemptSave r0) (sPre 3 0 0 true 0) savedNow &&
    runs (.preemptEscalate r0) (sPre 1 0 1 false 0) (fun t => (t.res r0).status = 0x133 && (t.res r0).freed) &&
    runs (.preemptEscalate r0) (sPre 1 101) (fun t => (t.res r0).status = 0x133 && (t.res r0).freed && (t.die 0).frq.due.map (fun y => fldN (vget y.1 0) 0 16) = [0x33]) &&
    runs (.preemptEscalate r0) (sPre 1 100) (fun t => !(t.res r0).freed)) = true := by decide +kernel
def sRet (st : PitchState) (done : Nat) : State := sFab {} { res0 with
  state := st, halted := true, freed := true, status := 9, record := BitVec.ofNat 512 (done * 2 ^ 320) }
/-- A SNAP residency that is done, with a copy that peer 3 homes. -/
def sRetP : State := { sFab {} { res0 with halted := true, freed := true, snap := true } with front := sOwed.front, tent := sOwed.tent }
theorem witness_retire : ((sRet .armed 0).mayRetire r0 = true ∧ (sRet .loaded 0x80).mayRetire r0 = true ∧ recDone ((sRet .loaded 0x80).res r0).record = 0x80 ∧
      ((sRet .loaded 0x80).res r0).guard = .none) ∧ (sRet .loaded 0x80).pairLands 0 7 0x80 (leafAt 0x80) ∧
    sRetP.mayRetire r0 = true ∧ recGsl (sRetP.res r0).record = false ∧
    ({ sRetP with tent := sRetP.tent.map fun y => if y.owner = .snap r0 then y.whole else y } : State).commitOwed (.snap r0) = true :=
  ⟨by decide +kernel, lands_of (by decide +kernel), by decide +kernel⟩
theorem test_retire : (runs (.retire r0) (sRet .loaded 0x80) (fun t => (t.res r0).state = .retiring && (t.res r0).scrubbing && t.mem = [(0x80, 1), (0x88, 9)]) &&
    runs (.retire r0) sRetP (fun t => (t.res r0).state = .armed && t.sent.map (fun x => (x.peer, x.kind)) = [(3, .write)])) = true := by
  decide +kernel
def sScr : State := sFab { sel := 3 } { res0 with state := .retiring, scrubbing := true, classLeave := 2, explicitLeave := 3 }
theorem witness_scrub : (sScr.res r0).scrubbing = true ∧ sScr.reportDue r0 = false ∧ (sScr.res r0).successor = none ∧ (sScr.res r0).predecessor = none ∧
    (∀ y ∈ sScr.front.leaveReqs, y.who ≠ LeaveFor.arm r0) ∧ (sScr.res r0).urgent = false := by decide +kernel
theorem test_scrub : runs (.scrubComplete r0) sScr (fun t => !t.hasRes r0 && t.front.poolFree = 5 && (vget (t.die 0).pages 0).state = .free &&
    (t.plane f0 0).sel = 0 && t.front.audit.map (fun e => (e.event, e.asid)) = [(3, 7)]) = true := by decide +kernel

/-! ### The fault record queue and the debugger (18 R364-R367, 19 R380-R389) -/

def sErr : State := { sFab {} with booted := true }
def sFrq (prod : Nat) (due : List (Rec8 × Nat × Option Requester)) (w : List Waiting := []) : State :=
  { sPort { op0 (.load 4) .held 0x045 with post := some 9 } with dies := dies0 { frq := { base := 0x4000, prod := BitVec.ofNat 32 prod, due, waiting := w }, res := [(0, res0)], pages := pages0 }, front := { msixOn := .replicate 2 true } }
def frec : Rec8 := rec8 [0x13, 0x40]
theorem witness_post : ((sFrq 2 [(frec, 1, some (.fePort f0 5))]).die 0).frq.free = some 254 ∧ ((sFrq 256 [(frec, 2, none)]).die 0).frq.free = some 0 ∧
    (((sFrq 2 [(frec, 1, some (.fePort f0 5))]).die 0).frq.due.zipIdx.find? fun x => decide (x.1.2.1 = 2 ∨ 4 < 254)) = some ((frec, 1, some (.fePort f0 5)), 0) ∧
    (sFrq 2 []).mem.wf = true := by decide +kernel
theorem test_post : (runs (.frqPost 0) (sFrq 2 [(frec, 1, some (.fePort f0 5))]) (fun t => (t.die 0).frq.prod = 3 && (t.die 0).frq.due = [] && t.front.irqs = [(0, 1)] &&
      leNat (t.mem.readBytes 0x4080 8) = 0x13 && leNat (t.mem.readBytes 0x40B0 8) = 2 && (t.die 0).frq.waiting.map (fun w => (w.post, w.src)) = [(2, .fePort f0 5)]) &&
    runs (.frqPost 0) (sFrq 256 [(frec, 2, none)]) (fun t => (t.die 0).frq.ovf && (t.die 0).frq.lost = 1 && (t.die 0).frq.first = 0x13 && t.front.irqs = [(0, 5)])) = true := by
  decide +kernel
def wBind : Waiting := { post := 9, words := frec, src := .binding r0 4 0 }
def bSp : Binding := { bIn with spill := [{ ctr := .replicate 4 0, isPage := true }] }
def dieA : Die := { frq := { waiting := [wBind] }, pages := pages0, res := [(0, { res0 with binds := [(4, bSp)] })] }
def sAns : State := { sFab {} with dies := dies0 dieA }
theorem witness_answers : (sFrq 2 [] [{ post := 9, words := frec, src := .fePort f0 5 }]).frqNamed 0 9 = some { post := 9, words := frec, src := .fePort f0 5 } ∧
    (((sFrq 2 []).fe f0).heldOp 5).isSome = true ∧ sAns.frqNamed 0 9 = some wBind ∧ (sAns.binding r0 4).isSome = true ∧
    (sAns.res r0).freed = false ∧ (sAns.res r0).thread = some q0 ∧ sAns.hostReaches via0 = true ∧ sAns.hostReaches viaNo = false := by decide +kernel
theorem test_answers : (runs (.frqReplay (via0, 0) 9) (sFrq 2 [] [{ post := 9, words := frec, src := .fePort f0 5 }]) (fun t => (t.fe f0).port.map (·.stage) = [.issued] && (t.die 0).frq.waiting = []) &&
    runs (.frqReplay (via0, 0) 9) sAns (fun t => ((t.binding r0 4).map fun b => b.spill.map (·.retry)) = some [true]) &&
    runs (.frqAbort (via0, 0) 9) sAns (fun t => (t.binding r0 4).isNone && (t.res r0).freeze = 1 && (t.thr q0).held.map (fun d => (vget d.words 0, vget d.words 1)) = [(0x10013, 0x40)]) &&
    runs (.frqfatalClear (via0, 0) 1) ({ (sFrq 256 []) with dies := dies0 { frq := { ovf := true, lost := 4 } } }) (fun t => !(t.die 0).frq.ovf && (t.die 0).frq.lost = 0) &&
    runs (.frqconsWrite (via0, 0) 7) (sFrq 6 []) (fun t => (t.die 0).frq.cons = 7 && vget (t.die 0).counters 17 = 1) &&
    runs (.frqAbort (viaNo, 0) 9) sAns (fun t => (t.binding r0 4).isSome)) = true := by decide +kernel
theorem witness_uncorrected : mapFind ((sFab {}).die 0).res 0 = some res0 ∧ res0.state = .armed ∧ sErr.usesUnit r0 res0 1 23 = true ∧ 1 ≤ 5 ∧ sErr.booted = true ∧ (sFab {}).booted = false := by decide +kernel
theorem test_uncorrected : runs (.uncorrectedError 0 1 23) sErr (fun t => (t.res r0).status = 0x140 && (t.res r0).freed &&
    ((t.die 0).frq.due.map fun y => (fldN (vget y.1 0) 0 16, vget y.1 1, y.2.1)) = [(0x40, 0x170001, 2)] && (t.die 0).excludeNext = [0]) = true := by decide +kernel
theorem test_errors : (runs (.uncorrectedError 0 0 5) sErr (fun t => t.poison = [5] && vget (t.die 0).counters 1 = 1) &&
    runs (.uncorrectedError 0 6 0) sErr (fun t => vget (t.die 0).counters 0 = 1)) = true := by decide +kernel
def sDb (d : Debug) (c : Nat) (ts : List Trigger := []) : State := { sFab {} with front := { dbg := d, triggers := ts, msixOn := #v[false, true] }, cyc := c }
theorem witness_freeze : (sDb { freezeAt := some 4 } 100).front.dbg.freezeAt = some 4 ∧ (sDb { resumeAt := some 4, frozen := true } 100).front.dbg.frozen = true ∧
    (∀ p ∈ (sDb { resumeAt := some 4, frozen := true } 100).allRes, p.2.gangLost = false) := by decide +kernel
theorem test_freeze : (runs .deviceFreeze (sDb { freezeAt := some 4 } 100) (fun t => t.front.dbg.frozen && t.front.irqs = [(1, 10)]) &&
    runs .deviceFreeze (sDb { freezeAt := some 4 } 99) (fun t => !t.front.dbg.frozen) &&
    runs .deviceResume (sDb { resumeAt := some 4, frozen := true } 100) (fun t => !t.front.dbg.frozen && t.front.dbg.resumeAt = none) &&
    runs .deviceResume (sDb { resumeAt := some 4, frozen := true } 99) (fun t => t.front.dbg.frozen)) = true := by decide +kernel
def sStp : State := { sDb { step := some (q0, 4, true), frozen := true } 4100 with threads := [(q0, { thr0 with status := .stalled })] }
theorem witness_step_and_cut : sStp.front.dbg.step = some (q0, 4, true) ∧ 4 + 4096 ≤ sStp.cyc ∧ (sStp.thr q0).status = .stalled ∧
    (sDb { cut := some (r0, 50, 10) } 60).front.dbg.cut = some (r0, 50, 10) ∧ 10 + 50 ≤ (sDb { cut := some (r0, 50, 10) } 60).cyc := by decide +kernel
theorem test_step_and_cut : (runs .stepTimeout sStp (fun t => t.front.dbg.step = none && t.front.dbg.stepwait && t.front.irqs = [(1, 10)]) &&
    runs .debugCutWithdraw (sDb { cut := some (r0, 50, 10) } 60) (fun t => t.front.dbg.cut = none && t.front.dbg.cutwd) &&
    runs .debugCutWithdraw (sDb { cut := some (r0, 50, 10) } 59) (fun t => t.front.dbg.cut.isSome)) = true := by decide +kernel
def trg (a : Nat) : Trigger := { action := a, filter := { asid := 7 }, origin := 4 }
theorem witness_triggers : (∀ a ∈ [0, 1, 2, 3], (sDb {} 100 [trg a]).front.triggers = [trg a] ∧ (trg a).action < 4) ∧ (trg 0).origin + 96 ≤ (sDb {} 100 [trg 0]).cyc ∧
    (sDb {} 99 [trg 0]).cyc < (trg 0).origin + 96 := by decide +kernel
theorem test_triggers : (runs .triggerApply (sDb {} 100 [trg 0]) (fun t => t.front.triggers = [] && (t.die 3).trace.log = [(true, { asid := 7 })]) &&
    runs .triggerApply (sDb {} 100 [trg 2]) (fun t => t.front.dbg.freezeAt = some 4) &&
    runs .triggerApply (sDb { frozen := true } 100 [trg 3]) (fun t => t.front.dbg.resumeAt = some 4) &&
    runs .triggerApply (sDb { freezeAt := some 30 } 100 [trg 2]) (fun t => t.front.dbg.freezeAt = some 4) &&
    runs .triggerApply (sDb {} 99 [trg 0]) (fun t => t.front.triggers.length = 1)) = true := by decide +kernel
def sCap : State := { ({} : State) with dies := dies0 (dieQ [{ qr 0 with capture := some true }, qr 5]) }
theorem witness_capture : (vget (sCap.die 0).queues 8).head? = some { qr 0 with capture := some true } := by decide +kernel
theorem test_capture : runs (.capturePacketHead 0 8) sCap (fun t => (vget (t.die 0).queues 8).map (·.record) = [5] && (t.die 0).trace.queues = [8]) = true := by decide +kernel
/-- A PC entry of page 0 of die 0 with nonzero reserved bits is bad; KIND 2 is PC, bit 2 ENABLE (19 Table 19-2). -/
theorem test_registers : (runs (.dbgstatClear (via0, 0x100000002)) (sDb { stepwait := true, cutwd := true, badbp := 3 } 0) (fun t => !t.front.dbg.stepwait && t.front.dbg.cutwd && t.front.dbg.badbp = 2) &&
    runs (.breakpointWrite (via0, 3) 0x4000000006) (sDb {} 0) (fun t => t.front.dbg.badbp = 8) && runs (.breakpointWrite (via0, 3) 6) (sDb {} 0) (fun t => t.front.dbg.badbp = 0 && vget t.front.dbg.bps 3 = 6) &&
    runs (.registerWrite (via0, .hcqBase) 0x1FFF) {} (fun t => t.front.hcqBase = 0x1000) && runs (.registerWrite (via0, .hcqSize) 0x18) {} (fun t => t.front.hcqSize = 8) &&
    runs (.registerWrite (via0, .hwin) 0x1FFFFFFFFF) {} (fun t => t.front.hwin = 0x1000000000) && runs (.registerWrite (via0, .pwrstat) 1) {} (fun t => decide (t = {})) &&
    runs (.registerWrite (via0, (.frqBase 2)) 0x7FFF) {} (fun t => (t.die 2).frq.base = 0x4000)) = true := by decide +kernel
theorem test_registers_msix : (runs (.registerWrite (via0, (.msixEnable 1)) 1) {} (fun t => t.front.msixOn = #v[false, true]) &&
    runs (.registerWrite (via0, (.msixEntry 3 true)) 9) {} (fun t => fldN (vget t.front.msixTable 3) 64 64 = 9 && fldN (vget t.front.msixTable 3) 0 64 = 0) &&
    runs (.registerWrite (via0, (.recovery 4)) 8) {} (fun t => t.front.recoveryRegs = [(4, 8)]) &&
    runs (.registerWrite (via0, .hwin) 0x1FFFFFFFFF) { ({} : State) with recovery := true } (fun t => t.front.hwin = 0) &&
    runs (.registerWrite (via0, .recovery 4) 8) { ({} : State) with recovery := true } (fun t => t.front.recoveryRegs = [(4, 8)]) &&
    runs (.registerWrite (viaNo, .recovery 4) 8) {} (fun t => t.front.recoveryRegs = [])) = true := by decide +kernel
theorem witness_registers : bpBreach 0x4000000006 = true ∧ bpBreach 6 = false ∧ bitOf (6 : BitVec 256) 2 = true ∧
    (sDb {} 0).hostReaches via0 = true ∧ (sDb {} 0).hostReaches viaNo = false ∧ (sDb {} 0).carries via0 = true ∧ (sDb {} 0).carries viaNo = false ∧
    answersInRecovery .hwin = false := by decide +kernel

/-! ### Host commands (21 R420, R421) -/

/-- FIPS 180-4's example: the digest of "abc", which the fields hold lowest byte first. -/
theorem test_sha : (sha384Bytes [0x61, 0x62, 0x63]).take 8 = [0xCB, 0x00, 0x75, 0x3F, 0x45, 0xA3, 0x5E, 0x8B] := by decide +kernel
def sCmd (op : Nat) (ws : List Nat) (x : Residency := res0) (m : Memory := []) : State := sHcq op ws m (sFab {} x)
def sWd : State := sHcq 2 [0x200] [] { ({} : State) with dies := dies0 (dieQ [qr 5, { qr 6 with addr := 0x200 }]) }
theorem witness_withdraw : atCmd sWd 2 = true ∧ physOk 0x200 64 = true ∧ physOk 0x201 64 = false ∧ sWd.recordAt 0x200 = some (0, 8, 1) ∧ ((sWd.die 0).recAt (8, 1)).guard = .none ∧
    atCmd (sCmd 2 [0x200]) 2 = true ∧ (sCmd 2 [0x200]).recordAt 0x200 = none := by decide +kernel
theorem test_withdraw : (ans .withdraw sWd 0 (fun t => (t.queued 0 8).map (·.1) = [5]) && ans .withdraw (sCmd 2 [0x200]) 3 && ans .withdraw (sCmd 2 [0x201]) 2) = true := by
  decide +kernel
theorem witness_kill : atCmd (sCmd 3 [0]) 3 = true ∧ cmdRes 0 = r0 ∧ cmdRes 0x101 = ⟨1, 1⟩ ∧ (sCmd 3 [0]).hasRes r0 = true ∧ ((sCmd 3 [0]).res r0).state ≠ .retiring ∧
    (sCmd 3 [0x101]).hasRes ⟨1, 1⟩ = false := by decide +kernel
theorem test_kill : (ans .kill (sCmd 3 [0]) 0 (fun t => (t.res r0).status = 0x134 && (t.res r0).freed && (t.thr q0).status = .free &&
      (t.die 0).frq.due.map (fun y => fldN (vget y.1 0) 0 16) = [0x34]) && ans .kill (sCmd 3 [0x101]) 3 (fun t => !(t.res r0).freed)) = true := by decide +kernel
def sKillPk : State :=
  let s := sCmd 3 [0]
  { s with dies := vset s.dies 1 { s.die 1 with taskq := [(3, [pk0, { pk0 with owner := none }])] } }
theorem test_kill_drops_packets : ans .kill sKillPk 0 (fun t => (t.die 1).taskq.map (fun q => (q.1, q.2.map (·.owner))) = [(3, [none])]) = true := by
  decide +kernel
def sPrm (n : Nat) (x : Residency := res0) : State := { sCmd 4 [0] x with ctxAreas := [(7, 0x10000, n)] }
/-- A residency that holds no page has a small context. -/
def resN : Residency := { res0 with h := 0, w := 0 }
theorem save_len_pos (s : State) (r : ResId) : 0 < s.saveLen r := by unfold State.saveLen; omega
theorem witness_preempt_command : atCmd (sPrm 0) 4 = true ∧ ((sPrm 0).res r0).exempt = false ∧ ((sPrm 0).res r0).preempt = none ∧ ((sPrm 0).res r0).freed = false ∧
    (sPrm (2 ^ 20) resN).saveLen r0 ≤ 2 ^ 20 ∧ ((sPrm 0 { res0 with preempt := some (0, 1) }).res r0).preempt ≠ none := by decide +kernel
theorem test_preempt_command : (ans .preempt (sPrm (2 ^ 20) resN) 0 (fun t => (t.res r0).preempt = some (0, 1)) &&
    ans .preempt (sPrm 0 resN) 0 (fun t => (t.res r0).preempt = none && (t.die 0).frq.due.map (fun y => fldN (vget y.1 0) 0 16) = [0x33]) &&
    ans .preempt (sPrm 0 { res0 with preempt := some (0, 1) }) 3) = true := by decide +kernel
theorem witness_tenants : atCmd (sCmd 5 [7, 0x10000]) 5 = true ∧ physOk 0x10000 (2 ^ 16) = true ∧ physOk 0x10001 (2 ^ 16) = false ∧ atCmd (sCmd 6 [7, 0x40, 9]) 6 = true ∧
    physOk 0x40 64 = true ∧ atCmd (sCmd 7 [5, 9]) 7 = true ∧ atCmd (sCmd 0 []) 0 = true ∧ atCmd (sCmd 20 []) 20 = true := by decide +kernel
theorem test_tenants : (ans .asidroot (sCmd 5 [7, 0x10000]) 0 (fun t => t.roots = [(7, 0x10000)] && t.tlb = [] && t.front.audit.map (fun y => (y.event, y.asid)) = [(2, 7)]) &&
    ans .asidroot (sCmd 5 [7, 0x10001]) 2 (fun t => t.roots = []) && ans .ctxarea (sCmd 6 [7, 0x40, 9]) 0 (fun t => t.ctxAreas = [(7, 0x40, 9)]) &&
    ans .ctxarea (sCmd 6 [7, 0x41, 9]) 2 && ans .parklim (sCmd 7 [5, 9]) 0 (fun t => (t.die 0).parkLimit = 9 && (t.die 1).parkLimit = 16777216 && (t.die 2).parkLimit = 9) &&
    ans .parklim (sCmd 7 [5, 0]) 2 && ans .hcqUnknownOp (sCmd 20 []) 1 && ans .hcqUnknownOp (sCmd 0 []) 1) = true := by decide +kernel
theorem witness_trace : atCmd (sCmd 8 [1, 0x1000, 0x10A]) 8 = true ∧ physOk 0x1000 4096 = true ∧ (∀ n ∈ [0, 1, 2, 3], atCmd (sCmd 9 [n, 7 + 5 * 2 ^ 16 + 2 ^ 24 + 9 * 2 ^ 32]) 9 = true) ∧
    atCmd (sCmd 10 [4 * 8, 0]) 10 = true ∧ ((sCmd 10 [4 * 8, 0]).queued 0 8).length < 64 ∧
    64 ≤ ((sHcq 10 [4 * 8, 0] [] { ({} : State) with dies := dies0 (dieQ (List.replicate 64 (qr 0))) }).queued 0 8).length := by decide +kernel
def sent (i : Instr) (n : Nat) : Bool := ans i (sCmd 9 [n, 7 + 5 * 2 ^ 16 + 2 ^ 24 + 9 * 2 ^ 32]) 0 fun t =>
  t.front.triggers = [{ action := n, filter := { asid := 7, res := some 5, classes := 9 }, origin := 0 }]
theorem test_trace : (ans .tracering (sCmd 8 [1, 0x1000, 0x10A]) 0 (fun t => (t.die 1).trace.base = 0x1000 && (t.die 1).trace.k = 10 && (t.die 1).trace.mode = 1) &&
    ans .tracering (sCmd 8 [1, 0x1000, 9]) 2 && sent .triggerStart 0 && sent .triggerStop 1 && sent .triggerFreeze 2 && sent .triggerResume 3 &&
    ans .tracepkt (sCmd 10 [4 * 8, 0]) 0 (fun t => (vget (t.die 0).queues 8).map (·.capture) = [some true])) = true := by decide +kernel
def sDbc (ws : List Nat) (d : Debug) (x : Residency := res0) : State := let s := sCmd 11 ws x; { s with front := { s.front with dbg := d } }
theorem witness_debug : (∀ n ∈ [0, 1, 2, 3], atCmd (sDbc [n, 7, 0x100] {}) 11 = true) ∧ ((sDbc [2, 7, 0x100] { attached := [7] }).thr q0).asid = 7 ∧
    ((sDbc [2, 7, 0x100] { attached := [7] }).thr q0).status ≠ .free ∧ atCmd (sDbc [4, 7] {}) 11 = true ∧
    ((sDbc [3, 7, 0, 50] { attached := [7] } { res0 with binds := [(4, bind0)] }).res r0).freed = false ∧
    ((sDbc [3, 7, 0, 50] { attached := [7] } { res0 with binds := [(4, bind0)] }).res r0).binds.any (fun b => b.2.marks) = true ∧
    cmdRes 0 = r0 ∧ (List.range 16).length = 16 := by decide +kernel
theorem test_debug : (ans .debugAttach (sDbc [0, 7] {}) 0 (fun t => t.front.dbg.attached = [7] && t.front.audit.map (fun y => (y.event, y.asid)) = [(4, 7)]) &&
    ans .debugAttach (sDbc [0, 7] { attached := [7] }) 3 && ans .debugDetach (sDbc [1, 7] { attached := [6, 7] }) 0 (fun t => t.front.dbg.attached = [6]) &&
    ans .debugAttach (sDbc [4, 7] {}) 2 && ans .debugDetach (sDbc [1, 7] {}) 3 && ans .debugStep (sDbc [2, 7, 0x100] { attached := [7], frozen := true }) 0 (fun t => t.front.dbg.step = some (q0, 0, false)) &&
    ans .debugStep (sDbc [2, 7, 0x100] { attached := [7] }) 3 && ans .debugStep (sDbc [2, 7, 0xC0] {}) 2 && ans .debugCut (sDbc [3, 7, 0, 50] {}) 3 &&
    ans .debugCut (sDbc [3, 7, 0, 50] { attached := [7] } { res0 with binds := [(4, bind0)] }) 0 (fun t => t.front.dbg.cut = some (r0, 50, 0) &&
      ((t.res r0).cut.map fun c => (c.debug, c.limit, c.inPending)) = some (true, 50, [4]))) = true := by decide +kernel
/-- A device with no fabric die left: its summary is its header. -/
def sSum (n : Nat) : State := sHcq 14 [0x2000, n] [] { ({} : State) with dies := .replicate 4 { live := false } }
theorem witness_health : atCmd (sCmd 12 [0x1000, 32]) 12 = true ∧ physOk 0x1000 4096 = true ∧ 32 = 2 ^ (1 + 4) ∧ atCmd (sCmd 13 [0x40, 0x2000]) 13 = true ∧
    0x1000 + 64 ≤ 0x2000 ∧ atCmd (sSum 0) 14 = true ∧ 0 < (sSum 0).summary.length ∧ (sSum 64).summary.length ≤ 64 ∧ 0x1000 + 64 ≤ 0x2000 ∧
    atCmd (sSum 64) 14 = true ∧ atCmd (sCmd 15 [100, 100]) 15 = true ∧
    atCmd (sCmd 16 [0x105]) 16 = true ∧ atCmd (sCmd 16 [5]) 16 = true ∧ atCmd (sCmd 17 [0x40]) 17 = true := by decide +kernel
theorem test_health : (ans .auditmir (sCmd 12 [0x1000, 32]) 0 (fun t => t.front.auditMirror = (0x1000, 32)) && ans .auditmir (sCmd 12 [0x1001, 32]) 2 &&
    ans .summary (sSum 63) 2 (fun t => leNat (t.mem.readBytes 0x1030 8) = 64) && ans .linkcfg (sCmd 15 [100, 100000]) 0 (fun t => t.front.lto = 100 && t.front.quantum = 100000) &&
    ans .linkcfg (sCmd 15 [99, 100]) 2 (fun t => t.front.lto = 10000) && ans .enrol (sCmd 16 [0x105]) 0 (fun t => (vget t.front.peers 5).enrolled && !(vget t.front.peers 5).up) &&
    ans .enrolRemove (sHcq 16 [5] [] { ({} : State) with front := { peers := vset (.replicate 64 {}) 5 { up := true, enrolled := true, incarnation := 3 } } }) 0
      (fun t => vget t.front.peers 5 = { incarnation := 4 }) && ans .mrext (sCmd 17 [0x40]) 0 (fun t => vget t.front.mr 5 = 0)) = true := by decide +kernel
theorem test_health_refuses : (ans .auditsign (sCmd 13 [2 ^ 55, 0x2000]) 2 (fun t => t.front.audit = []) && ans .summary (sHcq 14 [0x2001, 64]) 2 &&
    ans .mrext (sCmd 17 [2 ^ 55]) 2 && ans .sfill (sCmd 18 [0xC1, 0x200]) 2 && ans .sfail (sCmd 19 [0xC0, 0x201]) 2) = true := by decide +kernel
theorem test_audit_sign : runs .auditsign (sCmd 13 [0x40, 0x2000]) (fun t => t.front.audit.map (·.event) = [8] && t.front.hcqCons = 1) = true := by decide +kernel
/-- Cell 3 grows under a host's grower, word 0 bits 31-30 being 3; line 8 holds 9. -/
def sCellC (op tag : Nat) : State := { sCmd op [0xC0, 0x200] res0 (put (put [] 0xC0 8 0xC0000000) 0x200 8 9) with tags := [(3, BitVec.ofNat 2 tag)] }
theorem witness_cells : (∀ op ∈ [18, 19], ∀ g ∈ [1, 2], atCmd (sCellC op g) op = true) ∧ (sCellC 18 2).tag 3 = 2 ∧ (sCellC 18 1).tag 3 ≠ 2 ∧
    fldN ((sCellC 18 2).line 3) 30 2 = 3 ∧ (∀ y ∈ (sCellC 18 2).waitersAt ((sCellC 18 2).slot 3), y.cell ≠ 3) ∧ 3 ≠ 0x1000 / 64 := by decide +kernel
theorem test_cells : (ans .sfill (sCellC 18 2) 0 (fun t => t.tag 3 = 0 && t.line 3 = 9) && ans .sfill (sCellC 18 1) 3 (fun t => t.tag 3 = 1) &&
    ans .sfail (sCellC 19 2) 0 (fun t => t.tag 3 = 3 && t.line 3 = 9)) = true := by decide +kernel

/-! ### Links, boot, power (12 R270, 20 R399, 21 R407-R419) -/

def sLnk (c : Nat) (d : Debug := {}) (q : List (Nat × LinkMsg) := []) : State := { ({} : State) with cyc := c, front := { dbg := d, msixOn := .replicate 2 true, zports := vset (.replicate 12 {}) 1 { up := true, peer := 3, outq := q }, peers := vset (.replicate 64 {}) 3 { up := true } } }
/-- Thread 1 has asked for a line of peer 3 and takes the answer. -/
def ask0 : Sent := { who := some (.thread q0), peer := 3, line := 1, kind := .read, asks := true, msg := .read 3 0x40 2 }
def sAsk : State := { sLnk 0 with sent := [ask0] }
/-- A message has waited since cycle 9 for an allowance; the port hears its peer. -/
def sStuck (c : Nat) : State := let s := sLnk c {} [(9, .read 3 0x40 2)]
  { s with front := { s.front with zports := vmod s.front.zports 1 fun z => { z with heardAt := c } } }
theorem witness_links : (sLnk 0).peerUp 3 = true ∧ (∀ x ∈ (sLnk 0).allRes, x.2.gang = .none) ∧ ((sLnk 30000000).zport 1).up = true ∧ ((sLnk 0).zport 1).peer = 3 ∧
    ((sLnk 30000000).zport 1).heardAt + (sLnk 30000000).ltoCycles ≤ (sLnk 30000000).cyc ∧
    ¬((sLnk 29999999).zport 1).heardAt + (sLnk 29999999).ltoCycles ≤ (sLnk 29999999).cyc ∧ (sLnk 0).portGone 0x40 = false ∧
    (sLnk 0).offPool 0x41 = false ∧ (sLnk 0).recalling 1 = false ∧ (sLnk 0).poisoned 1 = false ∧
    ((sLnk 0).l2Bring 1).isSome = true ∧ (sLnk 0).l2Find 1 = none ∧ sAsk.sent = ask0 :: [] ∧ (sLnk 0 { frozen := true }).front.dbg.frozen = true := by decide +kernel
theorem witness_stuck : (∃ m ∈ ((sStuck 30000009).zport 1).outq, (msgChan m.2).isSome = true ∧ m.1 + (sStuck 30000009).ltoCycles ≤ (sStuck 30000009).cyc) ∧
    (¬∃ m ∈ ((sStuck 30000008).zport 1).outq, (msgChan m.2).isSome = true ∧ m.1 + (sStuck 30000008).ltoCycles ≤ (sStuck 30000008).cyc) ∧
    ¬((sStuck 30000008).zport 1).heardAt + (sStuck 30000008).ltoCycles ≤ (sStuck 30000008).cyc := by decide +kernel
theorem test_links : (runs (.peerDown 3) sAsk (fun t => vget t.front.peers 3 = { incarnation := 1 } && t.sent = [{ ask0 with lost := true }] && t.front.irqs = [(0, 11)] &&
      !(t.zport 1).up) &&
    runs (.linkTimeout 1) (sLnk 30000000) (fun t => !(t.zport 1).up && !(vget t.front.peers 3).up) && runs (.linkTimeout 1) (sLnk 29999999) (fun t => (t.zport 1).up) &&
    runs (.linkTimeout 1) (sStuck 30000009) (fun t => !(t.zport 1).up) && runs (.linkTimeout 1) (sStuck 30000008) (fun t => (t.zport 1).up) &&
    runs (.idleFlit 1) (sLnk 5) (fun t => (t.zport 1).sentAt = 5) && runs (.flitRetry 1) (sLnk 0) (fun t => (t.zport 1).resent = 1)) = true := by decide +kernel
theorem test_messages : (runs (.zilostLinkMessage 1 (.write 3 0x40 2 0x1234)) (sLnk 9) (fun t => t.mem = [(0x40, 0x34), (0x41, 0x12)] &&
      (t.zport 1).outq = [(9, .rsp 3 0 (lineOf [])), (9, .allowance .req 1)] && (t.zport 1).heardAt = 9) &&
    runs (.zilostLinkMessage 1 (.write 3 0x40 2 0x1234)) (sLnk 9 { frozen := true }) (fun t => t.mem = [] && (t.zport 1).outq = []) &&
    runs (.zilostLinkMessage 1 (.write 4 0x40 2 0x1234)) (sLnk 9) (fun t => t.mem = []) &&
    runs (.zilostLinkMessage 1 (.read 3 0x40 2)) { sLnk 9 with mem := [(0x41, 7)] } (fun t =>
      (t.zport 1).outq = [(9, .rsp 3 2 0x700), (9, .allowance .req 1)] && (t.l2Find 1).any (·.peerBit)) &&
    runs (.zilostLinkMessage 1 (.pair 3 0x40 5)) { sLnk 9 with mem := [(0x40, 7)] } (fun t => t.mem = [(0x40, 8), (0x48, 5)]) &&
    runs (.zilostLinkMessage 1 (.amo 3 0x40 0 4 1 false 5 0)) { sLnk 9 with mem := [(0x40, 7)] } (fun t => t.mem = [(0x40, 12)] &&
      (t.zport 1).outq = [(9, .rsp 3 4 7), (9, .allowance .req 1)]) &&
    runs (.zilostLinkMessage 1 (.rsp 3 2 5)) sAsk (fun t => t.sent = [{ ask0 with answered := true, data := 5 }]) &&
    runs (.zilostLinkMessage 1 (.allowance .inv 4)) (sLnk 9) (fun t => vget (t.zport 1).allow (chanNum .inv) = vget ((sLnk 9).zport 1).allow (chanNum .inv) + 4)) = true := by decide +kernel
def sUp : State := { ({} : State) with booted := true }
theorem witness_port_up : sUp.booted = true ∧ 2 ≤ (sUp.zport 4).lanes ∧ (vget sUp.front.peers 9).enrolled = false := by decide +kernel
theorem witness_enrolled : ∃ p, p < 64 ∧ p ≠ Config.ownIndex := by
  by_cases h : 0 = Config.ownIndex
  · exact ⟨1, by decide, fun e => absurd (h.trans e.symm) (by decide)⟩
  · exact ⟨0, by decide, h⟩
theorem test_port_up : runs (.zilostPortUp 4 9 4) sUp (fun t => (t.zport 4).up && (t.zport 4).peer = 9 && (t.zport 4).lanes = 4 && !(vget t.front.peers 9).up) = true := by decide +kernel
def sSpdm (g : SpdmStage) : State := { ({} : State) with front := { spdm := vset (.replicate 2 {}) 1 { stage := g }, ide := [((1, 2), 5)] } }
theorem witness_spdm : (sSpdm .version).spdmAt 1 = .version ∧ (sSpdm .capabilities).spdmAt 1 = .capabilities ∧ (sSpdm .negotiated).spdmReady 1 = true ∧
    (sSpdm .exchanged).spdmAt 1 = .exchanged ∧ (sSpdm .session).spdmAt 1 = .session ∧ (sSpdm .start).spdmReady 1 = false := by decide +kernel
def replies (i : Instr) (g : SpdmStage) (n : Nat) (g' : SpdmStage) : Bool := runs i (sSpdm g) fun t =>
  ((vget t.front.spdm 1).reply.map (·.1)) = some n && t.spdmAt 1 = g'
theorem test_spdm : (replies (.getVersion 1) .session 0 .version && replies (.getCapabilities 1) .version 1 .capabilities && replies (.getCapabilities 1) .start 255 .start &&
    replies (.negotiateAlgorithms 1 ⟨true, true, true⟩) .capabilities 2 .negotiated && replies (.negotiateAlgorithms 1 ⟨true, false, true⟩) .capabilities 255 .capabilities &&
    replies (.getDigests 1) .negotiated 3 .negotiated && replies (.getCertificate 1 0) .negotiated 4 .negotiated && replies (.getCertificate 1 1) .negotiated 255 .negotiated &&
    replies (.challenge 1 0 9) .negotiated 5 .negotiated && replies (.getMeasurements 1 8) .session 6 .session && replies (.getMeasurements 1 9) .session 255 .session &&
    replies (.keyExchange 1 0 9) .negotiated 7 .exchanged && replies (.finish 1 9) .negotiated 255 .negotiated) = true := by decide +kernel
theorem test_ide : (runs (.ideIntegrityFail 1 2) (sSpdm .session) (fun t => t.front.ide = []) && runs (.ideKm 1 4 6) (sSpdm .session) (fun t => mapFind t.front.ide (1, 4) = some 6) &&
    runs (.ideKm 1 4 6) (sSpdm .start) (fun t => mapFind t.front.ide (1, 4) = none)) = true := by decide +kernel
/-- Twenty-four ports of 1 GiB each. -/
def bt (v : Bool) (low : Nat := 1) : BootReport :=
  { verified := v, digests := [1, 2, 3, 4, 5, 6], badDies := [], badPages := [(0, 5)], badBanks := [(0, 3)], badPorts := []
    lanes := List.replicate 12 8, poolUnits := 900, capacity := List.replicate 24 (2 ^ 30), versions := [(2, low)] }
theorem witness_boot : (bt true).verified = true ∧ (bt false).verified = false ∧ (0, 5) ∈ (bt true).badPages ∧ 1 ∉ (bt true).badDies ∧ (bt true).digests[2]? = some 3 ∧
    (∀ v ∈ (bt true).versions, v.2 ≤ v.1) ∧ (∃ v ∈ (bt true 3).versions, v.1 < v.2) ∧ (∀ k ∈ List.range 24, (bt true).capacity[k]? = some (2 ^ 30)) ∧
    2 ^ 30 ≤ 512000000000 ∧ 2 ^ 30 % 4096 = 0 := by decide +kernel
theorem test_boot : (runs (.boot (bt true)) { ({} : State) with front := { excludePorts := [7] } } (fun t => t.booted && !t.recovery && t.front.poolFree = 900 && (t.die 0).rdcBanks.length = 15 && !(vget t.front.cxl 7) && (vget (t.die 0).pages 5).state = .excluded &&
      (vget (t.die 0).pages 4).state = .free && t.front.bootCount = 1 && t.front.poolEnd = 23 * 2 ^ 30) &&
    runs (.boot (bt true 3)) ({} : State) (fun t => !t.booted && t.recovery) &&
    runs (.boot (bt false)) ({} : State) (fun t => !t.booted && t.recovery && t.front.bootCount = 1)) = true := by decide +kernel
theorem test_audit : (runs (.auditAppend 0x100 7 5 6) ({} : State) (fun t => t.front.audit = []) && runs (.auditAppend 0x100 7 5 6) sUp (fun t => t.front.audit.map (fun y => (y.seq, y.event, y.prev)) = [(0, 0x100, 0)]) &&
    runs (.auditAppend 0xFF 7 5 6) sUp (fun t => t.front.audit = [])) = true := by decide +kernel
def sPow (c l since : Nat) : State := { ({} : State) with cyc := c, booted := true, front := { level := l, levelSince := since, msixOn := .replicate 2 true } }
theorem witness_power_events : (sPow 3000000 0 0).front.lastPwrstat + 1000 * Config.cyclesPerMicrosecond ≤ (sPow 3000000 0 0).cyc ∧
    (sPow 0 0 0).front.level ≠ 2 ∧ (sPow 3000000005 2 5).front.level = 2 ∧
    (sPow 3000000005 2 5).front.levelSince + 1000000 * Config.cyclesPerMicrosecond ≤ (sPow 3000000005 2 5).cyc := by decide +kernel
theorem test_power_events : (runs (.pwrstatUpdate 500 0x12F) (sPow 3000000 0 0) (fun t => t.front.pwr = 500 && t.front.tout = 0x2F && t.front.shownLevel = 0) &&
    runs (.pwrstatUpdate 500 40) (sPow 2999999 0 0) (fun t => t.front.pwr = 0) &&
    runs (.powerLevelChange 2) (sPow 7 0 0) (fun t => t.front.level = 2 && t.front.levelSince = 7 && t.front.irqs = [(0, 12)] && t.front.rateCut = 2880) &&
    runs .thermalPowerdown (sPow 3000000005 2 5) (fun t => !t.booted)) = true := by decide +kernel

/-! ### The machine as a whole (04, 09 R177, 10 R202, 14 R303) -/

theorem reset_inv : State.reset.Inv := ⟨by decide +kernel, by decide +kernel⟩
/-- Thread 1 is to run the word at its pc, `ADD g3, g1, g2`; another state in which it waits in the word it issued. -/
def sRun (w : BitVec 32) : State := { ctl { thr0 with g := vset (vset regs0 1 5) 2 6 } (put [] 0x1000 4 w.toNat) with agenda := [.thread q0] }
def taken (s : State) : State := { s.begin with agenda := [] }
def asQ0 (s : State) : State := { taken s with curThread := q0 }
def mayRun (s : State) (st : TStatus) : Bool := let c := taken s; let x := c.thr q0
  decide (c.dueEvent = none) && decide (x.status = st) && decide (x.paused = none) && x.held.isEmpty && decide (x.pushOwed = none) && decide (x.ending = none) &&
    !c.stoppedThread q0 && decide (c.front.dbg.step = none) && decide (c.front.dbg.passed = []) && quiet c
/-- What the thread fetches: a word; nothing yet; or a fault. -/
def fetches (s : State) : Except Code (Option (BitVec 32)) := ((asQ0 s).fetch q0 0x1000).1
/-- The thread's code is on peer 3's memory, of which the die holds no copy. -/
def sPeerCode : State := { sRun 0 with front := { peers := vset (.replicate 64 {}) 3 { up := true, enrolled := true, incarnation := 6 } }
                                       tlb := tlb0.map fun y => { y with leaf := pLeaf, incarnation := 6 } }
def sNoMap : State := { sRun 0 with tlb := [] }
/-- Thread 2 of the core is ready too, and thread 1 has issued last. -/
def sTwo : State := { sRun 0x04611000 with
  threads := [(q0, thr0), (⟨0, 0, 2⟩, thr0)], dies := dies0 { lastIssued := [(0, 1)] } }
theorem witness_step_thread : (sRun 0x04611000).agenda = .thread q0 :: [] ∧
    (∀ s ∈ [sRun 0x04611000, sRun 0, sNoMap], mayRun s .ready = true ∧ (asQ0 s).coreNext 0 0 = some q0) ∧
    okIs (fetches (sRun 0x04611000)) (some 0x04611000) = true ∧ okIs (fetches (sRun 0)) (some 0) = true ∧ errIs (fetches sNoMap) .page = true ∧
    (decodeControl 0x04611000).toOption = some (.add 3 1 2) ∧ (decodeControl 0).toOption = none := by decide +kernel
theorem witness_step_waits : mayRun sPeerCode .ready = true ∧ okIs ((asQ0 sPeerCode).fetchMem q0 0x1000).1 none = true ∧ (asQ0 sPeerCode).coreNext 0 0 = none ∧
    mayRun sTwo .ready = true ∧ (asQ0 sTwo).coreNext 0 0 = some ⟨0, 0, 2⟩ ∧ (asQ0 sTwo).fetchWaits q0 = false := by decide +kernel
/-- The thread is stalled in the word `w`, and holds `n` tokens from SE to CP. -/
def sStall (w : BitVec 32) (n : Nat) : State :=
  { ctl { thr0 with status := .stalled, word := w, fifo := vset (.replicate 12 0) (fifoIdx 1 0) n } with agenda := [.thread q0] }
theorem witness_step_stalled : (∀ n ∈ [0, 1], mayRun (sStall 0x68000002 n) .stalled = true) ∧ mayRun (sStall 0x60042801 0) .stalled = true ∧
    (decodeControl 0x68000002).toOption = some (.tokw 0 2) ∧ ((taken (sStall 0x68000002 0)).thr q0).unissued (.tokw 0 2) = true ∧
    (asQ0 (sStall 0x68000002 1)).coreNext 0 0 = some q0 ∧ (asQ0 (sStall 0x68000002 0)).coreNext 0 0 = none ∧
    (decodeControl 0x60042801).toOption = some (.waitq 4 5 1) ∧ ((taken (sStall 0x60042801 0)).thr q0).unissued (.waitq 4 5 1) = false := by decide +kernel
def wAdd : BitVec 32 := 0x20440041
def sSlot : State := { elm (firing0 [(.a, .value 5), (.b, .value 6)]) (plane0 [wAdd]) with agenda := [.element f0] }
theorem witness_step_element : (taken sSlot).dueEvent = none ∧ ((taken sSlot).fe f0).firing = some (firing0 [(.a, .value 5), (.b, .value 6)]) ∧
    ((taken sSlot).fe f0).slotWord (firing0 [(.a, .value 5), (.b, .value 6)]) = some wAdd ∧ (decodeElement wAdd).toOption = some (.addE 2 0 1 0 0x041) := by decide +kernel
def wSeam : BitVec 32 := (encodeWord (.seam 1 2 5 4)).getD 0
def sSea : State := { ({} : State) with curFe := f0, fes := [(f0, { planes := vset (.replicate 6 {}) 0 (plane0 [wSeam]) })], agenda := [.element f0] }
theorem witness_step_seam : (taken sSea).dueEvent = none ∧ ((taken sSea).fe f0).firing = none ∧ ((taken sSea).plane f0 0).isSeam = true ∧
    vget ((taken sSea).plane f0 0).blocks ((taken sSea).plane f0 0).sel = some { words := [wSeam] } ∧
    (decodeElement wSeam).toOption = some (.seam 1 2 5 4) := by decide +kernel
def sRec1 : State := { sMtu 1 mtu0 (zt (hd 8 16 16) []) (zt (hd 9 16 16) []) with agenda := [.mtu f0 0] }
theorem witness_step_mtu : (taken sRec1).dueEvent = none ∧ (decodeMtu (vget ((taken sRec1).plane f0 ((taken sRec1).fe f0).active).recs 0)).toOption = some (.mma mtu0) := by
  decide +kernel
theorem witness_step_event : ∃ s : State, s.agenda = .event .leaveGrant :: [] ∧ (taken s).dueEvent = none ∧ Instr.isEvent .leaveGrant = true :=
  ⟨{ ({} : State) with agenda := [.event .leaveGrant] }, by decide +kernel⟩
def steps (s : State) (P : State → Bool) : Bool :=
  match step s with
  | .next t => P t
  | .fault _ => false
  | .refused _ => false
theorem test_step_waits : (steps sTwo (fun t => t.cur.pc = 0x1000 && t.rd 3 = 0xC0) && steps (sStall 0x68000002 0) (fun t => t.cur.status = .stalled) &&
    steps (sStall 0x68000002 1) (fun t => t.cur.pc = 0x1004 && t.cur.status = .ready) && steps sPeerCode (fun t => t.cur.pc = 0x1000 && t.sent.length = 1)) = true := by
  decide +kernel
theorem test_step : (steps (sRun 0x04611000) (fun t => t.rd 3 = 11 && t.cur.pc = 0x1004) &&
    steps (sRun 0) (fun t => t.cur.pc = 0x2000 && fldN (vget t.cur.trec 0) 0 16 = codeNum .illegal) &&
    steps sSlot (fun t => (t.fe f0).firing.any fun g => mapFind g.dels (1, .a) = some (.value 11))) = true := by decide +kernel
theorem steps_next {s : State} {P : State → Bool} (h : steps s P = true) : ∃ t, step s = .next t ∧ P t = true := by
  unfold steps at h
  split at h
  · exact ⟨_, by assumption, h⟩
  all_goals cases h
theorem runs_next {i : Instr} {s : State} {P : State → Bool} (h : runs i s P = true) : ∃ t, exec i s = .next t ∧ P t = true := by
  unfold runs at h
  split at h
  · exact ⟨_, by assumption, h⟩
  all_goals cases h
/-- The instruction placed for the first step after reset runs in it. -/
theorem test_first_step : (steps (State.reset.withFetchWord 32 0x0861FFFB) (fun t => t.rd 3 = wordN (2 ^ 64 - 5)) &&
    steps (State.reset.withFetchWord 32 0xD0000000) (fun t => t.cur.status = .free)) = true := by decide +kernel
theorem witness_encodings : (Instr.add 3 1 2).wf = true ∧ encodeWord (.add 3 1 2) = some 0x04611000 ∧ (Instr.mma mtu0).wf = true ∧
    (encodeRecord (.mma mtu0)).isSome = true ∧ ((encodeRecord (.mma mtu0)).all fun w => (decodeMtu w).toOption = some (.mma mtu0)) = true := by decide +kernel
theorem witness_canonical_step : ∃ s t : State, s.Inv ∧ step s = .next t ∧ t.cur.pc = 0x1004 := by
  obtain ⟨t, h1, h2⟩ := steps_next (s := sRun 0x04611000) (P := fun t => t.cur.pc = 0x1004) (by decide +kernel)
  exact ⟨_, t, ⟨by decide +kernel, by decide +kernel⟩, h1, of_decide_eq_true h2⟩
theorem witness_tables_stand : ∃ t, exec .leaveGrant sLv = .next t ∧ t.roots = [] := by
  obtain ⟨t, h1, h2⟩ := runs_next (i := .leaveGrant) (s := sLv) (P := fun t => t.roots = []) (by decide +kernel)
  exact ⟨t, h1, of_decide_eq_true h2⟩

/-! ### Accesses beside plain pool memory (12 R255-R270, 07 R148, 17 R357, 21 R411) -/

/-- g1 holds `a`, g2 is 5; the thread controls residency `x`, FE 0 is `y`. -/
def sAt (a : Nat) (y : Fe) (x : Residency := res0) (sb : List Buffered := []) : State :=
  { ctlR x [] { thr0 with role := .control r0, g := vset (vset regs0 1 (wordN a)) 2 5, sbuf := sb } with fes := [(f0, y)] }
/-- The window of FE 0's scratch, whose byte 0x40 is 7. -/
def sPit (sb : List Buffered := []) : State := { sAt (pitchBase + 0x40) { scratch := 0x1000 } res0 sb with lmem := put [] (feBase f0 + 0x40) 8 7 }
theorem witness_pitch_window : sPit.curRes = some r0 ∧ sPit.hasRes r0 = true ∧ (sPit.res r0).urgent = false ∧ 0 < 24 * (sPit.res r0).h * (sPit.res r0).w ∧
    feOfIndex r0 (sPit.res r0) 0 = f0 ∧ 0x40 + 8 ≤ (sPit.fe f0).scratch ∧ (sPit.rd 1).toNat = pitchBase + 0 * 0x20000 + 0x40 ∧ (sPit.rd 1).toNat % 8 = 0 ∧
    sPit.sent = [] ∧ sPit.returns = [] ∧ sPit.lmem.wf = true := by decide +kernel
def bufTo (tg : Target) (va : Nat) : List Buffered := [⟨tg, 8, 0x99, wordN va, 0x1000, 0, false⟩]
theorem witness_pitch_buffer : ((sPit (bufTo (.scratch f0 0x40) (pitchBase + 0x40))).thr q0).sbuf = bufTo (.scratch f0 0x40) (pitchBase + 0x40) := by
  decide +kernel
theorem test_pitch_window : (gives (.ld 3 1 6 0) sPit 7 && runs (.st 2 1 6 0) sPit (fun t => t.cur.sbuf.map (·.target) = [.scratch f0 0x40] && t.lmem = sPit.lmem) &&
    runs (.accessPerform (.storeBuffer q0)) (sPit (bufTo (.scratch f0 0x40) (pitchBase + 0x40))) (fun t => t.lmem.readBytes (feBase f0 + 0x40) 2 = [0x99, 0] && t.mem = []) &&
    runs (.amoAdd 3 1 2 2 0) sPit (fun t => t.rd 3 = 7 && t.lmem.readBytes (feBase f0 + 0x40) 2 = [12, 0] && t.mem = [])) = true := by decide +kernel
/-- The bank of FE 0 holds the line at 0x8000, whose first word is 7. -/
def sBnk (sb : List Buffered := []) : State :=
  sAt 0x8000 { bank := some { n := 1, base := 0x8000, len := 64, lines := [(0, { va := 0x8000, pa := 0x8000, data := 7, dirty := 0 })] } } res0 sb
/-- The line itself apart, which is a bank's, a copy's or a peer's: the address translates, and nothing else stands in its way. -/
def ownB (s : State) (l : Leaf) : Bool := okIs (s.translate 0 7 (s.rd 1).toNat) l && quiet s && decide (l.r = true ∧ l.w = true ∧ l.pa % 64 = (s.rd 1).toNat % 64 ∧
  (s.rd 1).toNat < 0x80000000000000 ∧ (s.rd 1).toNat % 8 = 0 ∧ s.cur.sbuf = [] ∧ s.returns = [])
def freeB (s : State) (l : Leaf) : Bool := decide (l.p = false ∧ s.portGone l.pa = false ∧ s.tag (l.pa / 64) = 0 ∧ s.parkedAt s.curAgent.who (l.pa / 64) = false ∧ s.sent = [])
theorem witness_bank_line : ownB sBnk (leafAt 0x8000) = true ∧ freeB sBnk (leafAt 0x8000) = true ∧ sBnk.tentReads sBnk.curAgent.res = none ∧
    sBnk.tentWrites sBnk.curAgent.res = none ∧ sBnk.passesBank sBnk.curAgent.res = false ∧
    ((sBnk.bankServes sBnk.curAgent.res (leafAt 0x8000) 0x8000).any fun k => decide (k.1 = f0 ∧ (sBnk.fe f0).bank = some k.2) &&
      (mapFind k.2.lines (0x8000 / 64 % k.2.n)).any fun x => decide (x.va = 0x8000 / 64 * 64 ∧ x.poison = false)) = true := by decide +kernel
theorem witness_bank_buffer : let s := sBnk (bufTo (.glob 0x8000 (leafAt 0x8000) 0x8000) 0x8000)
    (s.thr q0).sbuf = bufTo (.glob 0x8000 (leafAt 0x8000) 0x8000) 0x8000 ∧ (s.agent q0).res = some r0 ∧
    (s.bankServes (some r0) (leafAt 0x8000) 0x8000).isSome = true ∧ s.tentWrites (some r0) = none ∧ s.passesBank (some r0) = false ∧
    (∀ x ∈ s.sent, x.lost = false) := by decide +kernel
def bankData (t : State) : Option Line := (t.fe f0).bank.bind fun b => (mapFind b.lines 0).map (·.data)
theorem test_bank_line : (gives (.ld 3 1 6 0) sBnk 7 &&
    runs (.accessPerform (.storeBuffer q0)) (sBnk (bufTo (.glob 0x8000 (leafAt 0x8000) 0x8000) 0x8000)) (fun t => bankData t = some 0x99 && t.mem = [] && t.cur.sbuf = []) &&
    runs (.amoSwap 3 1 2 2 0) sBnk (fun t => t.rd 3 = 7 && bankData t = some 5 && t.mem = [])) = true := by decide +kernel
/-- A SNAP residency's copy of line 1, of which it has stored byte 0. -/
def sTnt (sb : List Buffered := []) : State :=
  { sAt 0x40 {} { res0 with snap := true } sb with mem := put [] 0x40 8 0x203, tent := [{ owner := .snap r0, line := 1, data := 7, mask := 1 }] }
theorem witness_copy : ownB sTnt (leafAt 0x40) = true ∧ freeB sTnt (leafAt 0x40) = true ∧ sTnt.tentReads sTnt.curAgent.res = some (.snap r0) ∧
    sTnt.tentWrites sTnt.curAgent.res = some (.snap r0) ∧ calmB sTnt sTnt.curAgent 1 = true ∧ sTnt.poisoned 1 = false ∧
    sTnt.bankServes sTnt.curAgent.res (leafAt 0x40) 0x40 = none ∧ ((sTnt.tentCopy (some (.snap r0)) 1).any fun c => !c.poison) = true ∧
    (let s := sTnt (bufTo (.glob 0x40 (leafAt 0x40) 0x40) 0x40)
     (s.thr q0).sbuf = bufTo (.glob 0x40 (leafAt 0x40) 0x40) 0x40 ∧ s.tentWrites (s.agent q0).res = some (.snap r0)) := by decide +kernel
theorem test_copy : (gives (.ld 3 1 6 0) sTnt 0x207 &&
    runs (.accessPerform (.storeBuffer q0)) (sTnt (bufTo (.glob 0x40 (leafAt 0x40) 0x40) 0x40)) (fun t => t.mem = sTnt.mem && t.tent.map (fun c => (c.data, c.mask)) = [(0x99, 255)]) &&
    runs (.amoAdd 3 1 2 2 0) sTnt (fun t => t.rd 3 = 0x207 && t.mem = sTnt.mem && t.tent.map (·.data) = [0x20C])) = true := by decide +kernel
/-- Line 1 is homed on peer 3; `x` is what has been asked of it. -/
def sPer (x : List Sent := []) (rdc : List RdcLine := []) (sb : List Buffered := []) : State :=
  { sAt 0x40 {} res0 sb with front := { peers := vset (.replicate 64 {}) 3 { up := true, enrolled := true, incarnation := 6 } }, sent := x, rdc
                             tlb := tlb0.map fun y => { y with leaf := pLeaf, incarnation := 6 } }
def pAt : Leaf := { pLeaf with pa := 0x40 }
def asked (k : SentKind) (done : Bool) : Sent := { who := some (.thread q0), peer := 3, line := 1, kind := k, asks := true, answered := done, msg := .read 3 0x40 64, data := 7 }
def copy3 : RdcLine := { die := 0, line := 1, peer := some (3, 6), data := 9, poison := false }
theorem witness_peer_line : (∀ x ∈ [[], [asked .read true], [asked .amo true]], ownB (sPer x) pAt = true ∧ (sPer x).peerUp 3 = true ∧
      (sPer x).tentReads (sPer x).curAgent.res = none ∧ (sPer x).tentWrites (sPer x).curAgent.res = none ∧
      (sPer x).bankServes (sPer x).curAgent.res pAt 0x40 = none ∧ (∀ y ∈ (sPer x).sent, y.lost = false) ∧ (sPer x).pendingAt 3 1 = []) ∧
    sPer.rdcFind 0 1 (some 3) = none ∧ sPer.askedFor (.thread q0) 3 1 .read = none ∧ sPer.askedFor (.thread q0) 3 1 .amo = none ∧
    (sPer [asked .read true]).askedFor (.thread q0) 3 1 .read = some (asked .read true) ∧
    (sPer [asked .amo true]).askedFor (.thread q0) 3 1 .amo = some (asked .amo true) ∧
    (sPer [] [copy3]).rdcFind 0 1 (some 3) = some copy3 ∧ sPer.curAgent.who = .thread q0 ∧
    ((sPer [] [] (bufTo (.glob 0x40 pAt 0x40) 0x40)).thr q0).sbuf = bufTo (.glob 0x40 pAt 0x40) 0x40 := by decide +kernel
theorem test_peer_line : (runs (.ld 3 1 6 0) sPer (fun t => t.cur.status = .stalled && t.sent.map (fun x => (x.peer, x.line, x.kind)) = [(3, 1, .read)]) &&
    gives (.ld 3 1 6 0) (sPer [asked .read true]) 7 && gives (.ld 3 1 6 0) (sPer [] [copy3]) 9 &&
    runs (.accessPerform (.storeBuffer q0)) (sPer [] [] (bufTo (.glob 0x40 pAt 0x40) 0x40)) (fun t => t.mem = [] && t.cur.sbuf = [] &&
      t.sent.map (fun x => (x.peer, x.kind, x.msg)) = [(3, .write, .write 3 0x40 8 0x99)]) &&
    runs (.amoAdd 3 1 2 2 0) sPer (fun t => t.cur.status = .stalled && t.sent.map (·.msg) = [.amo 3 0x40 0 8 1 true 5 0xC0]) &&
    runs (.amoAdd 3 1 2 2 0) (sPer [asked .amo true]) (fun t => t.rd 3 = 7 && t.cur.pc = 0x1004)) = true := by decide +kernel

end Sys2Proof.Tests
end

section
/-! # INT operations, operations with an immediate, and jumps (09 R186-R191)

A value of the model is an integer formula of the manual. The first part gives each one as the machine operation that the
statements name; the second runs the instructions. -/

namespace Sys2Proof.Machine

/-! ### Shifts and comparisons -/

theorem shiftCount_eq_mod (b : Word) : shiftCount b = b.toNat % 64 := by
  simp [shiftCount, fldN]

theorem valShl_eq_shiftLeft (a b : Word) : valShl a b = a <<< (b.toNat % 64) := by
  rw [valShl, shiftCount_eq_mod]

theorem valShr_eq_ushiftRight (a b : Word) : valShr a b = a >>> (b.toNat % 64) := by
  rw [valShr, shiftCount_eq_mod]

theorem valShra_eq_sshiftRight (a b : Word) : valShra a b = a.sshiftRight (b.toNat % 64) := by
  rw [valShra, shiftCount_eq_mod]

theorem valSlt_eq_slt (a b : Word) : valSlt a b = if a.slt b then 1 else 0 := by
  simp [valSlt, BitVec.slt_eq_decide]

theorem valSltZ_eq_ult (a b : Word) : valSltZ a b = if a.ult b then 1 else 0 := by
  simp [valSltZ, BitVec.ult_eq_decide]

/-! ### Lesser and greater: on a tie both operands are the same word -/

theorem valMin_eq_slt (a b : Word) : valMin a b = if a.slt b then a else b := by
  simp only [valMin, BitVec.slt_eq_decide, decide_eq_true_eq]
  by_cases tie : a.toInt = b.toInt
  · rw [BitVec.toInt_inj.mp tie, ite_self, ite_self]
  · have strict : a.toInt ≤ b.toInt ↔ a.toInt < b.toInt := by omega
    simp only [strict]

theorem valMax_eq_slt (a b : Word) : valMax a b = if a.slt b then b else a := by
  simp only [valMax, BitVec.slt_eq_decide, decide_eq_true_eq]
  have opposite : a.toInt ≥ b.toInt ↔ ¬a.toInt < b.toInt := by omega
  simp only [opposite, ite_not]

theorem valMinZ_eq_ult (a b : Word) : valMinZ a b = if a.ult b then a else b := by
  simp only [valMinZ, BitVec.ult_eq_decide, decide_eq_true_eq]
  by_cases tie : a.toNat = b.toNat
  · rw [BitVec.toNat_inj.mp tie, ite_self, ite_self]
  · have strict : a.toNat ≤ b.toNat ↔ a.toNat < b.toNat := by omega
    simp only [strict]

theorem valMaxZ_eq_ult (a b : Word) : valMaxZ a b = if a.ult b then b else a := by
  simp only [valMaxZ, BitVec.ult_eq_decide, decide_eq_true_eq]
  have opposite : a.toNat ≥ b.toNat ↔ ¬a.toNat < b.toNat := by omega
  simp only [opposite, ite_not]

/-! ### Products -/

/-- The high half of a 128-bit integer is its quotient by 2^64, rounded down. -/
theorem extractLsb'_ofInt_high (x : Int) :
    (BitVec.ofInt 128 x).extractLsb' 64 64 = BitVec.ofInt 64 (x / 2 ^ 64) := by
  apply BitVec.eq_of_toNat_eq
  simp only [BitVec.extractLsb'_toNat, BitVec.toNat_ofInt, Nat.shiftRight_eq_div_pow]
  omega

theorem valMulh_eq_extract (a b : Word) :
    valMulh a b = (a.signExtend 128 * b.signExtend 128).extractLsb' 64 64 := by
  rw [valMulh, ← extractLsb'_ofInt_high, BitVec.ofInt_mul]
  rfl

theorem valMulhZ_eq_extract (a b : Word) :
    valMulhZ a b = (a.zeroExtend 128 * b.zeroExtend 128).extractLsb' 64 64 := by
  have extended (x : Word) : x.toNat % 2 ^ 128 = x.toNat := Nat.mod_eq_of_lt (by omega)
  apply BitVec.eq_of_toNat_eq
  simp only [valMulhZ, BitVec.extractLsb'_toNat, BitVec.toNat_mul, BitVec.toNat_setWidth, BitVec.toNat_ofNat,
    Nat.shiftRight_eq_div_pow, extended]
  omega

/-! ### Quotients and remainders -/

theorem valDiv_eq_sdiv (a b : Word) : valDiv a b = if b = 0 then BitVec.allOnes 64 else a.sdiv b := by
  have quotient : BitVec.ofInt 64 (a.toInt.tdiv b.toInt) = a.sdiv b :=
    BitVec.eq_of_toInt_eq (by rw [BitVec.toInt_ofInt, BitVec.toInt_sdiv])
  rw [valDiv, quotient]

theorem valRem_eq_srem (a b : Word) : valRem a b = if b = 0 then a else a.srem b := by
  have remainder : BitVec.ofInt 64 (a.toInt - b.toInt * a.toInt.tdiv b.toInt) = a.srem b := by
    rw [← Int.tmod_def, ← BitVec.toInt_srem, BitVec.ofInt_toInt]
  rw [valRem, remainder]

theorem valDivZ_eq_udiv (a b : Word) : valDivZ a b = if b = 0 then BitVec.allOnes 64 else a / b := by
  have quotient : BitVec.ofNat 64 (a.toNat / b.toNat) = a / b := by
    rw [← BitVec.toNat_udiv, BitVec.ofNat_toNat, BitVec.setWidth_eq]
  rw [valDivZ, quotient]

theorem valRemZ_eq_umod (a b : Word) : valRemZ a b = if b = 0 then a else a % b := by
  have remainder : BitVec.ofNat 64 (a.toNat % b.toNat) = a % b := by
    rw [← BitVec.toNat_umod, BitVec.ofNat_toNat, BitVec.setWidth_eq]
  rw [valRemZ, remainder]

/-! ### Counts of bits -/

theorem clzNat_le (n v : Nat) : clzNat n v ≤ n := by
  induction n with
  | zero => exact Nat.le_refl 0
  | succ n ih =>
    rw [clzNat]
    split
    · exact Nat.zero_le _
    · exact Nat.succ_le_succ ih

/-- The bits that CLZ counts are zero. -/
theorem testBit_clzNat_above (n v j : Nat) (h : n - clzNat n v ≤ j) (hj : j < n) : v.testBit j = false := by
  induction n with
  | zero => exact absurd hj (Nat.not_lt_zero j)
  | succ n ih =>
    rw [clzNat] at h
    split at h
    · omega
    next hn =>
      rcases Nat.lt_succ_iff_lt_or_eq.mp hj with hlt | rfl
      · exact ih (by omega) hlt
      · simpa using hn

/-- The bit below those that CLZ counts is set. -/
theorem testBit_clzNat_highest (n v : Nat) (h : clzNat n v < n) : v.testBit (n - 1 - clzNat n v) = true := by
  induction n with
  | zero => exact absurd h (Nat.not_lt_zero _)
  | succ n ih =>
    rw [clzNat] at h ⊢
    split at h
    next hn => simp [hn]
    next hn =>
      rw [if_neg hn, show n + 1 - 1 - (clzNat n v + 1) = n - 1 - clzNat n v by omega]
      exact ih (Nat.lt_of_succ_lt_succ h)

theorem popcNat_eq_countP (n v : Nat) : popcNat n v = (List.range n).countP fun j => v.testBit j := by
  induction n with
  | zero => rfl
  | succ n ih => rw [popcNat, ih, List.range_succ, List.countP_append, List.countP_singleton, Nat.add_comm]

theorem setBits_eq_countP (a : Word) : setBits a = BitVec.ofNat 64 ((List.range 64).countP fun j => a.getLsbD j) := by
  rw [setBits, popcNat_eq_countP]
  rfl

/-! ### Scaling and parts of a register -/

theorem shiftLeft_eq_mul_one_shiftLeft (b : Word) (k : Nat) : b <<< k = b * (1 <<< k) := by
  rw [BitVec.shiftLeft_eq_mul_twoPow]
  rfl

/-- INSI replaces bits [16k + 15 : 16k] and keeps the others (R189). -/
theorem getLsbD_insertPart (v : Word) (k : BitVec 2) (m : BitVec 16) {j : Nat} (hj : j < 64) :
    (insertPart v k m).getLsbD j =
      if 16 * k.toNat ≤ j ∧ j < 16 * k.toNat + 16 then m.getLsbD (j - 16 * k.toNat) else v.getLsbD j := by
  have mask : (0xFFFF : Word) = (BitVec.allOnes 16).setWidth 64 := rfl
  simp only [insertPart, mask, BitVec.getLsbD_or, BitVec.getLsbD_and, BitVec.getLsbD_not, BitVec.getLsbD_shiftLeft,
    BitVec.getLsbD_setWidth, BitVec.getLsbD_allOnes, hj]
  by_cases below : j < 16 * k.toNat
  · simp [below, Nat.not_le.mpr below]
  · by_cases inside : j - 16 * k.toNat < 16
    · simp [below, inside, show j < 16 * k.toNat + 16 by omega, show 16 * k.toNat ≤ j by omega,
        show j - 16 * k.toNat < 64 by omega]
    · simp [below, inside, show ¬j < 16 * k.toNat + 16 by omega, BitVec.getLsbD_of_ge m _ (Nat.not_lt.mp inside)]

/-! ### Running the instructions -/

/-- An instruction that writes `w` and retires gives `v`, if that is the same word. -/
theorem completes_of_writes {i : Instr} {s : State} {d : BitVec 5} {w v : Word} (hi : exec i s = s.writes d w)
    (hv : w = v) : Completes i s fun t => s.wrote t d v (s.cur.pc + 4) := by
  subst hv
  obtain ⟨t, ht, hw⟩ := s.writes_spec d w
  exact ⟨t, hi.trans ht, hw⟩

/-- CLZ counts the zero bits above the highest set bit (R186). -/
theorem clz_completes (s : State) (d a : BitVec 5) :
    ∃ n : Nat, n ≤ 64 ∧ (∀ j, 64 - n ≤ j → j < 64 → (s.rd a).getLsbD j = false) ∧
      (n < 64 → (s.rd a).getLsbD (63 - n) = true) ∧
      Completes (.clz d a) s fun t => s.wrote t d (BitVec.ofNat 64 n) (s.cur.pc + 4) :=
  ⟨clzNat 64 (s.rd a).toNat, clzNat_le _ _, testBit_clzNat_above 64 _, testBit_clzNat_highest 64 _,
    completes_of_writes rfl rfl⟩

/-- A thread that has `trapped` has changed no memory. -/
theorem State.trapped_sameMem {s t : State} {c : Code} {w1 w2 w3 ret : Word} (h : s.trapped t c w1 w2 w3 ret) :
    s.sameMem t := by
  obtain ⟨-, -, -, -, -, -, -, -, -, -, -, mem⟩ := h
  exact mem

end Sys2Proof.Machine

namespace Sys2Proof.Proofs.ControlCore
open Sys2Proof.Machine

/-- Settles O1: each operation writes its value of Table 9-5, which the lemmas above give as the word operation. -/
theorem intOperationResults : Obligations.IntOperationResults := by
  unfold Obligations.IntOperationResults
  constructor
  · intro s d a b
    exact ⟨completes_of_writes rfl rfl, completes_of_writes rfl rfl,
      completes_of_writes rfl rfl, completes_of_writes rfl rfl, completes_of_writes rfl rfl,
      completes_of_writes rfl rfl,
      completes_of_writes rfl (valShl_eq_shiftLeft _ _),
      completes_of_writes rfl (valShr_eq_ushiftRight _ _),
      completes_of_writes rfl (valShra_eq_sshiftRight _ _),
      completes_of_writes rfl rfl,
      completes_of_writes rfl (valMulh_eq_extract _ _), completes_of_writes rfl (valMulhZ_eq_extract _ _),
      completes_of_writes rfl (valDiv_eq_sdiv _ _), completes_of_writes rfl (valDivZ_eq_udiv _ _),
      completes_of_writes rfl (valRem_eq_srem _ _), completes_of_writes rfl (valRemZ_eq_umod _ _),
      completes_of_writes rfl (valMin_eq_slt _ _), completes_of_writes rfl (valMax_eq_slt _ _),
      completes_of_writes rfl (valMinZ_eq_ult _ _), completes_of_writes rfl (valMaxZ_eq_ult _ _),
      completes_of_writes rfl (valSlt_eq_slt _ _), completes_of_writes rfl (valSltZ_eq_ult _ _)⟩
  · intro s d a b k
    exact ⟨clz_completes s d a,
      completes_of_writes rfl (setBits_eq_countP _),
      completes_of_writes rfl (congrArg (s.rd a + ·) (shiftLeft_eq_mul_one_shiftLeft _ _))⟩

/-- Settles O2: the model's values are the stated ones but for the comparisons and INSI's mask, which have lemmas above. -/
theorem immediateResults : Obligations.ImmediateResults := by
  unfold Obligations.ImmediateResults
  intro s d a m n k
  exact ⟨completes_of_writes rfl rfl, completes_of_writes rfl rfl, completes_of_writes rfl rfl,
    completes_of_writes rfl rfl, completes_of_writes rfl rfl, completes_of_writes rfl rfl, completes_of_writes rfl rfl,
    completes_of_writes rfl (valSlt_eq_slt _ _), completes_of_writes rfl (valSltZ_eq_ult _ _),
    insertPart (s.rd d) k m, fun _ hj => getLsbD_insertPart _ k m hj, completes_of_writes rfl rfl⟩

/-! ### A JR that traps while its thread has a parked access -/

/-- Thread 1 of core 0 is about to run a JR whose target, in g1, is 2; it has a handler. A load of its own is parked on line 3,
a growing cell: entry 0 of the waiter store of slice 3, its home, and the cell's growth record names it, with WCOUNT 1 and HEAD 0. -/
def parkedAtJump : State :=
  { curThread := ⟨0, 0, 1⟩
    threads := [(⟨0, 0, 1⟩, { status := .stalled, pc := 0x1000, tvec := 0x2000, g := vset (.replicate 32 0) 1 2 })]
    mem := [(0xC4, 1)], tags := [(3, 2)]
    dies := vset (.replicate 4 { live := false }) 0
      { waiters := [(3, [{ who := .thread ⟨0, 0, 1⟩, va := 0xC0, cell := 3, since := 0 }])] } }

/-- The trap gives the parked access up (09 R182): its entry goes, and WCOUNT of the growth record falls from 1 to 0. -/
theorem jr_trap_writes_waiterCount :
    ∃ t, exec (.jr 0 1) parkedAtJump = .next t ∧ t.mem.read 0xC4 = 0 ∧ parkedAtJump.mem.read 0xC4 = 1 := by
  refine ⟨_, rfl, ?_, ?_⟩ <;> decide +kernel

/-- Refutes O3: memory does change in a JR's MISALIGNED trap when the thread has a parked access to give up. -/
theorem not_branchesAndJumps : ¬ Obligations.BranchesAndJumps := by
  unfold Obligations.BranchesAndJumps
  intro h
  obtain ⟨-, -, -, -, -, -, -, -, traps⟩ := h parkedAtJump 0 1 0 0 0
  obtain ⟨t, ht, trapped⟩ := traps (by decide) ⟨by decide +kernel, rfl⟩
  obtain ⟨u, hu, after, before⟩ := jr_trap_writes_waiterCount
  cases ht.symm.trans hu
  have kept : t.mem.read 0xC4 = parkedAtJump.mem.read 0xC4 := (State.trapped_sameMem trapped).1 0xC4
  rw [after, before] at kept
  exact absurd kept (by decide)

end Sys2Proof.Proofs.ControlCore
end
